-- ==== Sys2Proof/Word.lean ====
section
/-! DEFINITION. The words of the FK-320: bytes, 8-byte identifiers and the bound of its 32-bit counts (00_scope.md, Conventions). -/

namespace Sys2Proof

/-- A byte is 8 bits (00_scope.md, Conventions). -/
abbrev Byte := BitVec 8

/-- An 8-byte identifier: a party identifier or the system title (00_scope.md, Table 0-3). -/
abbrev Id64 := BitVec 64

/-- 4,294,967,295, the greatest value of a 32-bit count (00_scope.md, Conventions). -/
abbrev maxU32 : Nat := 4294967295

end Sys2Proof
end

