-- ==== Sys2Proof/Config.lean ====
section
/-! DEFINITION. What the spec leaves to the algorithms it only names, and the one value it does not state: opaque constants
without a body, so that nothing can be proved of their values but the laws an algorithm carries with it (log entries 6 and 12). -/

namespace Sys2Proof

/-- An authenticated cipher: what protecting a payload under a key, a nonce and a header gives, and what a ciphertext and tag give
back. Nothing is given back but to the ciphertext and tag that protecting it gives (R97). -/
structure FrameCipher where
  protect : (key nonce header payload : List Byte) → List Byte × List Byte :=
    fun _ _ _ p => (p, List.replicate 12 0)
  recover : (key nonce header cipher tag : List Byte) → Option (List Byte) :=
    fun _ _ _ c t => if t = List.replicate 12 0 then some c else none
  cipher_length : ∀ k n h p, (protect k n h p).1.length = p.length := by simp
  tag_length : ∀ k n h p, (protect k n h p).2.length = 12 := by simp
  recover_iff : ∀ k n h p c t, recover k n h c t = some p ↔ protect k n h p = (c, t) := by
    intro k n h p c t; simp only [Prod.mk.injEq]; split <;> simp_all [eq_comm]
  deriving Inhabited

/-- A key wrapping: a wrapped key is 8 bytes longer than the key, and opens to the key it wraps alone (R97). -/
structure KeyWrap where
  wrap : (kek key : List Byte) → List Byte := fun _ k => List.replicate 8 0 ++ k
  recover : (kek wrapped : List Byte) → Option (List Byte) :=
    fun _ w => if w.take 8 = List.replicate 8 0 then some (w.drop 8) else none
  wrap_length : ∀ kek k, (wrap kek k).length = k.length + 8 := by
    intro kek k; rw [List.length_append, List.length_replicate, Nat.add_comm]
  recover_iff : ∀ kek w k, recover kek w = some k ↔ wrap kek k = w := by
    intro kek w k
    constructor
    · intro h
      split at h
      · rename_i e; cases h; rw [← e]; exact List.take_append_drop 8 w
      · cases h
    · rintro rfl; simp [List.take_append, List.drop_append]
  deriving Inhabited

/-- Sealing under a fixed key: a sealed key opens to the key it seals alone (Table 0-3). -/
structure KeySeal where
  close : (key : List Byte) → List Byte := id
  recover : (closed : List Byte) → Option (List Byte) := some
  recover_iff : ∀ w k, recover w = some k ↔ close k = w := by simp [eq_comm]
  deriving Inhabited

/-- AES-GCM of the frame jobs (R96, R97; log entry 6). -/
opaque Config.frames : FrameCipher

/-- AES key wrap of the key unwrap jobs (R96, R97; log entry 6). -/
opaque Config.keyWrap : KeyWrap

/-- The seal under the device root key (Table 0-3, R96; log entry 6). -/
opaque Config.rootSeal : KeySeal

/-- Byte `i` of the 16-byte AES-CMAC of a message, for bundle tags, tokens and receipts (R97, R149, R209; log entry 6). -/
opaque Config.cmacByte (key message : List Byte) (i : Nat) : Byte

/-- The check value of a generation body over its fields and its sealed key (R4, R174; log entry 7). -/
opaque Config.recordCheck (fields : List Nat) (sealedKey : List Byte) : BitVec 32

/-- The part revision that IDENTIFY sends when the identity record is invalid: R198 gives it no presence bit and no value
(log entry 12). -/
opaque Config.revisionUnread : Byte

end Sys2Proof
end

