-- ==== Sys2Proof/Syntax.lean ====
section
/-! DEFINITION. The commands of the block: one constructor for each row of spec/opcode_table.json. The table gives no row any
field; the operands are what the outside world decides at that step (log entries 2, 3, 6, 8). -/

namespace Sys2Proof

/-- What a write to the array leaves in its item when it is cut short or its read-back mismatches: the old contents, the new
contents whole, or contents whose check value fails (R73, R180, Table 9-5; log entry 8). -/
inductive Torn
  | kept
  | written
  | spoilt
  deriving DecidableEq, Repr

/-- How the read-back of a write compares with what was written (R180). -/
inductive ReadBack
  | matched
  | mismatched (left : Torn)
  deriving DecidableEq, Repr

/-- The level of a tamper input (R159). -/
inductive Level
  | low
  | high
  deriving DecidableEq, Repr

/-- The four tamper inputs: MAIN_COVER, TERMINAL_COVER, FIELD, CASE (R159). -/
inductive TamperInput
  | mainCover
  | terminalCover
  | magnetField
  | caseCover
  deriving DecidableEq, Repr

/-- One value for each tamper input, in the order MAIN_COVER, TERMINAL_COVER, FIELD, CASE (Table 10-3). -/
structure Inputs (α : Type) where
  mainCover : α
  terminalCover : α
  magnetField : α
  caseCover : α
  deriving DecidableEq, Repr

/-- A set of tamper inputs. -/
abbrev InputSet := Inputs Bool

/-- The commands and events of the part (spec/opcode_table.json), each whole and indivisible (95_what_each_step_holds.md). -/
inductive Instr
  /-- POWER_ON_RESET (R193). -/
  | powerOnReset
  /-- NRST_RESET (R193); `torn` is what a write in progress leaves. -/
  | nrstReset (torn : Torn)
  /-- LEAVE_LOADING (R191). -/
  | leaveLoading
  /-- WRITE_TRANSFER (R194) ends; `bytes` are those after the direction byte. -/
  | writeTransfer (bytes : List Byte)
  /-- READ_TRANSFER (R196) ends after `count` bytes have been clocked. -/
  | readTransfer (count : Nat)
  /-- INVALID_DIRECTION_TRANSFER (R193) ends after `count` bytes have been clocked. -/
  | invalidDirectionTransfer (direction : Byte) (count : Nat)
  /-- IDENTIFY (R198). -/
  | identify
  /-- READ_NOTICES (R200). -/
  | readNotices
  /-- HOLD (R205). -/
  | hold
  /-- HOLD_DRAINED (R205). -/
  | holdDrained
  /-- PROTECT (R100, R101). -/
  | protect
  /-- UNPROTECT (R107, R108). -/
  | unprotect
  /-- ACTIVATE_COMMAND (R155). -/
  | activateCommand
  /-- SLOT_QUERY (R29). -/
  | slotQuery
  /-- DIRECTORY_FIRST (R31). -/
  | directoryFirst
  /-- DIRECTORY_NEXT (R32). -/
  | directoryNext
  /-- ASSOCIATION_QUERY (R75). -/
  | associationQuery
  /-- RENEW_OPEN (R116). -/
  | renewOpen
  /-- RENEW_PART (R117). -/
  | renewPart
  /-- RENEW_CLOSE (R123). -/
  | renewClose
  /-- RENEW_RESULT (R127). -/
  | renewResult
  /-- RENEW_DROP (R128). -/
  | renewDrop
  /-- INTAKE_TIMER_EXPIRY (R122) of one context. -/
  | intakeTimerExpiry (ctx : Fin 2)
  /-- STICK_EDGE (R33). -/
  | stickEdge
  /-- HOUR_BOUNDARY (R34). -/
  | hourBoundary
  /-- DEBOUNCE_HOLD_EXPIRY (R159) of the holds that end at this moment. -/
  | debounceHoldExpiry (inputs : InputSet)
  /-- FIRST_COMPARISON (R170). -/
  | firstComparison
  /-- PFAIL_ASSERT (R202). -/
  | pfailAssert
  /-- PFAIL_WITHDRAW (R204). -/
  | pfailWithdraw
  /-- JOB_TAKE (R176). -/
  | jobTake
  /-- ROOM_GIVEN (R178). -/
  | roomGiven
  /-- STORE_WRITE_READ_BACK (R180). -/
  | storeWriteReadBack (result : ReadBack)
  /-- ENGINE_GRANT (R98). -/
  | engineGrant
  /-- FILL_UNWRAP_END (R81, R82); `opens` says how the job has ended. -/
  | fillUnwrapEnd (opens : Bool)
  /-- FRAME_PROTECT_END (R104). -/
  | frameProtectEnd
  /-- FRAME_UNPROTECT_END (R109); `pass` says how the job has ended. -/
  | frameUnprotectEnd (pass : Bool)
  /-- TOKEN_CHECK_END (R157); `pass` says how the job has ended. -/
  | tokenCheckEnd (pass : Bool)
  /-- KEY_UNWRAP_END (R144); `pass` says how the job has ended. -/
  | keyUnwrapEnd (pass : Bool)
  /-- BUNDLE_TAG_CHECK_END (R142); `pass` says how the job has ended. -/
  | bundleTagCheckEnd (pass : Bool)
  /-- RECEIPT_END (R150). -/
  | receiptEnd
  /-- CONTEXT_TAKEN (R137). -/
  | contextTaken
  /-- POWER_LOSS (R180); `torn` is what a write in progress leaves. -/
  | powerLoss (torn : Torn)
  /-- NRST_RELEASE (R185). -/
  | nrstRelease
  /-- DIRECTION_BYTE_RECEIVED (R195). -/
  | directionByteReceived (direction : Byte)
  /-- TAMPER_INPUT_LEVEL_CHANGE (R159): the sampled level of one input becomes `level`. -/
  | tamperInputLevelChange (input : TamperInput) (level : Level)
  /-- PFAIL_DEASSERTED (R202). -/
  | pfailDeasserted
  deriving DecidableEq, Repr

end Sys2Proof
end

