-- ==== Sys2Proof/WellFormed.lean ====
section
/-! DEFINITION. Which commands are well formed. The table gives no row any field, so the checks are about the model's operands
only: an invalid direction byte is neither 0x01 nor 0x02 (R193), and a debounce expiry names at least one input (R159). -/

namespace Sys2Proof

/-- An input set that holds at least one input. -/
def InputSet.nonEmpty (i : InputSet) : Bool :=
  i.mainCover || i.terminalCover || i.magnetField || i.caseCover

/-- The operands of a command are ones its row can have. -/
def Instr.wellFormed : Instr → Bool
  | .powerOnReset | .nrstReset _ | .leaveLoading | .writeTransfer _ | .readTransfer _ => true
  | .invalidDirectionTransfer d _ => d != 1#8 && d != 2#8
  | .identify | .readNotices | .hold | .holdDrained | .protect | .unprotect | .activateCommand => true
  | .slotQuery | .directoryFirst | .directoryNext | .associationQuery => true
  | .renewOpen | .renewPart | .renewClose | .renewResult | .renewDrop => true
  | .intakeTimerExpiry _ | .stickEdge | .hourBoundary => true
  | .debounceHoldExpiry i => i.nonEmpty
  | .firstComparison | .pfailAssert | .pfailWithdraw | .jobTake | .roomGiven => true
  | .storeWriteReadBack _ | .engineGrant | .fillUnwrapEnd _ | .frameProtectEnd => true
  | .frameUnprotectEnd _ | .tokenCheckEnd _ | .keyUnwrapEnd _ | .bundleTagCheckEnd _ => true
  | .receiptEnd | .contextTaken | .powerLoss _ | .nrstRelease => true
  | .directionByteReceived _ | .tamperInputLevelChange _ _ | .pfailDeasserted => true

end Sys2Proof
end

