-- ==== Sys2Proof/Machine/State.lean ====
section
/-! DEFINITION. Everything the spec gives the part, as plain data, and the part right after reset. What is one thing in the
spec has one home here; slot phases, wear classes, the ATTN line and the room waiters are computed from it. -/

namespace Sys2Proof.Machine

/-! ### Names (Tables 1-1 to 10-6) -/

/-- The purpose a key serves for a party (Table 0-3). -/
inductive Role
  | unicast
  | broadcast
  | kek
  | authority
  deriving DecidableEq, Repr

/-- One value for each role, in the order UNICAST, BROADCAST, KEK, AUTHORITY. -/
structure Roles (α : Type) where
  unicast : α
  broadcast : α
  kek : α
  authority : α
  deriving DecidableEq, Repr

/-- The kind of party an entry stands for (Table 3-2). -/
inductive PartyClass
  | commissioning
  | headEnd
  | installer
  | display
  | switch
  deriving DecidableEq, Repr

/-- What a tamper event does to a slot (Table 1-1). -/
inductive Policy
  | keep
  | suspend
  | erase
  deriving DecidableEq, Repr

/-- When an accepted incoming counter reaches the array (Table 1-1). -/
inductive CounterMode
  | writeBack
  | writeThrough
  deriving DecidableEq, Repr

/-- The two cells of a slot. -/
inductive CellId
  | a
  | b
  deriving DecidableEq, Repr

/-- The activation rule of a generation (Table 1-2). -/
inductive ActRule
  | immediate
  | atHour (hour : Nat)
  | onCommand
  deriving DecidableEq, Repr

/-- The role of a generation in its slot (R6). -/
inductive GenRole
  | current
  | overlap
  | staged
  deriving DecidableEq, Repr

/-- The phase of a slot (Table 1-3). -/
inductive Phase
  | vacant
  | single
  | staged
  | overlap
  | quarantined
  deriving DecidableEq, Repr

/-- Why an overlap ended (R24). -/
inductive OvlCause
  | superseded
  | time
  | count
  deriving DecidableEq, Repr

/-- The wear classes (Table 2-3). -/
inductive WearClass
  | fresh
  | due
  | urgent
  | spent
  deriving DecidableEq, Repr

/-- How a tamper event was raised (Table 8-1, R168). -/
inductive Origin
  | noEvent
  | live
  | load
  | resumed
  deriving DecidableEq, Repr

/-- The kinds of bundle (R133). -/
inductive BundleKind
  | install
  | enrol
  | revoke
  | resume
  | arm
  deriving DecidableEq, Repr

/-- The statuses and renewal outcomes, which share one code space (Table 10-6). -/
inductive Code
  | ok | notReady | noResponse | unknownCommand | badLength | badValue | notLoaded | powerFailing | faulted
  | unknownParty | roleNotBound | roleMismatch | noKey | keySpent | slotSuspended | slotQuarantined | slotErased
  | generationRetired | tagMismatch | counterStale | storeFailed | notStaged | endOfDirectory | renewalActive
  | contextBusy | contextNotGathering | contextFailed | duplicate | outOfSequence | noResult | storeInProgress
  | installedStaged | installedActive | enrolled | revoked | resumed | armed
  | malformed | signerUnknown | signerUnavailable | staleBundle | notAuthorised | targetUnknown | staleGeneration
  | generationExhausted | unwrapFailed | duplicateParty | slotBound | slotNotEmpty | roleNotAllowed | notMatching
  | lengthMismatch | timedOut | tamper | powerFail
  deriving DecidableEq, Repr

/-- The commands of the port (Table 10-5). -/
inductive Cmd
  | identify | readNotices | hold | protect | unprotect | activate
  | slotQuery | directoryFirst | directoryNext | associationQuery
  | renewOpen | renewPart | renewClose | renewResult | renewDrop
  deriving DecidableEq, Repr

/-- What a power hold was entered by (R197). -/
inductive HoldCause
  | power
  | command
  deriving DecidableEq, Repr

/-- The four device states; HOLDING records its cause (R197). -/
inductive DevState
  | loading
  | serving
  | holding (cause : HoldCause)
  | faulted
  deriving DecidableEq, Repr

/-! ### The key store array (Table 9-1). An item whose check value fails is `none` or `invalid` (R174, log entry 8). -/

/-- The link from a slot to an association entry and role (Table 1-1). -/
structure Binding where
  assoc : Fin 8
  role : Role
  deriving DecidableEq, Repr

/-- The identity record (R173). -/
structure Identity where
  title : Id64
  revision : Byte
  deriving DecidableEq, Repr

/-- The stored body of an association record (R60). -/
structure AssocBody where
  active : Bool
  party : Id64
  cls : PartyClass
  bindings : Roles (Option (Fin 32))
  deriving DecidableEq, Repr

/-- A field kept in two alternately written positions (R175). -/
structure TwoPos where
  first : Option Nat
  second : Option Nat
  deriving DecidableEq, Repr

/-- A stored association record (R60). -/
structure AssocRec where
  body : Option AssocBody
  floor : TwoPos
  deriving DecidableEq, Repr

/-- The stored body of a slot header (Table 1-1 without the floor). -/
structure HeaderBody where
  binding : Option Binding
  policy : Policy
  mode : CounterMode
  suspended : Bool
  deriving DecidableEq, Repr

/-- The fields of a generation that STAGE writes, without the key and the counters (Table 1-2). -/
structure GenParams where
  generation : Nat
  keyLength : Nat
  rule : ActRule
  lifetime : Nat
  useLimit : Nat
  counterStart : Nat
  counterStep : Nat
  graceHours : Nat
  graceCount : Nat
  deriving DecidableEq, Repr

/-- The fields ACTIVATE writes (Table 1-2). -/
structure Activation where
  stamp : Nat
  hour : Nat
  deriving DecidableEq, Repr

/-- The record a STAGE job carries: the fields of the generation and its key, which the Store Writer seals as it writes the cell
(R14, R144). -/
structure GenRecord where
  params : GenParams
  key : List Byte
  deriving DecidableEq, Repr

/-- The stored body of a generation: its fields, its key under the device root key, and the record check value (Table 1-2). -/
structure GenBody where
  params : GenParams
  sealedKey : List Byte
  check : BitVec 32
  deriving DecidableEq, Repr

/-- The stored forms of a cell body (R174). A generation body is valid when its check value matches its contents; `invalid` is
anything else that matches no check value. -/
inductive CellBody
  | invalid
  | empty
  | gen (body : GenBody)
  deriving DecidableEq, Repr

/-- A stored cell: body, activation part, and the two counter fields (R5). -/
structure CellRec where
  body : CellBody
  activation : Option Activation
  ceiling : TwoPos
  highWater : TwoPos
  deriving DecidableEq, Repr

/-- A stored slot: header body, generation floor and cells. -/
structure SlotRec where
  header : Option HeaderBody
  floor : TwoPos
  cellA : CellRec
  cellB : CellRec
  deriving DecidableEq, Repr

/-- Selection and expected levels: `none` for an input that is not selected (R160). -/
abbrev ArmRecord := Inputs (Option Level)

/-- A stored copy of the arm record (R160). -/
structure ArmCopy where
  record : ArmRecord
  count : Nat
  deriving DecidableEq, Repr

/-- The action of a tamper work item (R163). -/
inductive TamperAct
  | suspend
  | erase
  deriving DecidableEq, Repr

/-- The tamper record (Table 8-1); a level of `none` is UNSETTLED. -/
structure TamperRecord where
  origin : Origin
  levels : Inputs (Option Level)
  pattern : InputSet
  eraseCount : Nat
  suspendCount : Nat
  pendingSet : List (Fin 32 × TamperAct)
  deriving DecidableEq, Repr

/-- The key store array (Table 9-1). -/
structure StoreArray where
  identity : Option Identity
  assocs : Vector AssocRec 8
  slots : Vector SlotRec 32
  strip : Vector (Option Nat) 16
  armFirst : Option ArmCopy
  armSecond : Option ArmCopy
  tamper : Option TamperRecord
  deriving DecidableEq, Repr

/-! ### The images -/

/-- A generation in the slot image, without the key material (R1), with its unused mark (R41) and, when current or overlap,
its wear permille (R56). -/
structure CellImg where
  params : GenParams
  activation : Option Activation
  ceiling : Nat
  highWater : Nat
  unused : Bool
  wear : Option Nat
  deriving DecidableEq, Repr

/-- The volatile image of a slot (R1). -/
structure SlotImg where
  binding : Option Binding
  policy : Policy
  mode : CounterMode
  suspended : Bool
  floor : Nat
  cellA : Option CellImg
  cellB : Option CellImg
  quarantined : Bool
  graceProgress : Nat
  actDue : Option Nat
  ovlDue : Option (Nat × OvlCause)
  repairA : Bool
  repairB : Bool
  repairFloor : Bool
  deriving DecidableEq, Repr

/-- How an entry came to be DAMAGED (Table 3-1). -/
inductive DamageOrigin
  | load
  | write
  deriving DecidableEq, Repr

/-- The state of an association entry (Table 3-1). -/
inductive AssocState
  | empty
  | active
  | damaged (origin : DamageOrigin)
  deriving DecidableEq, Repr

/-- The image of an association entry (R59); identifier and class are present or absent together; a floor of `none` is
unknown. -/
structure AssocImg where
  state : AssocState
  ident : Option (Id64 × PartyClass)
  bindings : Roles (Option (Fin 32))
  floor : Option Nat
  deriving DecidableEq, Repr

/-! ### Working Key Cache (Chapter 4) -/

/-- The two requesters of the cache and the engine (R79, R98). -/
inductive Requester
  | port
  | renewal
  deriving DecidableEq, Repr

/-- The role of a READY entry (R78). -/
inductive EntryRole
  | active
  | acceptOnly
  | verifyOnly
  deriving DecidableEq, Repr

/-- Why the holder's use of an entry is withheld (Table 4-2). -/
inductive Withhold
  | retired
  | erased
  | suspended
  | quarantined
  deriving DecidableEq, Repr

/-- A cache entry (Table 4-1). `filling` is the condition; an entry that keeps `n` in role ACCEPT_ONLY is retained (R92). -/
structure Entry where
  slot : Fin 32
  cell : CellId
  gen : Nat
  filling : Bool
  role : Option EntryRole
  key : List Byte
  n : Option Nat
  h : Nat
  dirty : Bool
  resvPending : Bool
  flushReq : Bool
  pinPort : Bool
  pinRenewal : Bool
  withhold : Option Withhold
  deriving DecidableEq, Repr

/-- A fill that waits for queue room before its entry is placed (R85), with its holders and the engine line it will use. -/
structure WaitFill where
  slot : Fin 32
  cell : CellId
  gen : Nat
  port : Bool
  renewal : Bool
  line : Requester
  deriving DecidableEq, Repr

/-- The cache: entries from the most to the least recently taken (R77), tamper bars (R94), waiting fills (R85). -/
structure Cache where
  entries : List Entry
  bars : Vector (Option TamperAct) 32
  waits : List WaitFill
  deriving DecidableEq, Repr

/-! ### Crypto Engine and Engine Arbiter (Chapter 5) -/

/-- A Crypto Engine job with its inputs (Table 5-1). -/
inductive EngineJob
  | fill (slot : Fin 32) (cell : CellId) (gen : Nat)
  | keyUnwrap (kek wrapped : List Byte)
  | frameProtect (key nonce header payload : List Byte)
  | frameUnprotect (key nonce header cipher tag : List Byte)
  | bundleTag (key message tag : List Byte)
  | token (key message tag : List Byte)
  | receipt (key message : List Byte)
  deriving DecidableEq, Repr

/-- The job in progress; `orphan` when its requester no longer uses the outcome (R99, R148). -/
structure Granted where
  who : Requester
  job : EngineJob
  orphan : Bool
  deriving DecidableEq, Repr

/-- The engine and its arbiter (R98). -/
structure Engine where
  job : Option Granted
  portLine : Option EngineJob
  renewalLine : Option EngineJob
  last : Requester
  deriving DecidableEq, Repr

/-! ### Store Writer (Chapter 9) -/

/-- A role choice of an ENROL bundle (R135). -/
inductive RoleChoice
  | bind (slot : Fin 32) (policy : Policy) (mode : CounterMode)
  | unbind
  | leave
  deriving DecidableEq, Repr

/-- The two forms of an ASSOCIATION job (R69). -/
inductive AssocForm
  | enrol (party : Id64) (cls : PartyClass) (choices : Roles RoleChoice)
  | empty
  deriving DecidableEq, Repr

/-- The jobs of the Store Writer's queue (Table 9-2). -/
inductive StoreJob
  | stage (slot : Fin 32) (target : Binding) (record : GenRecord) (incomingFloor : Nat)
  | activate (slot : Fin 32) (gen : Nat)
  | overlapEnd (slot : Fin 32) (gen : Nat) (cause : OvlCause)
  | revokeSlot (slot : Fin 32) (unbind : Bool)
  | suspend (slot : Fin 32)
  | resume (slot : Fin 32)
  | header (slot : Fin 32) (binding : Option Binding) (policy : Policy) (mode : CounterMode)
  | reserve (slot : Fin 32) (cell : CellId) (gen value : Nat)
  | highWater (slot : Fin 32) (cell : CellId) (gen value : Nat)
  | hour
  | association (index : Fin 8) (form : AssocForm)
  | bundleFloor (index : Fin 8) (party : Id64) (cls : PartyClass) (sequence : Nat)
  | armRecord (record : ArmRecord)
  | cellRepair (slot : Fin 32) (cell : CellId)
  | floorRepair (slot : Fin 32)
  deriving DecidableEq, Repr

/-- A job with its requester: a STORING context, or the Port Executor waiting on it; `holdFlush` marks a HIGHWATER queued for
the hold flush (R205). -/
structure QJob where
  job : StoreJob
  ctx : Option (Fin 2)
  port : Bool
  holdFlush : Bool
  deriving DecidableEq, Repr

/-- An item of the flush list (R182); `fromEntry` while it writes its entry's h as it stands at the take. -/
structure FlushItem where
  slot : Fin 32
  cell : CellId
  gen : Nat
  value : Nat
  fromEntry : Bool
  deriving DecidableEq, Repr

/-- The items of a tamper work list (R163). -/
inductive TamperItem
  | opening
  | slot (slot : Fin 32) (act : TamperAct)
  | closing
  deriving DecidableEq, Repr

/-- A tamper work list: items not yet taken, the record it carries, the slot items that failed and those that completed;
`resumed` when the loader handed it over (R163, R165, R190). -/
structure TamperWork where
  items : List TamperItem
  record : TamperRecord
  failed : List (Fin 32 × TamperAct)
  completed : List (Fin 32)
  resumed : Bool
  deriving DecidableEq, Repr

/-- One write to the array, with the item it goes to (R173, R179); `second` names the second of two positions. -/
inductive ArrayWrite
  | headerBody (slot : Fin 32) (body : HeaderBody)
  | floor (slot : Fin 32) (second : Bool) (value : Nat)
  | cellBody (slot : Fin 32) (cell : CellId) (body : CellBody)
  | activation (slot : Fin 32) (cell : CellId) (part : Option Activation)
  | ceiling (slot : Fin 32) (cell : CellId) (second : Bool) (value : Nat)
  | highWater (slot : Fin 32) (cell : CellId) (second : Bool) (value : Nat)
  | assocBody (index : Fin 8) (body : AssocBody)
  | assocFloor (index : Fin 8) (second : Bool) (value : Nat)
  | strip (position : Fin 16) (value : Nat)
  | arm (second : Bool) (copy : ArmCopy)
  | tamper (record : TamperRecord)
  deriving DecidableEq, Repr

/-- What the writer has in hand: a job of the queue, a flush item, or an item of a tamper work list. -/
inductive Task
  | queued (job : QJob)
  | flush (item : FlushItem)
  | opening
  | item (slot : Fin 32) (act : TamperAct)
  | closing (record : TamperRecord)
  deriving DecidableEq, Repr

/-- The job in progress: its writes still to end, the first of them being made; whether that one is its second try (R180); H at
the take (R16, R38); `stale` once a newer tamper list has replaced the item's own (R169); `bothCells` for a STAGE whose slot was
QUARANTINED at the take, which writes both cells (R15, R179; log entry 45). -/
structure Running where
  task : Task
  writes : List ArrayWrite
  retried : Bool
  hour : Nat
  stale : Bool
  bothCells : Bool
  deriving DecidableEq, Repr

/-- The Store Writer (9.2). -/
structure Writer where
  job : Option Running
  queue : List QJob
  tamper : Option TamperWork
  flush : List FlushItem
  nextStrip : Fin 16
  stripPending : Bool
  deriving DecidableEq, Repr

/-! ### Bundles and renewal (Chapters 6 and 7) -/

/-- An INSTALL body (R134). -/
structure InstallBody where
  target : Id64
  role : Role
  generation : Nat
  rule : ActRule
  lifetime : Nat
  useLimit : Nat
  counterStart : Nat
  counterStep : Nat
  graceHours : Nat
  graceCount : Nat
  incomingFloor : Nat
  keyLength : Nat
  wrapped : List Byte
  deriving DecidableEq, Repr

/-- The body of a bundle (R134, R135, R136); a REVOKE without a role has scope ENTRY. -/
inductive BundleBody
  | install (body : InstallBody)
  | enrol (index : Fin 8) (party : Id64) (cls : PartyClass) (choices : Roles RoleChoice)
  | revoke (target : Id64) (role : Option Role)
  | resume (target : Id64) (roles : Roles Bool)
  | arm (record : ArmRecord)
  deriving DecidableEq, Repr

/-- A bundle as parsed: header, body, the bytes its tag covers, and the tag (R133). -/
structure Bundle where
  sequence : Nat
  signer : Id64
  body : BundleBody
  covered : List Byte
  tag : List Byte
  deriving DecidableEq, Repr

/-- The states of an intake context (R113). -/
inductive CtxState
  | idle
  | gathering
  | closed
  | verifying
  | storing
  | done
  | failed
  deriving DecidableEq, Repr

/-- The result fields verification has reached (R138): kind, sequence and signer, slot and generation, receipt. -/
structure RecFields where
  kind : Option BundleKind
  header : Option (Nat × Id64)
  slotGen : Option (Fin 32 × Nat)
  receipt : Option (List Byte)
  deriving DecidableEq, Repr

/-- A result record (Table 6-4). -/
structure ResultRec where
  outcome : Code
  fields : RecFields
  deriving DecidableEq, Repr

/-- How far a job of a STORING context that has not ended has come (7.2). -/
inductive JobMark
  | notQueued
  | queued
  deriving DecidableEq, Repr

/-- An intake context (Table 6-1) with, while STORING, its jobs that have not ended (R144, R152) and the success outcome it will
report (7.2, R149). Bytes received is the length of the buffer; a timer of `none` is stopped. -/
structure Ctx where
  state : CtxState
  total : Nat
  nextSeq : Nat
  buffer : List Byte
  timer : Option Nat
  dropPending : Bool
  fields : RecFields
  result : Option ResultRec
  jobs : List (StoreJob × JobMark)
  success : Code
  deriving DecidableEq, Repr

/-- Where a verification stands: waiting on the AUTHORITY entry, the tag check, the KEK entry, the key unwrap, the receipt
(R142, R144, R149). -/
inductive VerifStage
  | authEntry
  | tagCheck
  | kekEntry
  | keyUnwrap
  | receipt
  deriving DecidableEq, Repr

/-- The verification in hand (7.2). -/
structure Verif where
  ctx : Fin 2
  bundle : Bundle
  signerIndex : Fin 8
  signerClass : PartyClass
  authSlot : Fin 32
  signGen : Nat
  stage : VerifStage
  kek : Option (Fin 32 × Nat)
  target : Option (Fin 32 × Binding)
  plan : List StoreJob
  deriving DecidableEq, Repr

/-- The Renewal Intake and the Renewal Engine: the two contexts, the verification queue (R124), the verification in hand, and
the STORING contexts in the order they became so (R151). -/
structure Renewal where
  ctxs : Vector Ctx 2
  queue : List (Fin 2)
  verif : Option Verif
  storing : List (Fin 2)
  deriving DecidableEq, Repr

/-! ### Port Executor and Command Port (Chapters 5, 7 and 10) -/

/-- Where a PROTECT stands: waiting on its fill, for room to place a RESERVE, on a RESERVE, or on its frame job with the counter
and class taken (5.2). -/
inductive ProtectStage
  | fill
  | room
  | reserve
  | frame (counter : Nat) (cls : WearClass)
  deriving DecidableEq, Repr

/-- A PROTECT in flight. -/
structure ProtectOp where
  slot : Fin 32
  cell : CellId
  gen : Nat
  header : List Byte
  payload : List Byte
  stage : ProtectStage
  deriving DecidableEq, Repr

/-- A generation on a trial list and the role it is tried as (R108). -/
structure Trial where
  gen : Nat
  role : GenRole
  deriving DecidableEq, Repr

/-- Where an UNPROTECT stands: waiting on a fill, on its frame job, for room to place its write-through HIGHWATER, or on that
job (5.3). -/
inductive UnprotectStage
  | fill
  | frame
  | room
  | high
  deriving DecidableEq, Repr

/-- An UNPROTECT in flight; `plain` holds the plaintext withheld during a write-through wait (R111). -/
structure UnprotectOp where
  party : Id64
  slot : Fin 32
  counter : Nat
  header : List Byte
  cipher : List Byte
  tag : List Byte
  cell : CellId
  trial : Trial
  rest : List Trial
  stale : Bool
  tagFail : Bool
  plain : List Byte
  stage : UnprotectStage
  deriving DecidableEq, Repr

/-- Where an ACTIVATE command stands (7.7). -/
inductive ActivateStage
  | fill
  | token
  | room
  | store
  deriving DecidableEq, Repr

/-- An ACTIVATE command in flight. -/
structure ActivateOp where
  slot : Fin 32
  cell : CellId
  gen : Nat
  token : List Byte
  stage : ActivateStage
  deriving DecidableEq, Repr

/-- The Port Executor: free, holding a request handed over, or running a command that waits (R194). -/
inductive Executor
  | free
  | handed (cmd : Cmd) (body : List Byte)
  | protect (op : ProtectOp)
  | unprotect (op : UnprotectOp)
  | activate (op : ActivateOp)
  | hold (flushFailed : Bool)
  deriving DecidableEq, Repr

/-- The direction of a transfer (10.1). -/
inductive Direction
  | write
  | read
  | invalid
  deriving DecidableEq, Repr

/-- A transfer in progress, fixed as executing or not at its direction byte (R195). -/
structure Transfer where
  direction : Direction
  executing : Bool
  deriving DecidableEq, Repr

/-- A response: status, OVERRUN flag and body (Table 10-2). -/
structure Response where
  status : Code
  overrun : Bool
  body : List Byte
  deriving DecidableEq, Repr

/-- The Command Port and the Port Executor (R193). `pdo` is the model's record of the bytes last driven on PDO (log entry 37). -/
structure Port where
  rx : List Byte
  rxCount : Nat
  retained : Option Response
  overrun : Bool
  cursor : Option (Fin 32)
  transfer : Option Transfer
  exec : Executor
  pdo : List Byte
  deriving DecidableEq, Repr

/-! ### Notices (Table of R199) -/

/-- A notice with its subject and content (R199). -/
inductive Notice
  | loadComplete (entered : DevState) (quarantined damaged : Nat) (armLost tamperDone : Bool)
  | renewalFinished (ctx : Fin 2) (outcome : Code)
  | wearChanged (slot : Fin 32) (gen : Nat) (previous new : WearClass) (permille : Nat)
  | activated (slot : Fin 32) (gen : Nat) (previous : Option Nat) (kept : Bool)
  | overlapEnded (slot : Fin 32) (gen : Nat) (cause : OvlCause)
  | quarantined (slot : Fin 32)
  | tamper (origin recorded : Origin) (levels : Inputs (Option Level)) (pattern : InputSet)
      (eraseCount suspendCount : Nat) (slots : List (Fin 32))
  deriving DecidableEq, Repr

/-- The kind and subject of a notice, which the Notice Set keeps apart (R199). -/
inductive NoticeKey
  | loadComplete
  | renewalFinished (ctx : Fin 2)
  | wearChanged (slot : Fin 32)
  | activated (slot : Fin 32)
  | overlapEnded (slot : Fin 32)
  | quarantined (slot : Fin 32)
  | tamper
  deriving DecidableEq, Repr

/-! ### The rest, and the whole -/

/-- The lines into the part and its supply (Table 0-2); they belong to the outside and outlive a reset. -/
structure Pins where
  supply : Bool
  nrst : Bool
  pfail : Bool
  tamper : Inputs Level
  deriving DecidableEq, Repr

/-- The Service Clock (2.1). -/
structure Clock where
  seconds : Nat
  hour : Nat
  deriving DecidableEq, Repr

/-- The Tamper Monitor (Chapter 8): debounced levels (`none` is UNSETTLED), running holds, the arm record in force with its
copy and count, the lost mark, the match state, and whether the first comparison has been made. -/
structure Monitor where
  debounced : Inputs (Option Level)
  holds : Inputs Bool
  arm : ArmRecord
  armLost : Bool
  armSecond : Bool
  armCount : Nat
  matching : Bool
  compared : Bool
  deriving DecidableEq, Repr

/-- The power-fail warning as the port has taken it (R202). -/
structure Warning where
  taken : Bool
  withdrawing : Bool
  deriving DecidableEq, Repr

/-- The whole part, and the queue of commands that wait. -/
structure State where
  pending : List Instr
  pins : Pins
  array : StoreArray
  device : DevState
  warning : Warning
  clock : Clock
  slots : Vector SlotImg 32
  assocs : Vector AssocImg 8
  cache : Cache
  engine : Engine
  port : Port
  renewal : Renewal
  monitor : Monitor
  writer : Writer
  notices : List Notice
  loadTamper : Bool
  deriving DecidableEq, Repr

/-- Why a step can fault: no command of this part does, every error of it being a status, a notice or a device state. Safe: the
type has no value. -/
inductive Fault
  deriving DecidableEq, Repr

/-- Why a command can be refused. -/
inductive Refusal
  /-- Raised by `exec` for a row of the table without a meaning yet; safe, since the machine stops. No row is left so. -/
  | notModelled (mnemonic : String)
  deriving DecidableEq, Repr

/-! ### Reset -/

/-- All four roles with one value. -/
def Roles.all {α : Type} (x : α) : Roles α := ⟨x, x, x, x⟩

/-- All four inputs with one value. -/
def Inputs.all {α : Type} (x : α) : Sys2Proof.Inputs α := ⟨x, x, x, x⟩

/-- The fields of generation 1 of slots 0 and 1 at manufacture (R3). -/
def GenParams.manufacture : GenParams :=
  { generation := 1, keyLength := 32, rule := .immediate, lifetime := 0, useLimit := 0, counterStart := 0,
    counterStep := 256, graceHours := 0, graceCount := 0 }

/-- The number of an activation rule with its hour, as the check value covers them (Table 10-4). -/
def ActRule.fields : ActRule → List Nat
  | .immediate => [1, 0]
  | .atHour hour => [2, hour]
  | .onCommand => [3, 0]

/-- The fields of a generation that its check value covers, without the key (Table 1-2). -/
def GenParams.fields (p : GenParams) : List Nat :=
  [p.generation, p.keyLength] ++ p.rule.fields ++
    [p.lifetime, p.useLimit, p.counterStart, p.counterStep, p.graceHours, p.graceCount]

/-- A record as the Store Writer stores it: the key sealed under the device root key, with the check value (R144, R174). -/
def GenRecord.stored (r : GenRecord) : GenBody :=
  { params := r.params
    sealedKey := Config.rootSeal.close r.key
    check := Config.recordCheck r.params.fields (Config.rootSeal.close r.key) }

/-- An EMPTY stored cell. Its counter positions belong to no generation (R175). -/
def CellRec.blank : CellRec :=
  { body := .empty, activation := none, ceiling := ⟨none, none⟩, highWater := ⟨none, none⟩ }

/-- The stored generation 1 of slots 0 and 1 at manufacture (R3); the key is zero (log entry 9). -/
def CellRec.manufacture : CellRec :=
  { body := .gen (GenRecord.stored ⟨.manufacture, List.replicate 32 0#8⟩), activation := some ⟨1, 0⟩,
    ceiling := ⟨some 256, some 256⟩, highWater := ⟨some 0, some 0⟩ }

/-- Slots 2 to 31 at manufacture (R3). -/
def SlotRec.blank : SlotRec :=
  { header := some ⟨none, .keep, .writeBack, false⟩, floor := ⟨some 0, some 0⟩, cellA := .blank, cellB := .blank }

/-- Slots 0 and 1 at manufacture, bound to association 0 (R3). -/
def SlotRec.manufacture (role : Role) : SlotRec :=
  { header := some ⟨some ⟨0, role⟩, .keep, .writeThrough, false⟩, floor := ⟨some 1, some 1⟩,
    cellA := .manufacture, cellB := .blank }

/-- The bindings of entry 0 at manufacture (R61). -/
def Roles.manufacture : Roles (Option (Fin 32)) := ⟨none, none, some 0, some 1⟩

/-- The array at manufacture (R3, R39, R61, R160, R163); the identity values, the identifier and class stored in the EMPTY entries, and
what each of two positions holds are the model's (log entry 9). -/
def StoreArray.manufacture : StoreArray :=
  { identity := some ⟨0#64, 0#8⟩
    assocs := (Vector.replicate 8 ⟨some ⟨false, 0#64, .commissioning, .all none⟩, ⟨some 0, some 0⟩⟩).set 0
      ⟨some ⟨true, 0#64, .commissioning, .manufacture⟩, ⟨some 0, some 0⟩⟩
    slots := ((Vector.replicate 32 SlotRec.blank).set 0 (.manufacture .kek)).set 1 (.manufacture .authority)
    strip := Vector.replicate 16 none
    armFirst := some ⟨Inputs.all none, 0⟩
    armSecond := some ⟨Inputs.all none, 1⟩
    tamper := some ⟨.noEvent, Inputs.all (some .low), Inputs.all false, 0, 0, []⟩ }

/-- A slot image that has not been built: unbound, KEEP, WRITE_BACK, both cells EMPTY. -/
def SlotImg.blank : SlotImg :=
  { binding := none, policy := .keep, mode := .writeBack, suspended := false, floor := 0, cellA := none, cellB := none,
    quarantined := false, graceProgress := 0, actDue := none, ovlDue := none, repairA := false, repairB := false,
    repairFloor := false }

/-- The image of slot 0 or 1 that the loader builds at manufacture (R3). -/
def SlotImg.manufacture (role : Role) : SlotImg :=
  { SlotImg.blank with
    binding := some ⟨0, role⟩, mode := .writeThrough, floor := 1
    cellA := some ⟨.manufacture, some ⟨1, 0⟩, 256, 0, false, none⟩ }

/-- An EMPTY association entry with its floor. -/
def AssocImg.blank (floor : Option Nat) : AssocImg := ⟨.empty, none, .all none, floor⟩

/-- No result field reached. -/
def RecFields.none : RecFields := ⟨Option.none, Option.none, Option.none, Option.none⟩

/-- An IDLE context (R113). -/
def Ctx.idle : Ctx :=
  { state := .idle, total := 0, nextSeq := 0, buffer := [], timer := none, dropPending := false, fields := .none,
    result := none, jobs := [], success := .ok }

/-- The cache after reset (R76, R94). -/
def Cache.reset : Cache := ⟨[], Vector.replicate 32 none, []⟩

/-- The engine after reset: free, both lines empty, the Renewal Engine holding the last grant (R98). -/
def Engine.reset : Engine := ⟨none, none, none, .renewal⟩

/-- The port after reset (R193). -/
def Port.reset : Port := ⟨[], 0, none, false, none, none, .free, []⟩

/-- Intake and Renewal Engine after reset (R113, R137). -/
def Renewal.reset : Renewal := ⟨Vector.replicate 2 .idle, [], none, []⟩

/-- The monitor after reset, before the loader has taken the arm record (R170). -/
def Monitor.reset : Monitor := ⟨Inputs.all none, Inputs.all false, Inputs.all none, false, false, 0, true, false⟩

/-- The Store Writer after reset (R176). The loader sets the next strip position (R39); until then, and after an invalid identity
record, it reads 0, the model's choice (log entry 61). -/
def Writer.reset : Writer := ⟨none, [], none, [], 0, false⟩

/-- The part right after the power-on reset of a part fresh from manufacture: every volatile state cleared, LOADING, the images
as the loader builds them from the array (R185), debouncing begun (R159); log entries 9, 10 and 11. -/
def State.reset : State :=
  { pending := []
    pins := ⟨true, false, false, Inputs.all .low⟩
    array := .manufacture
    device := .loading
    warning := ⟨false, false⟩
    clock := ⟨0, 0⟩
    slots := ((Vector.replicate 32 SlotImg.blank).set 0 (.manufacture .kek)).set 1 (.manufacture .authority)
    assocs := (Vector.replicate 8 (AssocImg.blank (some 0))).set 0
      ⟨.active, some (0#64, .commissioning), .manufacture, some 0⟩
    cache := .reset
    engine := .reset
    port := .reset
    renewal := .reset
    monitor := { Monitor.reset with holds := Inputs.all true, armSecond := true, armCount := 1 }
    writer := .reset
    notices := []
    loadTamper := false }

end Sys2Proof.Machine
end

