-- ==== Sys2Proof/Machine/Ops.lean ====
section
/-! DEFINITION. The shared operations on the state: reading and changing one slot, entry, context or input; bytes in and out;
raising a notice; the entries of the cache; the lines of the engine; answering a command. -/

namespace Sys2Proof.Machine

/-! ### Vectors, roles and inputs -/

/-- `v` with `x` at `i`. -/
def vset {α : Type} {n : Nat} (v : Vector α n) (i : Fin n) (x : α) : Vector α n := v.set i.val x i.isLt

/-- The slots in slot-number order. -/
def allSlots : List (Fin 32) := List.finRange 32

/-- The association entries in index order. -/
def allAssocs : List (Fin 8) := List.finRange 8

/-- The roles in role order (R135). -/
def allRoles : List Role := [.unicast, .broadcast, .kek, .authority]

/-- The value for one role. -/
def roleGet {α : Type} (r : Roles α) : Role → α
  | .unicast => r.unicast
  | .broadcast => r.broadcast
  | .kek => r.kek
  | .authority => r.authority

/-- The values for the four roles computed from the role. -/
def rolesOf {α : Type} (f : Role → α) : Roles α := ⟨f .unicast, f .broadcast, f .kek, f .authority⟩

/-- The value for one input. -/
def inputGet {α : Type} (i : Inputs α) : TamperInput → α
  | .mainCover => i.mainCover
  | .terminalCover => i.terminalCover
  | .magnetField => i.magnetField
  | .caseCover => i.caseCover

/-- The values for the four inputs computed from the input. -/
def inputsOf {α : Type} (f : TamperInput → α) : Inputs α :=
  ⟨f .mainCover, f .terminalCover, f .magnetField, f .caseCover⟩

/-- `p` holds of every input. -/
def inputsAll (p : TamperInput → Bool) : Bool :=
  p .mainCover && p .terminalCover && p .magnetField && p .caseCover

/-! ### Bytes; multi-byte fields are sent most significant byte first (00_scope.md, Byte order) -/

/-- A number as one byte. -/
def u8 (n : Nat) : Byte := BitVec.ofNat 8 n

/-- A number in two bytes. -/
def be16 (n : Nat) : List Byte := [u8 (n / 256), u8 n]

/-- A number in four bytes. -/
def be32 (n : Nat) : List Byte := [u8 (n / 16777216), u8 (n / 65536), u8 (n / 256), u8 n]

/-- An identifier in eight bytes. -/
def be64 (x : Id64) : List Byte := be32 (x.toNat / 4294967296) ++ be32 (x.toNat % 4294967296)

/-- The number that bytes spell. -/
def beNat (bytes : List Byte) : Nat := bytes.foldl (fun acc b => acc * 256 + b.toNat) 0

/-- `len` bytes of `bytes` from `offset`. -/
def field (bytes : List Byte) (offset len : Nat) : List Byte := (bytes.drop offset).take len

/-- The number in `len` bytes from `offset`. -/
def fieldNat (bytes : List Byte) (offset len : Nat) : Nat := beNat (field bytes offset len)

/-- The identifier in eight bytes from `offset`. -/
def fieldId (bytes : List Byte) (offset : Nat) : Id64 := BitVec.ofNat 64 (fieldNat bytes offset 8)

/-- `len` bytes given by their index. -/
def bytesOf (len : Nat) (f : Nat → Byte) : List Byte := (List.range len).map f

/-- The AES-CMAC of a message: 16 bytes (R97, R149, R209). -/
def cmac (key message : List Byte) : List Byte := bytesOf 16 (Config.cmacByte key message)

/-- A yes-or-no byte (Table 10-3). -/
def yesNo (b : Bool) : Byte := if b then 1#8 else 0#8

/-! ### One slot, entry or context -/

/-- The image of a slot (R1). -/
def slotOf (s : State) (i : Fin 32) : SlotImg := s.slots[i]

/-- The state with one slot image changed. -/
def setSlot (s : State) (i : Fin 32) (x : SlotImg) : State := { s with slots := vset s.slots i x }

/-- The image of an association entry (R59). -/
def assocOf (s : State) (i : Fin 8) : AssocImg := s.assocs[i]

/-- The state with one association entry changed. -/
def setAssoc (s : State) (i : Fin 8) (x : AssocImg) : State := { s with assocs := vset s.assocs i x }

/-- An intake context (R113). -/
def ctxOf (s : State) (i : Fin 2) : Ctx := s.renewal.ctxs[i]

/-- The state with one context changed. -/
def setCtx (s : State) (i : Fin 2) (x : Ctx) : State :=
  { s with renewal := { s.renewal with ctxs := vset s.renewal.ctxs i x } }

/-- The generation in one cell of a slot image. -/
def cellOf (img : SlotImg) : CellId → Option CellImg
  | .a => img.cellA
  | .b => img.cellB

/-- A slot image with one cell changed. -/
def setCell (img : SlotImg) (c : CellId) (x : Option CellImg) : SlotImg :=
  match c with
  | .a => { img with cellA := x }
  | .b => { img with cellB := x }

/-- The other cell of a slot. -/
def otherCell : CellId → CellId
  | .a => .b
  | .b => .a

/-- A stored cell. -/
def storedCell (s : State) (slot : Fin 32) : CellId → CellRec
  | .a => (s.array.slots[slot]).cellA
  | .b => (s.array.slots[slot]).cellB

/-- The generation body a cell body holds, when its check value matches (R5, R174). -/
def validBody : CellBody → Option GenBody
  | .gen b => if b.check = Config.recordCheck b.params.fields b.sealedKey then some b else none
  | .empty => none
  | .invalid => none

/-! ### Notices (R199) -/

/-- The kind and subject of a notice. -/
def noticeKey : Notice → NoticeKey
  | .loadComplete .. => .loadComplete
  | .renewalFinished c _ => .renewalFinished c
  | .wearChanged i .. => .wearChanged i
  | .activated i .. => .activated i
  | .overlapEnded i .. => .overlapEnded i
  | .quarantined i => .quarantined i
  | .tamper .. => .tamper

/-- A pending notice of the same kind and subject keeps its place and takes the new content; otherwise the notice joins as the
newest (R199). -/
def raiseIn (n : Notice) : List Notice → List Notice
  | [] => [n]
  | m :: rest => if noticeKey m = noticeKey n then n :: rest else m :: raiseIn n rest

/-- Raise a notice (R199). -/
def raise (n : Notice) (s : State) : State := { s with notices := raiseIn n s.notices }

/-- The attention line: asserted exactly while the Notice Set is non-empty and the device is not LOADING; low while NRST is
held (R201), and without supply. -/
def attn (s : State) : Bool :=
  s.pins.supply && !s.pins.nrst && !s.notices.isEmpty && s.device != .loading

/-! ### What may happen -/

/-- The supply is up and NRST is not held, so that the part runs. -/
def running (s : State) : Bool := s.pins.supply && !s.pins.nrst

/-- The device is SERVING or HOLDING (R161, R33). -/
def servingOrHolding (s : State) : Bool :=
  match s.device with
  | .serving | .holding _ => true
  | .loading | .faulted => false

/-- The Store Writer's queue has a free place and the device still places jobs (R177, R184). -/
def hasRoom (s : State) : Bool := decide (s.writer.queue.length < 8) && s.device != .faulted

/-! ### Cache entries -/

/-- The entry of a slot and generation (R77). -/
def findEntry (s : State) (slot : Fin 32) (gen : Nat) : Option Entry :=
  s.cache.entries.find? fun e => e.slot == slot && e.gen == gen

/-- An entry is pinned by a requester (R83). -/
def pinnedBy (r : Requester) (e : Entry) : Bool :=
  match r with
  | .port => e.pinPort
  | .renewal => e.pinRenewal

/-- An entry is pinned at all. -/
def pinned (e : Entry) : Bool := e.pinPort || e.pinRenewal

/-- Pin an entry for a requester. -/
def pin (r : Requester) (e : Entry) : Entry :=
  match r with
  | .port => { e with pinPort := true }
  | .renewal => { e with pinRenewal := true }

/-- A flush item made from an entry that `entries` no longer holds carries the entry's h as it stood in `old` (R182). -/
def settleFlushItem (old entries : List Entry) (it : FlushItem) : FlushItem :=
  if it.fromEntry && !entries.any (fun e => e.slot == it.slot && e.gen == it.gen) then
    match old.find? fun e => e.slot == it.slot && e.gen == it.gen with
    | some e => { it with value := e.h, fromEntry := false }
    | none => { it with fromEntry := false }
  else it

/-- The state with other cache entries; the flush list keeps the values of entries that are gone (R182). -/
def withEntries (es : List Entry) (s : State) : State :=
  { s with
    cache := { s.cache with entries := es }
    writer := { s.writer with flush := s.writer.flush.map (settleFlushItem s.cache.entries es) } }

/-- Change the entry of a slot and generation in place. -/
def updEntry (slot : Fin 32) (gen : Nat) (f : Entry → Entry) (s : State) : State :=
  { s with cache := { s.cache with
      entries := s.cache.entries.map fun e => if e.slot == slot && e.gen == gen then f e else e } }

/-- The rank of a withhold cause (R91). -/
def causeRank : Withhold → Nat
  | .quarantined => 4
  | .erased => 3
  | .retired => 2
  | .suspended => 1

/-- An entry takes a cause only when it ranks above the one it carries (R91). -/
def addCause (w : Withhold) (e : Entry) : Entry :=
  match e.withhold with
  | none => { e with withhold := some w }
  | some old => if causeRank old < causeRank w then { e with withhold := some w } else e

/-- Discard the entries that `p` selects (R91): a pinned or FILLING one is given the cause, another is removed, except that the
cause SUSPENDED leaves unpinned entries as they are (R94). That a FILLING entry without a pin takes SUSPENDED too, and so is removed as
its fill ends (R80, R82), is the model's choice (R167; log entry 58). -/
def giveCause (w : Withhold) (p : Entry → Bool) (s : State) : State :=
  withEntries (s.cache.entries.filterMap fun e =>
    if !p e then some e
    else if pinned e || e.filling then some (addCause w e)
    else if w = .suspended then some e
    else none) s

/-- What becomes of one entry when a requester releases its pins (R83). A retained entry drops n and its flag at the Port
Executor's release (R92); a FILLING entry stays until its job ends (log entry 21). -/
def releaseEntry (r : Requester) (e : Entry) : Option Entry :=
  if !pinnedBy r e then some e
  else
    let e := match r with
      | .port =>
        if e.role = some .acceptOnly then { e with pinPort := false, n := none, resvPending := false }
        else { e with pinPort := false }
      | .renewal => { e with pinRenewal := false }
    if pinned e || e.filling then some e
    else
      match e.withhold with
      | none => some e
      | some .suspended => some { e with withhold := none }
      | some _ => none

/-- A requester releases every pin it holds (R83). -/
def releasePins (r : Requester) (s : State) : State :=
  withEntries (s.cache.entries.filterMap (releaseEntry r)) s

/-- The status a withhold cause gives a Port Executor command (Table 4-2; RETIRED as in R105). -/
def causeCode : Withhold → Code
  | .retired => .generationRetired
  | .erased => .slotErased
  | .suspended => .slotSuspended
  | .quarantined => .slotQuarantined

/-! ### Engine lines (R98, R99) -/

/-- The other requester. -/
def otherReq : Requester → Requester
  | .port => .renewal
  | .renewal => .port

/-- A request line. -/
def lineOf (s : State) : Requester → Option EngineJob
  | .port => s.engine.portLine
  | .renewal => s.engine.renewalLine

/-- Put a request on a line, or empty it. -/
def setLine (r : Requester) (j : Option EngineJob) (s : State) : State :=
  match r with
  | .port => { s with engine := { s.engine with portLine := j } }
  | .renewal => { s with engine := { s.engine with renewalLine := j } }

/-- Grant the engine to the request on a line and record the grant (R98). -/
def grantTo (r : Requester) (j : EngineJob) (s : State) : State :=
  let s := setLine r none s
  { s with engine := { s.engine with job := some ⟨r, j, false⟩, last := r } }

/-- Place a request. With the engine free and no request waiting on the other line it is granted at once; otherwise it waits on
its line for the arbiter (R98, log entry 13). -/
def place (r : Requester) (j : EngineJob) (s : State) : State :=
  if s.engine.job.isNone && (lineOf s (otherReq r)).isNone then grantTo r j s else setLine r (some j) s

/-- The job in progress has ended and the engine is free (R98). -/
def engineFree (s : State) : State := { s with engine := { s.engine with job := none } }

/-! ### Answers (R194) -/

/-- Make the answer of the executing command: it becomes the retained response with the overrun marker as it stands, and the
executor is free (R194, R195). -/
def respond (c : Code) (body : List Byte) (s : State) : State :=
  { s with port := { s.port with exec := .free, retained := some ⟨c, s.port.overrun, body⟩ } }

/-- A job no longer waited on by the Port Executor. -/
def unwaited (q : QJob) : QJob := { q with port := false }

/-- The task in hand no longer waited on by the Port Executor. -/
def unwaitedTask : Task → Task
  | .queued q => .queued (unwaited q)
  | t => t

/-- The Port Executor waits on no job and on no fill any more. A fill that only it waited for is given up. -/
def portLetsGo (s : State) : State :=
  { s with
    writer := { s.writer with
      queue := s.writer.queue.map unwaited
      job := s.writer.job.map fun r => { r with task := unwaitedTask r.task } }
    cache := { s.cache with
      waits := (s.cache.waits.filter (·.renewal)).map fun w => { w with port := false, line := .renewal } } }

/-- Answer the command in flight: its waits end, its pin is released (R83), and the answer is made (R194). -/
def finish (c : Code) (body : List Byte) (s : State) : State :=
  respond c body (releasePins .port (portLetsGo s))

/-- The Port Executor runs on with another command state. -/
def setExec (e : Executor) (s : State) : State := { s with port := { s.port with exec := e } }

end Sys2Proof.Machine
end

