-- ==== Sys2Proof/Machine/Flags.lean ====
section
/-! DEFINITION. What is derived from the slot image: roles of the generations, phase, due and quarantine marks; and the wear
figure with its class. -/

namespace Sys2Proof.Machine

/-! ### Roles and phase (R6, R8) -/

/-- The role of the generation in a cell, given the other cell (R6). With equal stamps the greater generation number is
current. -/
def genRole (me other : Option CellImg) : Option GenRole :=
  match me with
  | none => none
  | some m =>
    match m.activation with
    | none => some .staged
    | some am =>
      match other with
      | none => some .current
      | some o =>
        match o.activation with
        | none => some .current
        | some ao =>
          if ao.stamp < am.stamp || (ao.stamp == am.stamp && decide (o.params.generation < m.params.generation))
          then some .current else some .overlap

/-- The role of the generation in one cell of a slot. -/
def roleIn (img : SlotImg) (c : CellId) : Option GenRole := genRole (cellOf img c) (cellOf img (otherCell c))

/-- The cell whose generation has a given role. -/
def cellWith (img : SlotImg) (r : GenRole) : Option CellId :=
  if roleIn img .a = some r then some .a
  else if roleIn img .b = some r then some .b
  else none

/-- The generation with a given role, and its cell. -/
def genWith (img : SlotImg) (r : GenRole) : Option (CellId × CellImg) :=
  match cellWith img r with
  | none => none
  | some c => (cellOf img c).map fun x => (c, x)

/-- The number of the generation with a given role. -/
def genNumber (img : SlotImg) (r : GenRole) : Option Nat := (genWith img r).map fun x => x.2.params.generation

/-- The phase of a slot (Table 1-3). -/
def phaseOf (img : SlotImg) : Phase :=
  if img.quarantined then .quarantined
  else if (cellWith img .staged).isSome then .staged
  else if (cellWith img .overlap).isSome then .overlap
  else if (cellWith img .current).isSome then .single
  else .vacant

/-- The cell that holds a generation. -/
def cellHolding (img : SlotImg) (gen : Nat) : Option CellId :=
  if img.cellA.any (fun x => x.params.generation == gen) then some .a
  else if img.cellB.any (fun x => x.params.generation == gen) then some .b
  else none

/-- A cell still holds a named generation (R23). -/
def cellHolds (img : SlotImg) (c : CellId) (gen : Nat) : Bool :=
  (cellOf img c).any fun x => x.params.generation == gen

/-- The due marks that no longer stand for a generation in its role are clear (R25, R26); the grace progress is 0 outside
OVERLAP (R28). -/
def settleMarks (img : SlotImg) : SlotImg :=
  { img with
    actDue := if img.actDue.isSome && img.actDue = genNumber img .staged then img.actDue else none
    ovlDue := match img.ovlDue with
      | none => none
      | some (g, c) => if genNumber img .overlap = some g then some (g, c) else none
    graceProgress := if phaseOf img = .overlap then img.graceProgress else 0 }

/-- A slot with its repair marks clear (R188). -/
def clearRepairs (img : SlotImg) : SlotImg := { img with repairA := false, repairB := false, repairFloor := false }

/-- A slot marked QUARANTINED (R9): its repair marks clear (R188) and it has left OVERLAP (R28). -/
def quarantineImg (img : SlotImg) : SlotImg :=
  { clearRepairs img with quarantined := true, graceProgress := 0 }

/-- A slot with both cells emptied by REVOKE_SLOT or tamper ERASE; with `unbind` the binding goes too (R19, R20). -/
def revokeImg (unbind : Bool) (img : SlotImg) : SlotImg :=
  { clearRepairs img with
    binding := if unbind then none else img.binding
    cellA := none, cellB := none, quarantined := false, graceProgress := 0, actDue := none, ovlDue := none }

/-! ### Wear (2.6) -/

/-- ceil(1000 x amount / limit), and 0 without a limit (R54). -/
def wearTerm (amount limit : Nat) : Nat := if limit = 0 then 0 else (1000 * amount + limit - 1) / limit

/-- The class of a wear figure (Table 2-3). -/
def wearClass (w : Nat) : WearClass :=
  if w < 750 then .fresh else if w < 950 then .due else if w < 1000 then .urgent else .spent

/-- The next value of the ACTIVE cache entry of a generation, if there is one (R49). -/
def activeN (s : State) (slot : Fin 32) (gen : Nat) : Option Nat :=
  match findEntry s slot gen with
  | none => none
  | some e => if !e.filling && e.role = some .active then e.n else none

/-- The use point of a generation (R49). -/
def usePoint (s : State) (slot : Fin 32) (c : CellId) (x : CellImg) : Nat :=
  if roleIn (slotOf s slot) c = some .current then
    match activeN s slot x.params.generation with
    | some n => n
    | none => if x.unused then x.params.counterStart else x.ceiling
  else x.ceiling

/-- The age of a generation (R36). -/
def ageOf (s : State) (x : CellImg) : Nat :=
  match x.activation with
  | none => 0
  | some a => s.clock.hour - a.hour

/-- The wear figure from use point and age (R48, R54, R55). -/
def wearFigure (p : GenParams) (use age : Nat) : Nat :=
  if use = maxU32 then 1000
  else min 1000 (max (wearTerm (use - p.counterStart) p.useLimit) (wearTerm age p.lifetime))

/-- The figure a recomputation gives a generation (R56). -/
def wearNow (s : State) (slot : Fin 32) (c : CellId) (x : CellImg) : Nat :=
  wearFigure x.params (usePoint s slot c x) (ageOf s x)

/-- The class of a generation as its image shows it. A generation without a figure reads as FRESH: R56 gives a current or overlap
generation none before the loader finishes its slot; the model's choice (log entry 64). -/
def classOf (x : CellImg) : WearClass := wearClass (x.wear.getD 0)

/-- Recompute the wear of the generation in a cell when it is current or overlap (R56), without a notice. -/
def setWear (slot : Fin 32) (c : CellId) (s : State) : State :=
  match cellOf (slotOf s slot) c with
  | none => s
  | some x =>
    if x.activation.isSome then
      setSlot s slot (setCell (slotOf s slot) c (some { x with wear := some (wearNow s slot c x) }))
    else s

/-- Recompute the wear of the generation in a cell, and raise WEAR_CLASS_CHANGED when it is the current one and its class
changes (R56, R57). -/
def recomputeWear (slot : Fin 32) (c : CellId) (s : State) : State :=
  match cellOf (slotOf s slot) c with
  | none => s
  | some x =>
    if x.activation.isSome then
      let w := wearNow s slot c x
      let s := setWear slot c s
      if roleIn (slotOf s slot) c = some .current && wearClass w != classOf x then
        raise (.wearChanged slot x.params.generation (classOf x) (wearClass w) w) s
      else s
    else s

/-- The recomputation of one slot at an hour boundary: both its cells unless it is QUARANTINED (R56). -/
def hourWear (s : State) (slot : Fin 32) : State :=
  if (slotOf s slot).quarantined then s else recomputeWear slot .b (recomputeWear slot .a s)

/-- The wear of a slot at load, without notices (R56, R57). -/
def loadWear (s : State) (slot : Fin 32) : State := setWear slot .b (setWear slot .a s)

end Sys2Proof.Machine
end

