-- ==== Sys2Proof/Machine/Layout.lean ====
section
/-! DEFINITION. Codes and layouts on the port: the codes of Tables 10-3, 10-5 and 10-6, the response frame of Table 10-2 and
the response records of Table 10-7. -/

namespace Sys2Proof.Machine

/-! ### Codes -/

/-- The status and outcome codes (Table 10-6). -/
def codeByte : Code → Byte
  | .ok => 0x00#8 | .notReady => 0x01#8 | .noResponse => 0x02#8 | .unknownCommand => 0x03#8 | .badLength => 0x04#8
  | .badValue => 0x05#8 | .notLoaded => 0x06#8 | .powerFailing => 0x07#8 | .faulted => 0x08#8
  | .unknownParty => 0x10#8 | .roleNotBound => 0x11#8 | .roleMismatch => 0x12#8 | .noKey => 0x13#8 | .keySpent => 0x14#8
  | .slotSuspended => 0x15#8 | .slotQuarantined => 0x16#8 | .slotErased => 0x17#8 | .generationRetired => 0x18#8
  | .tagMismatch => 0x19#8 | .counterStale => 0x1A#8 | .storeFailed => 0x1B#8 | .notStaged => 0x1C#8
  | .endOfDirectory => 0x1D#8 | .renewalActive => 0x1E#8
  | .contextBusy => 0x20#8 | .contextNotGathering => 0x21#8 | .contextFailed => 0x22#8 | .duplicate => 0x23#8
  | .outOfSequence => 0x24#8 | .noResult => 0x25#8 | .storeInProgress => 0x26#8
  | .installedStaged => 0x40#8 | .installedActive => 0x41#8 | .enrolled => 0x42#8 | .revoked => 0x43#8 | .resumed => 0x44#8
  | .armed => 0x45#8
  | .malformed => 0x50#8 | .signerUnknown => 0x51#8 | .signerUnavailable => 0x52#8 | .staleBundle => 0x53#8
  | .notAuthorised => 0x54#8 | .targetUnknown => 0x55#8 | .staleGeneration => 0x56#8 | .generationExhausted => 0x57#8
  | .unwrapFailed => 0x58#8 | .duplicateParty => 0x59#8 | .slotBound => 0x5A#8 | .slotNotEmpty => 0x5B#8
  | .roleNotAllowed => 0x5C#8 | .notMatching => 0x5D#8
  | .lengthMismatch => 0x60#8 | .timedOut => 0x61#8 | .tamper => 0x62#8 | .powerFail => 0x63#8

/-- The command of a command code (Table 10-5). -/
def cmdOfCode (b : Byte) : Option Cmd :=
  match b.toNat with
  | 0x01 => some .identify | 0x02 => some .readNotices | 0x03 => some .hold
  | 0x10 => some .protect | 0x11 => some .unprotect | 0x12 => some .activate
  | 0x20 => some .slotQuery | 0x21 => some .directoryFirst | 0x22 => some .directoryNext | 0x23 => some .associationQuery
  | 0x30 => some .renewOpen | 0x31 => some .renewPart | 0x32 => some .renewClose | 0x33 => some .renewResult
  | 0x34 => some .renewDrop
  | _ => none

/-- The range of body lengths of a command (Table 10-5). -/
def bodyRange : Cmd → Nat × Nat
  | .identify | .readNotices | .hold | .directoryFirst | .directoryNext => (0, 0)
  | .protect => (11, 283)
  | .unprotect => (27, 299)
  | .activate => (27, 27)
  | .slotQuery | .associationQuery | .renewClose | .renewResult | .renewDrop => (1, 1)
  | .renewOpen => (3, 3)
  | .renewPart => (3, 66)

/-- The codes of roles, with none (Table 10-3). -/
def roleByte : Option Role → Byte
  | none => 0x00#8
  | some .unicast => 0x01#8
  | some .broadcast => 0x02#8
  | some .kek => 0x03#8
  | some .authority => 0x04#8

/-- The role of a code. -/
def roleOfCode (b : Byte) : Option Role :=
  match b.toNat with
  | 1 => some .unicast | 2 => some .broadcast | 3 => some .kek | 4 => some .authority
  | _ => none

/-- The codes of classes (Table 10-3). -/
def classByte : PartyClass → Byte
  | .commissioning => 0x01#8 | .headEnd => 0x02#8 | .installer => 0x03#8 | .display => 0x04#8 | .switch => 0x05#8

/-- The class of a code. -/
def classOfCode (b : Byte) : Option PartyClass :=
  match b.toNat with
  | 1 => some .commissioning | 2 => some .headEnd | 3 => some .installer | 4 => some .display | 5 => some .switch
  | _ => none

/-- The codes of bundle kinds (Table 10-3). -/
def kindByte : BundleKind → Byte
  | .install => 0x01#8 | .enrol => 0x02#8 | .revoke => 0x03#8 | .resume => 0x04#8 | .arm => 0x05#8

/-- The bundle kind of a code. -/
def kindOfCode (b : Byte) : Option BundleKind :=
  match b.toNat with
  | 1 => some .install | 2 => some .enrol | 3 => some .revoke | 4 => some .resume | 5 => some .arm
  | _ => none

/-- The codes of tamper policies (Table 10-3). -/
def policyByte : Policy → Byte
  | .keep => 0x01#8 | .suspend => 0x02#8 | .erase => 0x03#8

/-- The tamper policy of a code. -/
def policyOfCode (b : Byte) : Option Policy :=
  match b.toNat with
  | 1 => some .keep | 2 => some .suspend | 3 => some .erase
  | _ => none

/-- The codes of counter modes (Table 10-3). -/
def modeByte : CounterMode → Byte
  | .writeBack => 0x01#8 | .writeThrough => 0x02#8

/-- The counter mode of a code. -/
def modeOfCode (b : Byte) : Option CounterMode :=
  match b.toNat with
  | 1 => some .writeBack | 2 => some .writeThrough
  | _ => none

/-- The codes of slot phases (Table 10-3). -/
def phaseByte : Phase → Byte
  | .vacant => 0x00#8 | .single => 0x01#8 | .staged => 0x02#8 | .overlap => 0x03#8 | .quarantined => 0x04#8

/-- The codes of roles in the slot (Table 10-3). -/
def genRoleByte : GenRole → Byte
  | .current => 0x01#8 | .overlap => 0x02#8 | .staged => 0x03#8

/-- The codes of wear classes (Table 10-3). -/
def wearByte : WearClass → Byte
  | .fresh => 0x00#8 | .due => 0x01#8 | .urgent => 0x02#8 | .spent => 0x03#8

/-- The codes of overlap end causes (Table 10-3). -/
def ovlCauseByte : OvlCause → Byte
  | .superseded => 0x01#8 | .time => 0x02#8 | .count => 0x03#8

/-- The codes of tamper origins (Table 10-3). -/
def originByte : Origin → Byte
  | .noEvent => 0x00#8 | .live => 0x01#8 | .load => 0x02#8 | .resumed => 0x03#8

/-- The codes of context states (Table 10-3). -/
def ctxStateByte : CtxState → Byte
  | .idle => 0x00#8 | .gathering => 0x01#8 | .closed => 0x02#8 | .verifying => 0x03#8 | .storing => 0x04#8
  | .done => 0x05#8 | .failed => 0x06#8

/-- The codes of device states (Table 10-3). -/
def deviceByte : DevState → Byte
  | .loading => 0x00#8 | .serving => 0x01#8 | .holding _ => 0x02#8 | .faulted => 0x03#8

/-- The codes of hold causes, NONE outside HOLDING (Table 10-3, R198). -/
def holdCauseByte : DevState → Byte
  | .holding .power => 0x01#8
  | .holding .command => 0x02#8
  | _ => 0x00#8

/-- The codes of input levels (Table 10-3). -/
def levelByte : Option Level → Byte
  | some .low => 0x00#8 | some .high => 0x01#8 | none => 0x02#8

/-- A set of inputs in the low four bits (Table 10-3). -/
def inputSetNat (i : InputSet) : Nat :=
  i.mainCover.toNat + 2 * i.terminalCover.toNat + 4 * i.magnetField.toNat + 8 * i.caseCover.toNat

/-- A slot or none (R208). -/
def slotByte : Option (Fin 32) → Byte
  | some i => u8 i.val
  | none => 0xFF#8

/-! ### Frames (Table 10-2) -/

/-- A response as sent on PDO (Table 10-2). -/
def frameBytes (r : Response) : List Byte :=
  [codeByte r.status, yesNo r.overrun] ++ be16 r.body.length ++ r.body

/-! ### Response records (Table 10-7) -/

/-- The slots QUARANTINED in the image. -/
def quarantinedCount (s : State) : Nat := (allSlots.filter fun i => (slotOf s i).quarantined).length

/-- An entry is DAMAGED. -/
def isDamaged (a : AssocImg) : Bool :=
  match a.state with
  | .damaged _ => true
  | .empty | .active => false

/-- The DAMAGED entries in the image. -/
def damagedCount (s : State) : Nat := (allAssocs.filter fun i => isDamaged (assocOf s i)).length

/-- The IDENTIFY record, 21 bytes (R198, Table 10-7). -/
def identifyBody (s : State) : List Byte :=
  let d := s.monitor.debounced
  (match s.array.identity with
   | some id => be64 id.title ++ [1#8, id.revision]
   | none => be64 0#64 ++ [0#8, Config.revisionUnread]) ++
  [deviceByte s.device, holdCauseByte s.device, u8 (quarantinedCount s), u8 (damagedCount s),
   yesNo s.monitor.armLost, yesNo (!s.monitor.matching),
   levelByte d.mainCover, levelByte d.terminalCover, levelByte d.magnetField, levelByte d.caseCover, yesNo s.pins.pfail]

/-- The levels byte of a TAMPER notice: a level set and the inputs UNSETTLED (Table 10-7). -/
def levelsByte (d : Inputs (Option Level)) : Byte :=
  u8 (inputSetNat (inputsOf fun i => inputGet d i = some .high) +
      16 * inputSetNat (inputsOf fun i => (inputGet d i).isNone))

/-- A set of slots in four bytes, bit n for slot n (Table 10-7). -/
def slotSetBytes (slots : List (Fin 32)) : List Byte :=
  be32 ((allSlots.filter fun i => slots.contains i).foldl (fun acc i => acc + 2 ^ i.val) 0)

/-- Bytes filled up with zeros to a length. -/
def padTo (len : Nat) (bytes : List Byte) : List Byte := bytes ++ List.replicate (len - bytes.length) 0#8

/-- A notice in 12 bytes: kind, subject, content (Table 10-7). -/
def noticeBytes : Notice → List Byte
  | .loadComplete e q d lost work =>
    padTo 12 [0x01#8, 0xFF#8, deviceByte e, u8 q, u8 d, yesNo lost, yesNo work]
  | .renewalFinished c o => padTo 12 [0x02#8, u8 c.val, codeByte o]
  | .wearChanged i g p n w => padTo 12 ([0x03#8, u8 i.val] ++ be16 g ++ [wearByte p, wearByte n] ++ be16 w)
  | .activated i g p k => padTo 12 ([0x04#8, u8 i.val] ++ be16 g ++ be16 (p.getD 0) ++ [yesNo k])
  | .overlapEnded i g c => padTo 12 ([0x05#8, u8 i.val] ++ be16 g ++ [ovlCauseByte c])
  | .quarantined i => padTo 12 [0x06#8, u8 i.val]
  | .tamper o r l p e c slots =>
    padTo 12 ([0x07#8, 0xFF#8, originByte o, originByte r, levelsByte l, u8 (inputSetNat p), u8 e, u8 c] ++
      slotSetBytes slots)

/-- The READ NOTICES body: count, then 12 bytes per notice (Table 10-5). -/
def noticesBody (ns : List Notice) : List Byte := u8 ns.length :: ns.flatMap noticeBytes

/-- A job counts among the structural jobs of a slot (R30; repairs count, R188). -/
def structuralFor (slot : Fin 32) : StoreJob → Bool
  | .stage i .. | .activate i _ | .overlapEnd i .. | .revokeSlot i _ | .suspend i | .resume i | .header i ..
  | .cellRepair i _ | .floorRepair i => i == slot
  | .reserve .. | .highWater .. | .hour | .association .. | .bundleFloor .. | .armRecord _ => false

/-- The structural jobs of a slot that are queued (R30). -/
def queuedStructural (s : State) (slot : Fin 32) : Nat :=
  (s.writer.queue.filter fun q => structuralFor slot q.job).length

/-- The counter n a descriptor shows for the current generation (R30). -/
def shownN (s : State) (slot : Fin 32) (x : CellImg) : Nat :=
  match activeN s slot x.params.generation with
  | some n => n
  | none => if x.unused then x.params.counterStart else x.ceiling

/-- The high-water a descriptor shows: the live h of a READY entry, otherwise the stored one (R30). -/
def shownH (s : State) (slot : Fin 32) (x : CellImg) : Nat :=
  match findEntry s slot x.params.generation with
  | some e => if e.filling then x.highWater else e.h
  | none => x.highWater

/-- The generation part of a slot descriptor, 23 bytes (R30, Table 10-7). -/
def generationPart (s : State) (slot : Fin 32) (r : GenRole) (x : CellImg) : List Byte :=
  let img := slotOf s slot
  let p := x.params
  let isCurrent := r = .current
  let hasWear := r != .staged
  let hasHours := isCurrent && phaseOf img = .overlap && decide (0 < p.graceHours)
  let hasCount := isCurrent && phaseOf img = .overlap && decide (0 < p.graceCount)
  let presence := (hasWear.toNat) + 2 * (decide isCurrent).toNat + 4 * hasHours.toNat + 8 * hasCount.toNat
  be16 p.generation ++ [genRoleByte r, u8 presence] ++
  be16 (if hasWear then x.wear.getD 0 else 0) ++
  [if hasWear then wearByte (classOf x) else 0#8] ++
  be32 (if isCurrent then shownN s slot x else 0) ++
  be32 x.ceiling ++
  be32 (if r = .staged then x.highWater else shownH s slot x) ++
  be16 (if hasHours then p.graceHours - ageOf s x else 0) ++
  be16 (if hasCount then p.graceCount - img.graceProgress else 0)

/-- The generations a slot descriptor shows, in the order current, overlap, staged; none for a QUARANTINED slot (R30). -/
def shownGenerations (img : SlotImg) : List (GenRole × CellImg) :=
  if img.quarantined then []
  else [GenRole.current, .overlap, .staged].filterMap fun r => (genWith img r).map fun x => (r, x.2)

/-- The slot descriptor (R30, Table 10-7). -/
def slotDescriptor (s : State) (slot : Fin 32) : List Byte :=
  let img := slotOf s slot
  let gens := shownGenerations img
  [u8 slot.val,
   (match img.binding with | some b => u8 b.assoc.val | none => 0xFF#8),
   roleByte (img.binding.map (·.role)), policyByte img.policy, modeByte img.mode, yesNo img.suspended] ++
  be16 img.floor ++
  [phaseByte (phaseOf img), u8 (queuedStructural s slot), u8 gens.length] ++
  gens.flatMap fun g => generationPart s slot g.1 g.2

/-- A binding is in force: the entry names the slot for the role and the slot's header names entry and role (R63). -/
def inForce (s : State) (index : Fin 8) (r : Role) : Bool :=
  match roleGet (assocOf s index).bindings r with
  | none => false
  | some slot => (slotOf s slot).binding == some ⟨index, r⟩

/-- The list jobs queued for an index (R75). -/
def queuedListJobs (s : State) (index : Fin 8) : Nat :=
  (s.writer.queue.filter fun q =>
    match q.job with
    | .association i _ => i == index
    | .bundleFloor i .. => i == index
    | _ => false).length

/-- The association descriptor, 26 bytes (R75, Table 10-7). -/
def assocDescriptor (s : State) (index : Fin 8) : List Byte :=
  let a := assocOf s index
  [u8 index.val,
   (match a.state with | .empty => 0#8 | .active => 1#8 | .damaged _ => 2#8),
   (match a.state with | .damaged .load => 1#8 | .damaged .write => 2#8 | _ => 0#8),
   u8 (a.ident.isSome.toNat + 2 * a.floor.isSome.toNat)] ++
  be64 ((a.ident.map (·.1)).getD 0#64) ++
  [(match a.ident with | some x => classByte x.2 | none => 0#8)] ++
  (allRoles.flatMap fun r => [slotByte (roleGet a.bindings r), yesNo (inForce s index r)]) ++
  be32 (a.floor.getD 0) ++ [u8 (queuedListJobs s index)]

/-- A context's transfer fields are present in this state (Table 6-2). -/
def hasTransfer : CtxState → Bool
  | .idle => false
  | .gathering | .closed | .verifying | .storing | .done | .failed => true

/-- The intake report, 8 bytes (R115, Table 10-7). -/
def intakeReport (s : State) (i : Fin 2) : List Byte :=
  let c := ctxOf s i
  [u8 i.val, ctxStateByte c.state] ++
  be16 (if hasTransfer c.state then c.total else 0) ++
  be16 (if hasTransfer c.state then c.buffer.length else 0) ++
  [u8 (if hasTransfer c.state then c.nextSeq else 0), u8 (c.timer.getD 0)]

/-- The result record, 37 bytes (R127, Table 10-7): with no record, the state as progress. -/
def resultBody (s : State) (i : Fin 2) : List Byte :=
  let c := ctxOf s i
  let f := match c.result with
    | some r => r.fields
    | none => .none
  [u8 i.val, ctxStateByte c.state, yesNo c.dropPending,
   u8 (c.result.isSome.toNat + 2 * f.kind.isSome.toNat + 4 * f.header.isSome.toNat + 8 * f.slotGen.isSome.toNat +
       16 * f.receipt.isSome.toNat),
   (match c.result with | some r => codeByte r.outcome | none => 0#8),
   (match f.kind with | some k => kindByte k | none => 0#8)] ++
  be32 ((f.header.map (·.1)).getD 0) ++ be64 ((f.header.map (·.2)).getD 0#64) ++
  [match f.slotGen with | some x => u8 x.1.val | none => 0#8] ++
  be16 ((f.slotGen.map (·.2)).getD 0) ++ f.receipt.getD (List.replicate 16 0#8)

end Sys2Proof.Machine
end

