-- ==== Sys2Proof/Machine/Operands.lean ====
section
/-! DEFINITION. What requests and bundles carry: the bodies of PROTECT, UNPROTECT and ACTIVATE with their form checks (R100, R107,
R155), the bundle parse (R133 to R136, R139), and the clamps of an INSTALL (R40, R53, R145). -/

namespace Sys2Proof.Machine

/-! ### Frame requests -/

/-- A PROTECT request that has passed its form checks (R100). -/
structure ProtectReq where
  party : Id64
  header : List Byte
  payload : List Byte
  deriving DecidableEq, Repr

/-- The form checks of PROTECT, in order (R100). -/
def parseProtect (body : List Byte) : Except Code ProtectReq :=
  let hlen := fieldNat body 9 1
  let plen := fieldNat body (10 + hlen) 1
  if body.length < 11 + hlen || body.length != 11 + hlen + plen then .error .badLength
  else if hlen > 32 || plen > 240 then .error .badLength
  else
    match roleOfCode (u8 (fieldNat body 8 1)) with
    | none => .error .badValue
    | some .unicast => .ok ⟨fieldId body 0, field body 10 hlen, field body (11 + hlen) plen⟩
    | some _ => .error .roleMismatch

/-- An UNPROTECT request that has passed its form checks (R107). -/
structure UnprotectReq where
  party : Id64
  role : Role
  counter : Nat
  header : List Byte
  cipher : List Byte
  tag : List Byte
  deriving DecidableEq, Repr

/-- The form checks of UNPROTECT, in order (R107). -/
def parseUnprotect (body : List Byte) : Except Code UnprotectReq :=
  let hlen := fieldNat body 13 1
  let clen := fieldNat body (14 + hlen) 1
  if body.length < 15 + hlen || body.length != 27 + hlen + clen then .error .badLength
  else if hlen > 32 || clen > 240 then .error .badLength
  else
    match roleOfCode (u8 (fieldNat body 8 1)) with
    | none => .error .badValue
    | some .kek => .error .roleMismatch
    | some .authority => .error .roleMismatch
    | some r =>
      .ok ⟨fieldId body 0, r, fieldNat body 9 4, field body 14 hlen, field body (15 + hlen) clen,
        field body (15 + hlen + clen) 12⟩

/-- An ACTIVATE request that has passed its form checks (R155). -/
structure ActivateReq where
  party : Id64
  role : Role
  gen : Nat
  token : List Byte
  deriving DecidableEq, Repr

/-- The form checks of ACTIVATE, in order (R155). -/
def parseActivate (body : List Byte) : Except Code ActivateReq :=
  if body.length != 27 then .error .badLength
  else
    match roleOfCode (u8 (fieldNat body 8 1)) with
    | none => .error .badValue
    | some r =>
      let g := fieldNat body 9 2
      if g = 0 then .error .badValue else .ok ⟨fieldId body 0, r, g, field body 11 16⟩

/-! ### Bundles -/

/-- Every byte of a stretch is zero. -/
def zeros (bytes : List Byte) : Bool := bytes.all (· == 0#8)

/-- The activation rule of a code and hour; an hour other than 0 is illegal unless the rule is AT_HOUR (R134). -/
def parseRule (code : Byte) (hour : Nat) : Option ActRule :=
  match code.toNat with
  | 1 => if hour = 0 then some .immediate else none
  | 2 => some (.atHour hour)
  | 3 => if hour = 0 then some .onCommand else none
  | _ => none

/-- The INSTALL body of a bundle (R134, Table 10-4), or none where a field or the length is illegal (R139). -/
def parseInstall (b : List Byte) : Option BundleBody := do
  let role ← roleOfCode (u8 (fieldNat b 21 1))
  let rule ← parseRule (u8 (fieldNat b 24 1)) (fieldNat b 25 4)
  let gen := fieldNat b 22 2
  let start := fieldNat b 37 4
  let inFloor := fieldNat b 49 4
  let klen := fieldNat b 53 1
  if gen = 0 || start = maxU32 || inFloor = maxU32 then none
  else if (klen = 16 && b.length = 94) || (klen = 32 && b.length = 110) then
    some (.install
      { target := fieldId b 13, role := role, generation := gen, rule := rule, lifetime := fieldNat b 29 4,
        useLimit := fieldNat b 33 4, counterStart := start, counterStep := fieldNat b 41 4,
        graceHours := fieldNat b 45 2, graceCount := fieldNat b 47 2, incomingFloor := inFloor, keyLength := klen,
        wrapped := field b 54 (klen + 8) })
  else none

/-- A role choice of four bytes (R135). -/
def parseChoice (b : List Byte) (offset : Nat) : Option RoleChoice :=
  let slot := fieldNat b (offset + 1) 1
  match fieldNat b offset 1 with
  | 1 => do
    let p ← policyOfCode (u8 (fieldNat b (offset + 2) 1))
    let m ← modeOfCode (u8 (fieldNat b (offset + 3) 1))
    if h : slot < 32 then some (.bind ⟨slot, h⟩ p m) else none
  | 2 => if zeros (field b (offset + 1) 3) then some .unbind else none
  | 3 => if zeros (field b (offset + 1) 3) then some .leave else none
  | _ => none

/-- The ENROL body of a bundle (R135, Table 10-4). -/
def parseEnrol (b : List Byte) : Option BundleBody := do
  let cls ← classOfCode (u8 (fieldNat b 22 1))
  let c1 ← parseChoice b 23
  let c2 ← parseChoice b 27
  let c3 ← parseChoice b 31
  let c4 ← parseChoice b 35
  let index := fieldNat b 13 1
  if b.length != 55 then none
  else if h : index < 8 then some (.enrol ⟨index, h⟩ (fieldId b 14) cls ⟨c1, c2, c3, c4⟩) else none

/-- The REVOKE body of a bundle (R136, Table 10-4). -/
def parseRevoke (b : List Byte) : Option BundleBody :=
  if b.length != 48 || !zeros (field b 23 9) then none
  else
    match fieldNat b 21 1 with
    | 1 => (roleOfCode (u8 (fieldNat b 22 1))).map fun r => .revoke (fieldId b 13) (some r)
    | 2 => if fieldNat b 22 1 = 0 then some (.revoke (fieldId b 13) none) else none
    | _ => none

/-- The RESUME body of a bundle (R136, Table 10-4): a role set, not empty, without other bits (R208). -/
def parseResume (b : List Byte) : Option BundleBody :=
  let set := fieldNat b 21 1
  if b.length != 48 || !zeros (field b 22 10) then none
  else if set = 0 || set ≥ 16 then none
  else some (.resume (fieldId b 13) ⟨set.testBit 0, set.testBit 1, set.testBit 2, set.testBit 3⟩)

/-- The level an ARM bundle expects of one input: none when it is not selected. -/
def armLevel (set levels bit : Nat) : Option Level :=
  if set.testBit bit then some (if levels.testBit bit then .high else .low) else none

/-- The ARM body of a bundle (R136, Table 10-4); a level given for an unselected input is illegal (R139). -/
def parseArm (b : List Byte) : Option BundleBody :=
  let set := fieldNat b 13 1
  let levels := fieldNat b 14 1
  if b.length != 48 || !zeros (field b 15 17) then none
  else if set ≥ 16 || levels ≥ 16 || levels &&& set != levels then none
  else some (.arm ⟨armLevel set levels 0, armLevel set levels 1, armLevel set levels 2, armLevel set levels 3⟩)

/-- The body of a bundle of a known kind. -/
def parseBody (k : BundleKind) (b : List Byte) : Option BundleBody :=
  match k with
  | .install => parseInstall b
  | .enrol => parseEnrol b
  | .revoke => parseRevoke b
  | .resume => parseResume b
  | .arm => parseArm b

/-- The fields a result record takes from the parse: with an unknown kind none, otherwise kind and header (R138, R139). -/
def parseFields (b : List Byte) : RecFields :=
  match kindOfCode (u8 (fieldNat b 0 1)) with
  | none => .none
  | some k => { RecFields.none with kind := some k, header := some (fieldNat b 1 4, fieldId b 5) }

/-- The parse of a bundle; none is MALFORMED (R139). -/
def parseBundle (b : List Byte) : Option Bundle := do
  let k ← kindOfCode (u8 (fieldNat b 0 1))
  let body ← parseBody k b
  some ⟨fieldNat b 1 4, fieldId b 5, body, b.take (b.length - 16), b.drop (b.length - 16)⟩

/-- The kind of a bundle body. -/
def kindOfBody : BundleBody → BundleKind
  | .install _ => .install
  | .enrol .. => .enrol
  | .revoke .. => .revoke
  | .resume .. => .resume
  | .arm _ => .arm

/-- The success outcome a bundle reports (R149). -/
def successOf : BundleBody → Code
  | .install i => if i.rule = .immediate then .installedActive else .installedStaged
  | .enrol .. => .enrolled
  | .revoke .. => .revoked
  | .resume .. => .resumed
  | .arm _ => .armed

/-! ### Clamps of an INSTALL -/

/-- The counter step as stored: clamped into 256 to 65,536 and rounded down to a power of two (R40, Table 2-1). -/
def clampStep (v : Nat) : Nat :=
  if v < 512 then 256
  else if v < 1024 then 512
  else if v < 2048 then 1024
  else if v < 4096 then 2048
  else if v < 8192 then 4096
  else if v < 16384 then 8192
  else if v < 32768 then 16384
  else if v < 65536 then 32768
  else 65536

/-- The use limit as stored (R53, Table 2-2). -/
def clampUse (v : Nat) : Nat := min v 4000000000

/-- The lifetime hours as stored (R53, Table 2-2). -/
def clampLife (v : Nat) : Nat := if v = 0 then 0 else if v < 24 then 24 else min v 87600

/-- The grace hours as stored (R53, Table 2-2). -/
def clampGrace (hours count : Nat) : Nat := if hours = 0 then (if count = 0 then 0 else 720) else min hours 720

/-- The generation record that STAGE will write (R145). -/
def installRecord (i : InstallBody) (key : List Byte) : GenRecord :=
  { params :=
      { generation := i.generation, keyLength := i.keyLength, rule := i.rule, lifetime := clampLife i.lifetime,
        useLimit := clampUse i.useLimit, counterStart := i.counterStart, counterStep := clampStep i.counterStep,
        graceHours := clampGrace i.graceHours i.graceCount, graceCount := i.graceCount }
    key := key }

end Sys2Proof.Machine
end

