-- ==== Sys2Proof/Machine/Lookup.lean ====
section
/-! DEFINITION. Chapter 3: lookup from party and role to slot, the role and authority tables, and the checks on an enrolment. -/

namespace Sys2Proof.Machine

/-- The ACTIVE entry that carries a party identifier (R65, step 1). -/
def findParty (s : State) (party : Id64) : Option (Fin 8) :=
  allAssocs.find? fun i => (assocOf s i).state == .active && ((assocOf s i).ident.map (·.1)) == some party

/-- The slot of an entry's role when the binding is in force (R63, R65 steps 2 and 3). -/
def boundSlot (s : State) (index : Fin 8) (r : Role) : Option (Fin 32) :=
  if inForce s index r then roleGet (assocOf s index).bindings r else none

/-- A lookup from party and role to slot (R65). -/
def lookup (s : State) (party : Id64) (r : Role) : Except Code (Fin 32) :=
  match findParty s party with
  | none => .error .unknownParty
  | some i =>
    match boundSlot s i r with
    | none => .error .roleNotBound
    | some slot => .ok slot

/-- Why a slot refuses every frame and ACTIVATE command: quarantine, then suspension (R101, R107, R155). -/
def slotRefusal (img : SlotImg) : Option Code :=
  if img.quarantined then some .slotQuarantined else if img.suspended then some .slotSuspended else none

/-- The roles a class may hold (Table 3-2). -/
def roleAllowed : PartyClass → Role → Bool
  | .commissioning, .broadcast => false
  | .commissioning, _ => true
  | .headEnd, _ => true
  | .installer, .broadcast => false
  | .installer, _ => true
  | .display, .unicast => true
  | .display, .broadcast => true
  | .display, _ => false
  | .switch, .unicast => true
  | .switch, .broadcast => true
  | .switch, _ => false

/-- The bundle kinds a class may sign (Table 3-4). -/
def maySign : PartyClass → BundleKind → Bool
  | .commissioning, _ => true
  | .headEnd, _ => true
  | .installer, .install => true
  | .installer, .resume => true
  | .installer, .arm => true
  | .installer, _ => false
  | .display, _ => false
  | .switch, _ => false

/-- The target classes a signer class may reach (Table 3-4). -/
def mayTarget : PartyClass → PartyClass → Bool
  | .commissioning, _ => true
  | .headEnd, .commissioning => false
  | .headEnd, _ => true
  | .installer, .display => true
  | .installer, .switch => true
  | .installer, _ => false
  | .display, _ => false
  | .switch, _ => false

/-- The target class check for a party: a party no ACTIVE entry carries passes (R68). -/
def mayTargetParty (s : State) (signer : PartyClass) (target : Id64) : Bool :=
  match findParty s target with
  | none => true
  | some i => ((assocOf s i).ident.map fun x => mayTarget signer x.2).getD true

/-- The class an ENROL's index adds to the check: that of an ACTIVE or DAMAGED entry, COMMISSIONING where it is absent (R68). -/
def indexClass (a : AssocImg) : Option PartyClass :=
  match a.state with
  | .empty => none
  | .active | .damaged _ => some ((a.ident.map (·.2)).getD .commissioning)

/-- The authority check (R68). -/
def authorised (s : State) (signer : PartyClass) (body : BundleBody) : Bool :=
  maySign signer (kindOfBody body) &&
  match body with
  | .install i => mayTargetParty s signer i.target
  | .enrol index _ cls _ =>
    mayTarget signer cls && ((indexClass (assocOf s index)).map (mayTarget signer)).getD true
  | .revoke target _ => mayTargetParty s signer target
  | .resume target _ => mayTargetParty s signer target
  | .arm _ => true

/-! ### Enrolment (R69, R146) -/

/-- The binding a role choice resolves to, given the one the entry holds (R69). -/
def resolveChoice (c : RoleChoice) (held : Option (Fin 32)) : Option (Fin 32) :=
  match c with
  | .bind slot _ _ => some slot
  | .unbind => none
  | .leave => held

/-- The bindings of the entry an ENROL would produce (R69, R146). -/
def resolveEnrol (s : State) (index : Fin 8) (choices : Roles RoleChoice) : Roles (Option (Fin 32)) :=
  rolesOf fun r => resolveChoice (roleGet choices r) (roleGet (assocOf s index).bindings r)

/-- An entry names a slot for some role. -/
def namesSlot (b : Roles (Option (Fin 32))) (slot : Fin 32) : Bool := allRoles.any fun r => roleGet b r == some slot

/-- Another ACTIVE entry carries the identifier. -/
def duplicateParty (s : State) (index : Fin 8) (party : Id64) : Bool :=
  allAssocs.any fun i =>
    i != index && (assocOf s i).state == .active && ((assocOf s i).ident.map (·.1)) == some party

/-- A role of the resolved entry has a slot that conflicts: another of its roles names it, another entry names it, or its header
is bound to another pair (R69; log entry 36). -/
def slotConflict (s : State) (index : Fin 8) (new : Roles (Option (Fin 32))) (r : Role) : Bool :=
  match roleGet new r with
  | none => false
  | some slot =>
    allRoles.any (fun q => q != r && roleGet new q == some slot) ||
    allAssocs.any (fun i => i != index && namesSlot (assocOf s i).bindings slot) ||
    (match (slotOf s slot).binding with
     | none => false
     | some b => b != ⟨index, r⟩)

/-- The unbinding slots: those the entry holds for some role now and will hold for none after, in role order (R146; log
entry 48). -/
def unbindingSlots (s : State) (index : Fin 8) (new : Roles (Option (Fin 32))) : List (Fin 32) :=
  allRoles.filterMap fun r =>
    match roleGet (assocOf s index).bindings r with
    | none => none
    | some slot => if namesSlot new slot then none else some slot

/-- Every role with a binding is allowed for the class (Table 3-2). -/
def rolesAllowed (cls : PartyClass) (new : Roles (Option (Fin 32))) : Bool :=
  allRoles.all fun r => (roleGet new r).isNone || roleAllowed cls r

/-- Some slot that a role holds now and will not hold after is not VACANT, whether or not another role of the entry takes it up
(R69, R146; log entry 48). -/
def slotNotEmpty (s : State) (index : Fin 8) (new : Roles (Option (Fin 32))) : Bool :=
  allRoles.any fun r =>
    match roleGet (assocOf s index).bindings r with
    | none => false
    | some slot => roleGet new r != some slot && phaseOf (slotOf s slot) != .vacant

/-- The checks of an ENROL at verification, in order (R146). -/
def enrolCheck (s : State) (index : Fin 8) (party : Id64) (cls : PartyClass) (new : Roles (Option (Fin 32))) :
    Option Code :=
  if duplicateParty s index party then some .duplicateParty
  else if allRoles.any (slotConflict s index new) then some .slotBound
  else if slotNotEmpty s index new then some .slotNotEmpty
  else if !rolesAllowed cls new then some .roleNotAllowed
  else none

/-- The checks of an ASSOCIATION job of the ENROL form when taken, in order (R69). -/
def associationCheck (s : State) (index : Fin 8) (party : Id64) (cls : PartyClass) (new : Roles (Option (Fin 32))) :
    Option Code :=
  if duplicateParty s index party then some .duplicateParty
  else if !rolesAllowed cls new then some .roleNotAllowed
  else if allRoles.any (slotConflict s index new) then some .slotBound
  else if slotNotEmpty s index new then some .slotNotEmpty
  else none

/-- The HEADER job that unbinds a slot: policy KEEP and mode WRITE_BACK (R150). -/
def unbindJob (slot : Fin 32) : StoreJob := .header slot none .keep .writeBack

/-- The HEADER job of a BIND choice (R150). -/
def bindJob (index : Fin 8) (r : Role) : RoleChoice → Option StoreJob
  | .bind slot p m => some (.header slot (some ⟨index, r⟩) p m)
  | .unbind => none
  | .leave => none

/-- The jobs of an ENROL after its BUNDLE_FLOOR (R146, R150). -/
def enrolJobs (s : State) (index : Fin 8) (party : Id64) (cls : PartyClass) (choices : Roles RoleChoice) :
    List StoreJob :=
  .association index (.enrol party cls choices) ::
    ((unbindingSlots s index (resolveEnrol s index choices)).map unbindJob ++
     allRoles.filterMap fun r => bindJob index r (roleGet choices r))

end Sys2Proof.Machine
end

