-- ==== Sys2Proof/Machine/Queue.lean ====
section
/-! DEFINITION. The Store Writer's queue: joining it, coalescing counter jobs (R177), and what counter jobs are pending for a
cell; and the jobs the Key Table holds by mark (R25 to R28, R188). -/

namespace Sys2Proof.Machine

/-- The state with another queue. -/
def setQueue (q : List QJob) (s : State) : State := { s with writer := { s.writer with queue := q } }

/-- A job joins the tail of the queue (R177). -/
def enqueue (q : QJob) (s : State) : State := setQueue (s.writer.queue ++ [q]) s

/-- A job without a requester. -/
def plainJob (j : StoreJob) : QJob := ⟨j, none, false, false⟩

/-- A queued HIGHWATER of this slot and cell. -/
def isHighFor (slot : Fin 32) (c : CellId) (q : QJob) : Bool :=
  match q.job with
  | .highWater i d _ _ => i == slot && d == c
  | _ => false

/-- A queued RESERVE of this slot and cell. -/
def isReserveFor (slot : Fin 32) (c : CellId) (q : QJob) : Bool :=
  match q.job with
  | .reserve i d _ _ => i == slot && d == c
  | _ => false

/-- The value of a counter job raised to a requested one where that is greater (R177). -/
def raiseValue (v : Nat) : StoreJob → StoreJob
  | .highWater i c g w => .highWater i c g (max w v)
  | .reserve i c g w => .reserve i c g (max w v)
  | j => j

/-- Coalesce a request into a queued job: the value is raised, the requester becomes a waiter (R177). -/
def coalesce (v : Nat) (port hold : Bool) (q : QJob) : QJob :=
  { q with job := raiseValue v q.job, port := q.port || port, holdFlush := q.holdFlush || hold }

/-- Ask for a counter job: coalesced where the queue holds one of its kind, slot and cell, else queued at the tail, else none
when the queue is full (R177, R178). -/
def requestCounter (same : QJob → Bool) (job : StoreJob) (v : Nat) (port hold : Bool) (s : State) : Option State :=
  if s.writer.queue.any same then
    some (setQueue (s.writer.queue.map fun q => if same q then coalesce v port hold q else q) s)
  else if hasRoom s then some (enqueue ⟨job, none, port, hold⟩ s)
  else none

/-- Ask for a HIGHWATER job (R85, R86, R88). -/
def requestHigh (slot : Fin 32) (c : CellId) (gen v : Nat) (port hold : Bool) (s : State) : Option State :=
  requestCounter (isHighFor slot c) (.highWater slot c gen v) v port hold s

/-- Ask for a RESERVE job (R44, R45). -/
def requestReserve (slot : Fin 32) (c : CellId) (gen v : Nat) (port : Bool) (s : State) : Option State :=
  requestCounter (isReserveFor slot c) (.reserve slot c gen v) v port false s

/-- The queued jobs and the one in progress. -/
def liveJobs (s : State) : List QJob :=
  s.writer.queue ++
  match s.writer.job with
  | some { task := .queued q, .. } => [q]
  | _ => []

/-- The value of a HIGHWATER job. -/
def highValue : StoreJob → Option Nat
  | .highWater _ _ _ v => some v
  | _ => none

/-- The flush items for a slot and cell, listed or in progress. -/
def liveFlush (s : State) (slot : Fin 32) (c : CellId) : List FlushItem :=
  (s.writer.flush ++
    match s.writer.job with
    | some { task := .flush it, .. } => [it]
    | _ => []).filter fun it => it.slot == slot && it.cell == c

/-- The h an entry starts with: the stored high-water or the value of a HIGHWATER on its way, whichever is greater (R51, R81). -/
def startHigh (s : State) (slot : Fin 32) (c : CellId) (stored : Nat) : Nat :=
  let queued := ((liveJobs s).filter (isHighFor slot c)).filterMap fun q => highValue q.job
  (queued ++ (liveFlush s slot c).map (·.value)).foldl max stored

/-- A RESERVE for a slot and cell is queued or in progress (R42). -/
def reservePending (s : State) (slot : Fin 32) (c : CellId) : Bool := (liveJobs s).any (isReserveFor slot c)

/-! ### Jobs by mark -/

/-- An ACTIVATE of this slot and generation is queued or in progress (R25). -/
def hasActivate (s : State) (slot : Fin 32) (gen : Nat) : Bool :=
  (liveJobs s).any fun q => q.job == .activate slot gen

/-- An OVERLAP_END of this slot and generation is queued or in progress (R26). -/
def hasOverlapEnd (s : State) (slot : Fin 32) (gen : Nat) : Bool :=
  (liveJobs s).any fun q =>
    match q.job with
    | .overlapEnd i g _ => i == slot && g == gen
    | _ => false

/-- The next job a slot's marks call for, with the slot as it stands once that job is queued: its repairs, then its activation, then
its overlap end (R178). Among the repairs cell A comes first, then cell B, then the floor, an order that R178 does not give and the
model chooses (log entry 59). A mark whose condition does not hold, or whose job is already on its way, gives none (R25, R27, R188;
log entry 28). -/
def markedJob (s : State) (slot : Fin 32) : Option (StoreJob × SlotImg) :=
  let img := slotOf s slot
  if img.repairA then some (.cellRepair slot .a, { img with repairA := false })
  else if img.repairB then some (.cellRepair slot .b, { img with repairB := false })
  else if img.repairFloor then some (.floorRepair slot, { img with repairFloor := false })
  else
    match (match img.actDue with
      | none => none
      | some g =>
        if genNumber img .staged = some g && !hasActivate s slot g
        then some (StoreJob.activate slot g, { img with actDue := none }) else none) with
    | some x => some x
    | none =>
      match img.ovlDue with
      | none => none
      | some (g, c) =>
        if genNumber img .overlap = some g && !hasOverlapEnd s slot g
        then some (.overlapEnd slot g c, { img with ovlDue := none }) else none

/-- Queue one job of a slot's marks where there is room; its mark clears (R25, R188). -/
def queueMarked (s : State) (slot : Fin 32) : State :=
  match markedJob s slot with
  | none => s
  | some (j, img) => if hasRoom s then enqueue (plainJob j) (setSlot s slot img) else s

/-- Queue what a slot's marks call for while the device is SERVING and room lasts (R27): three repairs, an activation and an
overlap end at most. -/
def queueMarks (s : State) (slot : Fin 32) : State :=
  if s.device = .serving then
    queueMarked (queueMarked (queueMarked (queueMarked (queueMarked s slot) slot) slot) slot) slot
  else s

/-- The activation examination of one slot (R25). -/
def markActivation (s : State) (slot : Fin 32) : State :=
  let img := slotOf s slot
  if img.quarantined then s
  else
    match genWith img .staged with
    | none => s
    | some (_, x) =>
      match x.params.rule with
      | .atHour hour =>
        if hour ≤ s.clock.hour then setSlot s slot { img with actDue := some x.params.generation } else s
      | .immediate => s
      | .onCommand => s

/-- The overlap of a slot is due by time: its current generation has grace hours, and they have run (R26). -/
def overlapTimeDue (s : State) (img : SlotImg) : Bool :=
  phaseOf img = .overlap &&
  match genWith img .current with
  | none => false
  | some (_, x) => decide (0 < x.params.graceHours) && decide (x.params.graceHours ≤ ageOf s x)

/-- The overlap examination of one slot (R26). -/
def markOverlap (s : State) (slot : Fin 32) : State :=
  let img := slotOf s slot
  if overlapTimeDue s img then
    setSlot s slot { img with ovlDue := (genNumber img .overlap).map fun g => (g, .time) }
  else s

/-- The hour-boundary examination of one slot: activation, then overlap end, each queued where it may be (R25, R26, R27). -/
def examineSlot (s : State) (slot : Fin 32) : State := queueMarks (markOverlap (markActivation s slot) slot) slot

/-- An acceptance under the current generation of an OVERLAP slot raises the grace progress; reaching the grace count makes the
overlap due by count and queues its end (R28, R109 step 2). That a mark by TIME which still waits then takes the cause COUNT is the
model's choice (log entry 28). -/
def graceAccept (slot : Fin 32) (gen : Nat) (s : State) : State :=
  let img := slotOf s slot
  match genWith img .current with
  | none => s
  | some (_, x) =>
    if phaseOf img = .overlap && x.params.generation == gen && decide (img.graceProgress < x.params.graceCount) then
      let img := { img with graceProgress := img.graceProgress + 1 }
      if img.graceProgress = x.params.graceCount then
        queueMarks (setSlot s slot
          { img with ovlDue := (genNumber img .overlap).map fun g => (g, .count) }) slot
      else setSlot s slot img
    else s

/-- The strip-pending mark is taken up: an HOUR job is queued once the device is SERVING and there is room; the queue never holds
two (R37). -/
def requestHour (s : State) : State :=
  if s.device = .serving then
    if s.writer.queue.any (fun q => q.job == .hour) then s
    else if hasRoom s then
      let s := enqueue (plainJob .hour) s
      { s with writer := { s.writer with stripPending := false } }
    else { s with writer := { s.writer with stripPending := true } }
  else { s with writer := { s.writer with stripPending := true } }

end Sys2Proof.Machine
end

