-- ==== Sys2Proof/Machine/Cache.lean ====
section
/-! DEFINITION. The Working Key Cache: taking an entry, fills and evictions, an entry becoming READY, flush requests
(Chapter 4). -/

namespace Sys2Proof.Machine

/-- How the cache answers a request for an entry (R79): the entry, a wait on a fill, or a refusal. -/
inductive Ask
  | hit (e : Entry)
  | wait
  | refused (c : Code)
  deriving DecidableEq, Repr

/-- A FILLING entry pinned by its requester (R80). -/
def fillingEntry (r : Requester) (slot : Fin 32) (c : CellId) (gen : Nat) : Entry :=
  { slot := slot, cell := c, gen := gen, filling := true, role := none, key := [], n := none, h := 0, dirty := false,
    resvPending := false, flushReq := false, pinPort := r == .port, pinRenewal := r == .renewal, withhold := none }

/-- Place a FILLING entry at the most recent end and request its unwrap job (R80). -/
def placeFilling (line : Requester) (e : Entry) (s : State) : State :=
  place line (.fill e.slot e.cell e.gen) { s with cache := { s.cache with entries := e :: s.cache.entries } }

/-- An entry can be evicted: READY, unpinned, without a cause (R84, R91). -/
def evictable (e : Entry) : Bool := !e.filling && !pinned e && e.withhold.isNone

/-- The least recently taken entry that can be evicted (R84). -/
def victim (s : State) : Option Entry := s.cache.entries.reverse.find? evictable

/-- The entry has a live h the array lacks (R84, R85). -/
def unclean (e : Entry) : Bool := e.dirty || e.flushReq

/-- An entry is the one of this slot and generation. -/
def isEntry (slot : Fin 32) (gen : Nat) (e : Entry) : Bool := e.slot == slot && e.gen == gen

/-- Remove the entry of a slot and generation. -/
def removeEntry (slot : Fin 32) (gen : Nat) (s : State) : State :=
  withEntries (s.cache.entries.filter fun e => !isEntry slot gen e) s

/-- Make a place for a fill: none where the victim's h must wait for queue room (R80, R84, R85). -/
def makePlace (s : State) : Option State :=
  if s.cache.entries.length < 6 then some s
  else
    match victim s with
    | none => none
    | some v =>
      if unclean v then (requestHigh v.slot v.cell v.gen v.h false false s).map (removeEntry v.slot v.gen)
      else some (removeEntry v.slot v.gen s)

/-- Begin a fill, or let it wait for queue room (R80, R85). -/
def beginFill (r : Requester) (slot : Fin 32) (c : CellId) (gen : Nat) (s : State) : State :=
  match makePlace s with
  | some s => placeFilling r (fillingEntry r slot c gen) s
  | none =>
    { s with cache := { s.cache with
        waits := s.cache.waits ++ [⟨slot, c, gen, r == .port, r == .renewal, r⟩] } }

/-- The refusal a tamper bar gives (R79). -/
def barCode : TamperAct → Code
  | .erase => .slotErased
  | .suspend => .slotSuspended

/-- A waiting fill is the one for this slot and generation. -/
def isWait (slot : Fin 32) (gen : Nat) (w : WaitFill) : Bool := w.slot == slot && w.gen == gen

/-- A requester joins a waiting fill (R85). -/
def joinWait (r : Requester) (w : WaitFill) : WaitFill :=
  match r with
  | .port => { w with port := true }
  | .renewal => { w with renewal := true }

/-- A hit: the entry is pinned and moves to the most recent end (R79). -/
def takeHit (r : Requester) (e : Entry) (s : State) : State :=
  { s with cache := { s.cache with
      entries := pin r e :: s.cache.entries.filter fun x => !isEntry e.slot e.gen x } }

/-- A requester asks for the entry of a slot and generation (R79). -/
def askCache (r : Requester) (slot : Fin 32) (c : CellId) (gen : Nat) (s : State) : Ask × State :=
  if (slotOf s slot).quarantined then (.refused .slotQuarantined, s)
  else
    match s.cache.bars[slot] with
    | some b => (.refused (barCode b), s)
    | none =>
      match findEntry s slot gen with
      | some e =>
        if e.filling then (.wait, updEntry slot gen (pin r) s)
        else
          match e.withhold with
          | some w => (.refused (causeCode w), s)
          | none => (.hit (pin r e), takeHit r e s)
      | none =>
        if s.cache.waits.any (isWait slot gen) then
          (.wait, { s with cache := { s.cache with
            waits := s.cache.waits.map fun w => if isWait slot gen w then joinWait r w else w } })
        else (.wait, beginFill r slot c gen s)

/-! ### An entry becomes READY (R81, R42) -/

/-- The entry role of a generation's role (R78). -/
def entryRole : Option GenRole → EntryRole
  | some .current => .active
  | some .overlap => .acceptOnly
  | some .staged => .verifyOnly
  | none => .acceptOnly

/-- The start point of the generation in a cell: s where the unused mark is set, else the stored ceiling (R42). -/
def startPoint (x : CellImg) : Nat := if x.unused then x.params.counterStart else x.ceiling

/-- Clear the unused mark of a cell (R41). -/
def clearUnused (slot : Fin 32) (c : CellId) (s : State) : State :=
  let img := slotOf s slot
  setSlot s slot (setCell img c ((cellOf img c).map fun x => { x with unused := false }))

/-- An entry becomes ACTIVE and takes its start point (R42). -/
def activeEntry (s : State) (slot : Fin 32) (c : CellId) (e : Entry) : Entry :=
  { e with
    role := some .active
    n := (cellOf (slotOf s slot) c).map startPoint
    resvPending := reservePending s slot c }

/-- What the unwrap of a fill gives: the key that the sealed key of a stored cell opens to, when its body's check value matches
(R81, R82, Table 5-1; log entry 6). -/
def storedKey (s : State) (slot : Fin 32) (c : CellId) : Option (List Byte) :=
  match validBody (storedCell s slot c).body with
  | none => none
  | some b => Config.rootSeal.recover b.sealedKey

/-- The READY entry a passing fill gives (R81). -/
def readyEntry (s : State) (key : List Byte) (e : Entry) : Entry :=
  let img := slotOf s e.slot
  let e := { e with
    filling := false
    key := key
    dirty := false
    flushReq := false
    h := startHigh s e.slot e.cell ((cellOf img e.cell).map (·.highWater) |>.getD 0) }
  match entryRole (roleIn img e.cell) with
  | .active => activeEntry s e.slot e.cell e
  | .acceptOnly => { e with role := some .acceptOnly }
  | .verifyOnly => { e with role := some .verifyOnly }

/-- A fill passes: the entry is READY; an ACTIVE one clears the cell's unused mark (R81). -/
def makeReady (key : List Byte) (e : Entry) (s : State) : State :=
  let s' := updEntry e.slot e.gen (readyEntry s key) s
  if roleIn (slotOf s e.slot) e.cell = some .current then clearUnused e.slot e.cell s' else s'

/-! ### Flush requests (R88, R89) -/

/-- Mark the dirty entries that `p` selects flush-requested (R88). -/
def markFlush (p : Entry → Bool) (s : State) : State :=
  { s with cache := { s.cache with
      entries := s.cache.entries.map fun e => if e.dirty && p e then { e with flushReq := true } else e } }

/-- A HOLD command waits for its drain (R205). -/
def holdWaits (s : State) : Bool :=
  match s.port.exec with
  | .hold _ => true
  | _ => false

/-- Make the request of one flush-requested entry; none where it must wait for room (R88). -/
def flushOne (s : State) (e : Entry) : Option State :=
  if e.flushReq && e.withhold.isNone then
    (requestHigh e.slot e.cell e.gen e.h false (holdWaits s) s).map
      (updEntry e.slot e.gen fun x => { x with flushReq := false, dirty := false })
  else none

/-- Make the flush requests from the most recent end while the device is SERVING; those without room wait (R88). -/
def flushRequests (s : State) : State :=
  if s.device = .serving then s.cache.entries.foldl (fun t e => (flushOne t e).getD t) s else s

end Sys2Proof.Machine
end

