-- ==== Sys2Proof/Machine/Frame.lean ====
section
/-! DEFINITION. The Port Executor's frame commands and ACTIVATE (Chapter 5, 7.7): what each does at each of its stages. -/

namespace Sys2Proof.Machine

/-- The meter's system title (R97); zero where the identity record is invalid, when no frame command runs. -/
def systemTitle (s : State) : Id64 := (s.array.identity.map (·.title)).getD 0#64

/-- The nonce of a frame: its sender's system title, then the counter (R97). -/
def frameNonce (title : Id64) (counter : Nat) : List Byte := be64 title ++ be32 counter

/-- A job of the Port Executor's is granted and its outcome still wanted. -/
def portJobGranted (s : State) : Bool :=
  match s.engine.job with
  | some g => g.who == .port && !g.orphan
  | none => false

/-- The new ceiling a RESERVE carries (R44, R47). -/
def nextCeiling (x : CellImg) : Nat := min (x.ceiling + x.params.counterStep) maxU32

/-! ### PROTECT (R101 to R106) -/

/-- The checks on the slot of a PROTECT; its current generation where they pass (R101). -/
def protectSlot (s : State) (slot : Fin 32) : Except Code (CellId × CellImg) :=
  match slotRefusal (slotOf s slot) with
  | some c => .error c
  | none =>
    match genWith (slotOf s slot) .current with
    | none => .error .noKey
    | some g => if classOf g.2 = .spent then .error .keySpent else .ok g

/-- The Port Executor waits on the pending RESERVE of a slot and cell (R44). -/
def joinReserve (slot : Fin 32) (c : CellId) (s : State) : State :=
  let join (q : QJob) : QJob := if isReserveFor slot c q then { q with port := true } else q
  { s with writer := { s.writer with
      queue := s.writer.queue.map join
      job := s.writer.job.map fun r => { r with task := match r.task with | .queued q => .queued (join q) | t => t } } }

/-- Set the reservation-pending flag of an entry (R44, R45). -/
def setPending (slot : Fin 32) (gen : Nat) (b : Bool) (s : State) : State :=
  updEntry slot gen (fun e => { e with resvPending := b }) s

/-- A PROTECT at its ceiling: it waits on the pending RESERVE, queues one, or waits for room (R44). -/
def protectReserve (op : ProtectOp) (e : Entry) (x : CellImg) (s : State) : State :=
  if e.resvPending then joinReserve op.slot op.cell (setExec (.protect { op with stage := .reserve }) s)
  else
    match requestReserve op.slot op.cell op.gen (nextCeiling x) true s with
    | some s => setExec (.protect { op with stage := .reserve }) (setPending op.slot op.gen true s)
    | none => setExec (.protect { op with stage := .room }) s

/-- The early reservation check after a value is given out; a retained entry makes none (R45, R92). -/
def earlyReserve (op : ProtectOp) (s : State) : State :=
  match findEntry s op.slot op.gen, cellOf (slotOf s op.slot) op.cell with
  | some e, some x =>
    match e.n with
    | none => s
    | some n =>
      if e.role = some .active && decide (x.ceiling - n ≤ x.params.counterStep / 4) && decide (x.ceiling < maxU32) &&
          !e.resvPending then
        match requestReserve op.slot op.cell op.gen (nextCeiling x) false s with
        | some s => setPending op.slot op.gen true s
        | none => s
      else s
  | _, _ => s

/-- The wear class of the generation in a cell as its image shows it. -/
def shownClass (s : State) (slot : Fin 32) (c : CellId) : WearClass :=
  ((cellOf (slotOf s slot) c).map classOf).getD .fresh

/-- The value n is used: n rises, the early reservation is checked, the wear is recomputed, and the frame protect job is
requested (R43, R45, R103, R104). -/
def giveValue (op : ProtectOp) (key : List Byte) (n : Nat) (s : State) : State :=
  let s := updEntry op.slot op.gen (fun e => { e with n := some (n + 1) }) s
  let s := recomputeWear op.slot op.cell (earlyReserve op s)
  let cls := shownClass s op.slot op.cell
  let s := setExec (.protect { op with stage := .frame n cls }) s
  place .port (.frameProtect key (frameNonce (systemTitle s) n) op.header op.payload) s

/-- A PROTECT takes a counter value, judging its generation again first (R103). -/
def takeValue (op : ProtectOp) (s : State) : State :=
  match findEntry s op.slot op.gen, cellOf (slotOf s op.slot) op.cell with
  | some e, some x =>
    match e.n with
    | none => finish .generationRetired [] s
    | some n =>
      if x.wear = some 1000 || n = maxU32 then finish .keySpent [] s
      else if n < x.ceiling then giveValue op e.key n s
      else protectReserve op e x s
  | _, _ => finish .generationRetired [] s

/-- A PROTECT holds its READY entry: ACTIVE, or ACCEPT_ONLY and retained, goes on; else its generation is retired (R102). -/
def protectReady (op : ProtectOp) (s : State) : State :=
  match findEntry s op.slot op.gen with
  | none => finish .generationRetired [] s
  | some e => if e.n.isSome then takeValue op s else finish .generationRetired [] s

/-- A PROTECT that has passed its form checks runs (R101, R102). -/
def runProtect (q : ProtectReq) (s : State) : State :=
  match lookup s q.party .unicast with
  | .error c => respond c [] s
  | .ok slot =>
    match protectSlot s slot with
    | .error c => respond c [] s
    | .ok (cell, x) =>
      let op : ProtectOp := ⟨slot, cell, x.params.generation, q.header, q.payload, .fill⟩
      match askCache .port slot cell x.params.generation s with
      | (.refused c, s) => respond c [] s
      | (.wait, s) => setExec (.protect op) s
      | (.hit _, s) => protectReady op (setExec (.protect op) s)

/-- The withhold cause of an entry, or none where it is gone. -/
def causeOf (s : State) (slot : Fin 32) (gen : Nat) : Option Withhold := (findEntry s slot gen).bind (·.withhold)

/-- The response to a PROTECT: generation, counter, wear class, ciphertext and tag (R104, Table 10-5). -/
def protectBody (op : ProtectOp) (counter : Nat) (cls : WearClass) (cipher tag : List Byte) : List Byte :=
  be16 op.gen ++ be32 counter ++ [wearByte cls, u8 cipher.length] ++ cipher ++ tag

/-- The frame protect job of a PROTECT ends with ciphertext and tag (R104, Table 5-2). -/
def protectEnd (op : ProtectOp) (counter : Nat) (cls : WearClass) (cipher tag : List Byte) (s : State) : State :=
  match causeOf s op.slot op.gen with
  | none | some .retired => finish .ok (protectBody op counter cls cipher tag) s
  | some w => finish (causeCode w) [] s

/-- The store job a PROTECT waited on has gone: it is answered by the cause its entry carries (R44, Table 5-2). -/
def protectGone (op : ProtectOp) (s : State) : State :=
  match causeOf s op.slot op.gen with
  | some w => finish (causeCode w) [] s
  | none => finish (if (slotOf s op.slot).quarantined then .slotQuarantined else .generationRetired) [] s

/-! ### UNPROTECT (R107 to R112) -/

/-- The answer when no generation accepted (R110). -/
def noAcceptance (op : UnprotectOp) : Code :=
  if op.tagFail then .tagMismatch else if op.stale then .counterStale else .generationRetired

/-- The frame unprotect job of the trial in hand is requested (R108). -/
def placeUnprotect (op : UnprotectOp) (key : List Byte) (s : State) : State :=
  place .port (.frameUnprotect key (frameNonce op.party op.counter) op.header op.cipher op.tag)
    (setExec (.unprotect { op with stage := .frame }) s)

/-- Try the generations of a trial list in order: each is passed over when it has left the slot, skipped when stale, tried
otherwise; every other refusal ends the command (R108, R110; log entry 22). -/
def runTrials (op : UnprotectOp) : List Trial → State → State
  | [], s => finish (noAcceptance op) [] s
  | t :: rest, s =>
    let s := releasePins .port s
    match cellHolding (slotOf s op.slot) t.gen with
    | none => runTrials op rest s
    | some c =>
      let op := { op with cell := c, trial := t, rest := rest }
      match askCache .port op.slot c t.gen s with
      | (.refused .generationRetired, s) => runTrials op rest s
      | (.refused code, s) => finish code [] s
      | (.wait, s) => setExec (.unprotect { op with stage := .fill }) s
      | (.hit e, s) => if op.counter ≤ e.h then runTrials { op with stale := true } rest s else placeUnprotect op e.key s

/-- The trial's entry is READY: c is compared with its live high-water (R108). -/
def unprotectReady (op : UnprotectOp) (s : State) : State :=
  match findEntry s op.slot op.trial.gen with
  | none => runTrials op op.rest s
  | some e =>
    if op.counter ≤ e.h then runTrials { op with stale := true } op.rest s else placeUnprotect op e.key s

/-- The trial list: the current generation, then the overlap generation of an OVERLAP slot (R108). -/
def trialList (img : SlotImg) : List Trial :=
  (genNumber img .current).toList.map (⟨·, .current⟩) ++
  if phaseOf img = .overlap then (genNumber img .overlap).toList.map (⟨·, .overlap⟩) else []

/-- An UNPROTECT that has passed its form checks runs (R107, R108). -/
def runUnprotect (q : UnprotectReq) (s : State) : State :=
  match lookup s q.party q.role with
  | .error c => respond c [] s
  | .ok slot =>
    match slotRefusal (slotOf s slot) with
    | some c => respond c [] s
    | none =>
      match genWith (slotOf s slot) .current with
      | none => respond .noKey [] s
      | some (c, x) =>
        runTrials ⟨q.party, slot, q.counter, q.header, q.cipher, q.tag, c, ⟨x.params.generation, .current⟩, [], false,
          false, [], .fill⟩ (trialList (slotOf s slot)) s

/-- The response to an accepted UNPROTECT (R109, Table 10-5). -/
def unprotectBody (op : UnprotectOp) : List Byte :=
  be16 op.trial.gen ++ [genRoleByte op.trial.role, u8 op.plain.length] ++ op.plain

/-- The write-through HIGHWATER of an UNPROTECT is queued or raised to its counter: the command waits on it, and the entry's dirty
flag is clear, the value travelling in the job (R86, R87). -/
def waitThrough (op : UnprotectOp) (s : State) : State :=
  setExec (.unprotect { op with stage := .high })
    (updEntry op.slot op.trial.gen (fun e => { e with dirty := false }) s)

/-- The write-through HIGHWATER of an acceptance is asked for, or the UNPROTECT waits for room (R86). -/
def requestThrough (op : UnprotectOp) (s : State) : State :=
  match requestHigh op.slot op.cell op.trial.gen op.counter true false s with
  | some s => waitThrough op s
  | none => setExec (.unprotect { op with stage := .room }) s

/-- An acceptance (R109): h becomes c and the counter mode decides what follows, then the grace progress, then the answer unless
the command waits on its write (R28, R86, R111). -/
def acceptFrame (op : UnprotectOp) (s : State) : State :=
  if causeOf s op.slot op.trial.gen = some .retired then
    finish .ok (unprotectBody op) (graceAccept op.slot op.trial.gen s)
  else
    match (slotOf s op.slot).mode with
    | .writeBack =>
      finish .ok (unprotectBody op) (graceAccept op.slot op.trial.gen
        (updEntry op.slot op.trial.gen (fun e => { e with dirty := true, h := op.counter }) s))
    | .writeThrough =>
      graceAccept op.slot op.trial.gen (requestThrough op
        (updEntry op.slot op.trial.gen (fun e => { e with h := op.counter }) s))

/-- The frame unprotect job of a trial ends with the plaintext of a pass, or none; a cause other than RETIRED ends the command
(R108, R109; log entry 23). -/
def unprotectEnd (op : UnprotectOp) (plain : Option (List Byte)) (s : State) : State :=
  match causeOf s op.slot op.trial.gen with
  | some .erased => finish .slotErased [] s
  | some .suspended => finish .slotSuspended [] s
  | some .quarantined => finish .slotQuarantined [] s
  | none | some .retired =>
    match plain with
    | some plain => acceptFrame { op with plain := plain } s
    | none => runTrials { op with tagFail := true } op.rest s

/-- The write-through HIGHWATER of an UNPROTECT has ended without a write failure: answered OK, or by the cause its entry
carries (R111). -/
def unprotectHighEnd (op : UnprotectOp) (s : State) : State :=
  match causeOf s op.slot op.trial.gen with
  | none => if (slotOf s op.slot).quarantined then finish .slotQuarantined [] s else finish .ok (unprotectBody op) s
  | some .retired => finish .ok (unprotectBody op) s
  | some w => finish (causeCode w) [] s

/-! ### ACTIVATE (R155 to R158) -/

/-- The status a withhold cause gives an ACTIVATE command (R156). -/
def activateCause : Withhold → Code
  | .retired => .notStaged
  | w => causeCode w

/-- The token check input: system title and generation (R209). -/
def tokenMessage (title : Id64) (gen : Nat) : List Byte := be64 title ++ be16 gen

/-- The entry of an ACTIVATE is READY: only a VERIFY_ONLY one is used, the generation of any other being staged no more (R156). A
cause answers also an entry of another role: R156 gives no order there, and this is the model's choice (log entry 24). -/
def activateReady (op : ActivateOp) (s : State) : State :=
  match findEntry s op.slot op.gen with
  | none => finish .notStaged [] s
  | some e =>
    match e.withhold with
    | some w => finish (activateCause w) [] s
    | none =>
      if e.role = some .verifyOnly then
        place .port (.token e.key (tokenMessage (systemTitle s) op.gen) op.token)
          (setExec (.activate { op with stage := .token }) s)
      else finish .notStaged [] s

/-- An ACTIVATE that has passed its form checks runs (R155, R156). -/
def runActivate (q : ActivateReq) (s : State) : State :=
  match lookup s q.party q.role with
  | .error c => respond c [] s
  | .ok slot =>
    match slotRefusal (slotOf s slot) with
    | some c => respond c [] s
    | none =>
      match genWith (slotOf s slot) .staged with
      | none => respond .notStaged [] s
      | some (c, x) =>
        if x.params.generation = q.gen then
          let op : ActivateOp := ⟨slot, c, q.gen, q.token, .fill⟩
          match askCache .port slot c q.gen s with
          | (.refused .generationRetired, s) => respond .notStaged [] s
          | (.refused code, s) => respond code [] s
          | (.wait, s) => setExec (.activate op) s
          | (.hit _, s) => activateReady op (setExec (.activate op) s)
        else respond .notStaged [] s

/-- The ACTIVATE job of a command. -/
def activateJob (op : ActivateOp) : QJob := ⟨.activate op.slot op.gen, none, true, false⟩

/-- Ask for the ACTIVATE job, or wait for room (R157). -/
def requestActivate (op : ActivateOp) (s : State) : State :=
  if hasRoom s then setExec (.activate { op with stage := .store }) (enqueue (activateJob op) s)
  else setExec (.activate { op with stage := .room }) s

/-- The token check ends (R156, R157). Where several of the answers of R157 apply, a withhold cause comes first, then NOT_STAGED, then
POWER_FAILING: a g that has become current meanwhile and whose entry carries a cause is answered by the cause. R156 and R157 give no
order, and this is the model's choice (log entry 24). -/
def tokenEnd (op : ActivateOp) (pass : Bool) (s : State) : State :=
  if !pass then finish .tagMismatch [] s
  else
    match causeOf s op.slot op.gen with
    | some w => finish (activateCause w) [] s
    | none =>
      if genNumber (slotOf s op.slot) .staged != some op.gen then finish .notStaged [] s
      else if s.warning.taken then finish .powerFailing [] s
      else requestActivate op s

/-- The OK response to an ACTIVATE (R158, Table 10-5). -/
def activateBody (slot : Fin 32) (gen : Nat) (previous : Option Nat) (kept : Bool) : List Byte :=
  u8 slot.val :: be16 gen ++ be16 (previous.getD 0) ++ [yesNo kept]

/-! ### What reaches a command in flight -/

/-- A fill the Port Executor waits on has given its entry (R81). -/
def portFilled (s : State) : State :=
  match s.port.exec with
  | .protect op => if op.stage = .fill then protectReady op s else s
  | .unprotect op => if op.stage = .fill then unprotectReady op s else s
  | .activate op => if op.stage = .fill then activateReady op s else s
  | .free | .handed .. | .hold _ => s

/-- A fill the Port Executor waits on has ended without an entry (R82): a RETIRED trial is passed over (R108). -/
def portRefused (c : Code) (s : State) : State :=
  match s.port.exec with
  | .protect op => if op.stage = .fill then finish c [] s else s
  | .unprotect op =>
    if op.stage = .fill then (if c = .generationRetired then runTrials op op.rest s else finish c [] s) else s
  | .activate op =>
    if op.stage = .fill then finish (if c = .generationRetired then .notStaged else c) [] s else s
  | .free | .handed .. | .hold _ => s

/-- The Port Executor withdraws its waiting request (R99). -/
def withdrawPort (s : State) : State := setLine .port none s

/-- A withhold cause has reached the entry of a PROTECT (R99, R105). A job already granted runs on; a RETIRED entry's frame job
stays on its line; a command waiting on a RESERVE is answered as that job ends (R166, log entry 19). -/
def protectCause (op : ProtectOp) (w : Withhold) (s : State) : State :=
  match op.stage with
  | .fill | .reserve => s
  | .room => finish (causeCode w) [] s
  | .frame .. => if portJobGranted s || w = .retired then s else finish (causeCode w) [] (withdrawPort s)

/-- A withhold cause has reached the entry of an UNPROTECT's trial (R99, R108, R111; log entry 19). -/
def unprotectCause (op : UnprotectOp) (w : Withhold) (s : State) : State :=
  match op.stage with
  | .fill | .high => s
  | .room =>
    if w = .retired then finish .ok (unprotectBody op) s
    else if w = .suspended then s
    else finish (causeCode w) [] s
  | .frame =>
    if portJobGranted s then s
    else if w = .retired then runTrials op op.rest (withdrawPort s)
    else finish (causeCode w) [] (withdrawPort s)

/-- A withhold cause has reached the entry of an ACTIVATE (R156, R157; log entry 24). -/
def activateCaused (op : ActivateOp) (w : Withhold) (s : State) : State :=
  match op.stage with
  | .fill | .store => s
  | .room => if w = .suspended then s else finish (activateCause w) [] s
  | .token => if portJobGranted s then s else finish (activateCause w) [] (withdrawPort s)

/-- The command in flight meets the cause its entry carries, if any (R105, R108, R156). -/
def portReact (s : State) : State :=
  match s.port.exec with
  | .protect op => match causeOf s op.slot op.gen with | some w => protectCause op w s | none => s
  | .unprotect op => match causeOf s op.slot op.trial.gen with | some w => unprotectCause op w s | none => s
  | .activate op => match causeOf s op.slot op.gen with | some w => activateCaused op w s | none => s
  | .free | .handed .. | .hold _ => s

/-- The store job the Port Executor waited on was dropped or removed (R13, R23, R44, R111, R158). -/
def portJobGone (s : State) : State :=
  match s.port.exec with
  | .protect op => if op.stage = .reserve then protectGone op s else s
  | .unprotect op => if op.stage = .high then unprotectHighEnd op s else s
  | .activate op => if op.stage = .store then finish .notStaged [] s else s
  | .free | .handed .. | .hold _ => s

/-- The store job the Port Executor waited on has failed its write: STORE_FAILED, also where its entry carries a cause since earlier
(R105, R111, R158; log entry 19). -/
def portJobFailed (s : State) : State :=
  match s.port.exec with
  | .protect op => if op.stage = .reserve then finish .storeFailed [] s else s
  | .unprotect op => if op.stage = .high then finish .storeFailed [] s else s
  | .activate op => if op.stage = .store then finish .storeFailed [] s else s
  | .free | .handed .. | .hold _ => s

/-- The counter job the Port Executor waited on has completed (R44, R86). A PROTECT whose entry was barred meanwhile is answered
with its cause (log entry 19). -/
def portCounterDone (s : State) : State :=
  match s.port.exec with
  | .protect op =>
    if op.stage = .reserve then (if (causeOf s op.slot op.gen).isSome then protectGone op s else takeValue op s) else s
  | .unprotect op => if op.stage = .high then unprotectHighEnd op s else s
  | .free | .handed .. | .activate _ | .hold _ => s

/-! ### Room (R178) and FAULTED (R184) -/

/-- What a Port Executor command that waits for room becomes where its job can now be placed. -/
def portRoom (s : State) : Option State :=
  match s.port.exec with
  | .protect op =>
    if op.stage = .room then
      match cellOf (slotOf s op.slot) op.cell with
      | none => none
      | some x => (requestReserve op.slot op.cell op.gen (nextCeiling x) true s).map fun s =>
          setExec (.protect { op with stage := .reserve }) (setPending op.slot op.gen true s)
    else none
  | .unprotect op =>
    if op.stage = .room then
      (requestHigh op.slot op.cell op.trial.gen op.counter true false s).map (waitThrough op)
    else none
  | .activate op => if op.stage = .room && hasRoom s then some (requestActivate op s) else none
  | .free | .handed .. | .hold _ => none

/-- The command in flight waits on a queued job, or for room, which the stopped Store Writer will not serve (R184, R205). -/
def portStuck (s : State) : Bool :=
  let onQueue := s.writer.queue.any (·.port)
  let forRoom := s.cache.waits.any (·.port)
  match s.port.exec with
  | .protect op => op.stage = .room || (op.stage = .reserve && onQueue) || (op.stage = .fill && forRoom)
  | .unprotect op => op.stage = .room || (op.stage = .high && onQueue) || (op.stage = .fill && forRoom)
  | .activate op => op.stage = .room || (op.stage = .store && onQueue) || (op.stage = .fill && forRoom)
  | .hold _ => true
  | .free | .handed .. => false

/-- In FAULTED a command left waiting by the Store Writer's stop is answered FAULTED (R184, R207). -/
def portSettle (s : State) : State :=
  if s.device = .faulted && portStuck s then finish .faulted [] s else s

end Sys2Proof.Machine
end

