-- ==== Sys2Proof/Machine/Verify.lean ====
section
/-! DEFINITION. The Renewal Intake's contexts and the Renewal Engine: how a context fails or is done, the verification order, the
job lists, and what a STORING context makes of its jobs (Chapters 6 and 7). -/

namespace Sys2Proof.Machine

/-! ### A context ends (R125, R126) -/

/-- A context becomes FAILED: its record is made with the fields reached and no receipt, and the notice is raised (R125, R126). -/
def ctxFail (i : Fin 2) (c : Code) (s : State) : State :=
  let x := ctxOf s i
  let fields := { x.fields with receipt := none }
  raise (.renewalFinished i c) (setCtx s i
    { x with state := .failed, timer := none, dropPending := false, fields := fields, result := some ⟨c, fields⟩, jobs := [] })

/-- A context becomes IDLE: its buffer is emptied and every field discarded (R114). -/
def ctxIdle (i : Fin 2) (s : State) : State := setCtx s i .idle

/-- A context leaves the verification queue (R124). -/
def leaveQueue (i : Fin 2) (s : State) : State :=
  { s with renewal := { s.renewal with queue := s.renewal.queue.filter (· != i) } }

/-- A context is no longer among the STORING ones. -/
def leaveStoring (i : Fin 2) (s : State) : State :=
  { s with renewal := { s.renewal with storing := s.renewal.storing.filter (· != i) } }

/-- A job without its context, its end reaching none (R125). -/
def unlinkJob (i : Fin 2) (q : QJob) : QJob := if q.ctx = some i then { q with ctx := none } else q

/-- The job in progress is no longer linked to a context (R125). -/
def unlinkJobs (i : Fin 2) (s : State) : State :=
  { s with writer := { s.writer with
      job := s.writer.job.map fun r =>
        { r with task := match r.task with | .queued q => .queued (unlinkJob i q) | t => t } } }

/-- The queued jobs of a context are removed (R153, R166). -/
def removeCtxJobs (i : Fin 2) (s : State) : State := setQueue (s.writer.queue.filter fun q => q.ctx != some i) s

/-- A STORING context fails: its queued jobs are removed, those not yet queued discarded, one in progress unlinked (R153, R166). -/
def failStoring (i : Fin 2) (c : Code) (s : State) : State :=
  ctxFail i c (leaveStoring i (unlinkJobs i (removeCtxJobs i s)))

/-- A STORING context is DONE: its record takes the success outcome and the receipt (R152). -/
def ctxDone (i : Fin 2) (s : State) : State :=
  let x := ctxOf s i
  raise (.renewalFinished i x.success) (setCtx (leaveStoring i s) i
    { x with state := .done, timer := none, dropPending := false, result := some ⟨x.success, x.fields⟩, jobs := [] })

/-- The first queued job of a list has ended and leaves it, with the key it carries (R144). -/
def endFirst : List (StoreJob × JobMark) → List (StoreJob × JobMark)
  | [] => []
  | (_, .queued) :: rest => rest
  | x :: rest => x :: endFirst rest

/-- A job of a STORING context has completed; with the last one the context is DONE (R152). Contexts keep their states in FAULTED
(R137). -/
def ctxJobDone (i : Fin 2) (s : State) : State :=
  let x := ctxOf s i
  if s.device = .faulted || x.state != .storing then s
  else
    let jobs := endFirst x.jobs
    let s := setCtx s i { x with jobs := jobs }
    if jobs.isEmpty then ctxDone i s else s

/-- A job of a STORING context was dropped or has failed (R153). -/
def ctxJobFailed (i : Fin 2) (c : Code) (s : State) : State :=
  if s.device = .faulted || (ctxOf s i).state != .storing then s else failStoring i c s

/-! ### A verification ends (R148) -/

/-- The fill that the Renewal Engine waits on, on its line: an entry that the Port Executor holds too moves to the port's line,
another is given up (R99, log entry 20). -/
def withdrawFill (slot : Fin 32) (c : CellId) (gen : Nat) (s : State) : State :=
  match findEntry s slot gen with
  | none => s
  | some e => if e.pinPort then setLine .port (some (.fill slot c gen)) s else removeEntry slot gen s

/-- The Renewal Engine withdraws its waiting request (R99). -/
def withdrawRenewal (s : State) : State :=
  match s.engine.renewalLine with
  | none => s
  | some (.fill slot c gen) => withdrawFill slot c gen (setLine .renewal none s)
  | some _ => setLine .renewal none s

/-- A granted job of the Renewal Engine's runs on, its outcome unused (R96, R148). A fill belongs to its entry and is none. -/
def orphanRenewal (s : State) : State :=
  match s.engine.job with
  | some ⟨.renewal, .fill .., _⟩ => s
  | some ⟨.renewal, j, _⟩ => { s with engine := { s.engine with job := some ⟨.renewal, j, true⟩ } }
  | some ⟨.port, _, _⟩ => s
  | none => s

/-- The Renewal Engine waits on no fill for room any more. -/
def leaveWaits (s : State) : State :=
  { s with cache := { s.cache with
      waits := (s.cache.waits.filter (·.port)).map fun w => { w with renewal := false, line := .port } } }

/-- The verification in hand ends: requests withdrawn, pins released, the held key discarded (R83, R99, R148). -/
def endVerif (s : State) : State :=
  let s := releasePins .renewal (leaveWaits (orphanRenewal (withdrawRenewal s)))
  { s with renewal := { s.renewal with verif := none } }

/-- The verification in hand fails with an outcome (R138). -/
def failVerif (c : Code) (s : State) : State :=
  match s.renewal.verif with
  | none => s
  | some v => ctxFail v.ctx c (endVerif s)

/-- A drop-pending verification ends: the context is IDLE, without record or notice (R129). -/
def dropVerif (s : State) : State :=
  match s.renewal.verif with
  | none => s
  | some v => ctxIdle v.ctx (endVerif s)

/-- The context under verification is drop-pending (R129). -/
def dropping (s : State) : Bool :=
  match s.renewal.verif with
  | none => false
  | some v => (ctxOf s v.ctx).dropPending

/-- The verification in hand goes on at another stage. -/
def setVerif (v : Verif) (s : State) : State := { s with renewal := { s.renewal with verif := some v } }

/-! ### The steps of the verification order (R138) -/

/-- The usable current generation of a signer's slot, judged in the image (R140, R144). -/
def usableGen (s : State) (slot : Fin 32) : Option (CellId × Nat) :=
  if (slotRefusal (slotOf s slot)).isSome then none
  else (genWith (slotOf s slot) .current).map fun x => (x.1, x.2.params.generation)

/-- Step 6: the tag check is requested under the READY AUTHORITY entry (R142). -/
def placeTagCheck (v : Verif) (s : State) : State :=
  match findEntry s v.authSlot v.signGen with
  | none => failVerif .signerUnavailable s
  | some e =>
    if e.withhold.isSome then failVerif .signerUnavailable s
    else place .renewal (.bundleTag e.key v.bundle.covered v.bundle.tag) (setVerif { v with stage := .tagCheck } s)

/-- The input of a receipt (R149, R209). -/
def receiptMessage (s : State) (b : Bundle) : List Byte :=
  be64 (systemTitle s) ++ be64 b.signer ++ be32 b.sequence ++ [kindByte (kindOfBody b.body), codeByte (successOf b.body)]

/-- Step 8 of an INSTALL: the receipt is requested under the new key (R149). -/
def placeInstallReceipt (v : Verif) (plan : List StoreJob) (key : List Byte) (s : State) : State :=
  place .renewal (.receipt key (receiptMessage s v.bundle)) (setVerif { v with stage := .receipt, plan := plan } s)

/-- Step 8 of the other kinds: the receipt is requested under the signing generation's key (R149). -/
def placeReceipt (v : Verif) (plan : List StoreJob) (s : State) : State :=
  match findEntry s v.authSlot v.signGen with
  | none => failVerif .signerUnavailable s
  | some e =>
    if e.withhold.isSome then failVerif .signerUnavailable s
    else place .renewal (.receipt e.key (receiptMessage s v.bundle))
      (setVerif { v with stage := .receipt, plan := plan } s)

/-- The key unwrap is requested under the READY KEK entry (R144). -/
def placeKeyUnwrap (v : Verif) (i : InstallBody) (s : State) : State :=
  match v.kek with
  | none => failVerif .unwrapFailed s
  | some (slot, gen) =>
    match findEntry s slot gen with
    | none => failVerif .unwrapFailed s
    | some e =>
      if e.withhold.isSome then failVerif .unwrapFailed s
      else place .renewal (.keyUnwrap e.key i.wrapped) (setVerif { v with stage := .keyUnwrap } s)

/-- Step 7 of an INSTALL, its second part: the signer's identifier and role KEK are looked up, and the entry of the slot's current
generation is asked for (R66, R74, R144; log entry 50). -/
def installKek (v : Verif) (i : InstallBody) (s : State) : State :=
  match lookup s v.bundle.signer .kek with
  | .error .unknownParty => failVerif .signerUnknown s
  | .error _ => failVerif .unwrapFailed s
  | .ok kek =>
    match usableGen s kek with
    | none => failVerif .unwrapFailed s
    | some (c, gen) =>
      let v := { v with stage := .kekEntry, kek := some (kek, gen) }
      match askCache .renewal kek c gen (setVerif v s) with
      | (.refused _, s) => failVerif .unwrapFailed s
      | (.wait, s) => s
      | (.hit _, s) => placeKeyUnwrap v i s

/-- The result record of a context takes slot and generation (R138, R143). -/
def recordTarget (i : Fin 2) (slot : Fin 32) (gen : Nat) (s : State) : State :=
  let x := ctxOf s i
  setCtx s i { x with fields := { x.fields with slotGen := some (slot, gen) } }

/-- Step 7 of an INSTALL: the target slot and its generation (R143). -/
def checkInstall (v : Verif) (i : InstallBody) (s : State) : State :=
  match lookup s i.target i.role, findParty s i.target with
  | .error .unknownParty, _ => failVerif .targetUnknown s
  | .error _, _ => failVerif .roleNotBound s
  | .ok _, none => failVerif .targetUnknown s
  | .ok slot, some index =>
    let s := recordTarget v.ctx slot i.generation s
    let img := slotOf s slot
    if img.floor = 65535 then failVerif .generationExhausted s
    else if i.generation ≤ img.floor || (genNumber img .staged).any (i.generation ≤ ·) then failVerif .staleGeneration s
    else installKek { v with target := some (slot, ⟨index, i.role⟩) } i s

/-- The slots whose binding is in force, of the roles that `p` selects, in role order (R147). -/
def slotsInScope (s : State) (index : Fin 8) (p : Role → Bool) : List (Fin 32) :=
  (allRoles.filter p).filterMap (boundSlot s index)

/-- The jobs of a REVOKE after its BUNDLE_FLOOR (R147, Table 7-3). -/
def revokeJobs (s : State) (index : Fin 8) (role : Option Role) : List StoreJob :=
  match role with
  | some r => (slotsInScope s index (· == r)).map fun x => .revokeSlot x false
  | none => ((slotsInScope s index fun _ => true).map fun x => .revokeSlot x true) ++ [.association index .empty]

/-- Step 7: the kind checks (R143, R146, R147). -/
def kindChecks (v : Verif) (s : State) : State :=
  match v.bundle.body with
  | .install i => checkInstall v i s
  | .enrol index party cls choices =>
    match enrolCheck s index party cls (resolveEnrol s index choices) with
    | some c => failVerif c s
    | none => placeReceipt v (enrolJobs s index party cls choices) s
  | .revoke target role =>
    match findParty s target with
    | none => failVerif .targetUnknown s
    | some index => placeReceipt v (revokeJobs s index role) s
  | .resume target roles =>
    match findParty s target with
    | none => failVerif .targetUnknown s
    | some index => placeReceipt v ((slotsInScope s index (roleGet roles)).map .resume) s
  | .arm record => placeReceipt v [.armRecord record] s

/-- Steps 4 to 6 for a signer entry and its signing generation (R141, R142). -/
def verifyFrom (v : Verif) (c : CellId) (s : State) : State :=
  if v.bundle.sequence ≤ ((assocOf s v.signerIndex).floor).getD 0 then ctxFail v.ctx .staleBundle s
  else if !authorised s v.signerClass v.bundle.body then ctxFail v.ctx .notAuthorised s
  else
    match askCache .renewal v.authSlot c v.signGen (setVerif v s) with
    | (.refused _, s) => failVerif .signerUnavailable s
    | (.wait, s) => s
    | (.hit _, s) => placeTagCheck v s

/-- Steps 2 and 3: the signer entry and its signing generation (R140). -/
def verifySigner (i : Fin 2) (b : Bundle) (s : State) : State :=
  match findParty s b.signer with
  | none => ctxFail i .signerUnknown s
  | some index =>
    match boundSlot s index .authority with
    | none => ctxFail i .signerUnavailable s
    | some slot =>
      match usableGen s slot with
      | none => ctxFail i .signerUnavailable s
      | some (c, gen) =>
        verifyFrom
          { ctx := i, bundle := b, signerIndex := index
            signerClass := ((assocOf s index).ident.map (·.2)).getD .commissioning
            authSlot := slot, signGen := gen, stage := .authEntry, kek := none, target := none, plan := [] } c s

/-- Verification of a context begins: it is VERIFYING and its bundle is parsed (R137, R139). -/
def beginVerification (i : Fin 2) (s : State) : State :=
  let x := ctxOf s i
  let s := setCtx (leaveQueue i s) i { x with state := .verifying, fields := parseFields x.buffer }
  match parseBundle x.buffer with
  | none => ctxFail i .malformed s
  | some b => verifySigner i b s

/-- The jobs of an INSTALL after its BUNDLE_FLOOR (R145, Table 7-3). -/
def installJobs (slot : Fin 32) (target : Binding) (i : InstallBody) (key : List Byte) : List StoreJob :=
  .stage slot target (installRecord i key) i.incomingFloor ::
    if i.rule = .immediate then [.activate slot i.generation] else []

/-- The key unwrap ends with the new key, or fails (R144, R145). -/
def unwrapEnd (v : Verif) (key : Option (List Byte)) (s : State) : State :=
  match key, v.bundle.body, v.target with
  | some key, .install i, some (slot, target) => placeInstallReceipt v (installJobs slot target i key) key s
  | _, _, _ => failVerif .unwrapFailed s

/-! ### STORING (R150, R151) -/

/-- Mark the first job not yet queued as queued. -/
def queueFirst : List (StoreJob × JobMark) → List (StoreJob × JobMark)
  | [] => []
  | (j, .notQueued) :: rest => (j, .queued) :: rest
  | x :: rest => x :: queueFirst rest

/-- The first job of a context not yet queued. -/
def firstUnqueued (x : Ctx) : Option StoreJob := (x.jobs.find? fun j => j.2 == .notQueued).map (·.1)

/-- The next job of the STORING contexts, in the order they became so, joins the queue where there is room (R151). -/
def queueStoring (s : State) : Option State :=
  match s.renewal.storing.find? fun i => (firstUnqueued (ctxOf s i)).isSome with
  | none => none
  | some i =>
    match firstUnqueued (ctxOf s i) with
    | none => none
    | some j =>
      if hasRoom s then
        let x := ctxOf s i
        some (setCtx (enqueue ⟨j, some i, false, false⟩ s) i { x with jobs := queueFirst x.jobs })
      else none

/-- Queue the jobs of the STORING contexts while the device is SERVING and room lasts: at most `fuel` of them (R151). -/
def queueAllStoring : Nat → State → State
  | 0, s => s
  | fuel + 1, s =>
    if s.device = .serving then
      match queueStoring s with
      | none => s
      | some s => queueAllStoring fuel s
    else s

/-- The receipt is computed: the context becomes STORING with its job list, the pins are released, and the jobs are queued
(R149, R150, R151). -/
def becomeStoring (v : Verif) (receipt : List Byte) (s : State) : State :=
  let jobs := StoreJob.bundleFloor v.signerIndex v.bundle.signer v.signerClass v.bundle.sequence :: v.plan
  let s := endVerif s
  let x := ctxOf s v.ctx
  let s := setCtx s v.ctx
    { x with
      state := .storing
      dropPending := false
      fields := { x.fields with receipt := some receipt }
      jobs := jobs.map fun j => (j, .notQueued)
      success := successOf v.bundle.body }
  queueAllStoring 8 { s with renewal := { s.renewal with storing := s.renewal.storing ++ [v.ctx] } }

/-! ### What reaches a verification -/

/-- A fill the Renewal Engine waits on has given its entry (R129, R142, R144). -/
def renewalFilled (s : State) : State :=
  match s.renewal.verif with
  | none => s
  | some v =>
    if s.device = .faulted then s
    else if dropping s then (if v.stage = .authEntry || v.stage = .kekEntry then dropVerif s else s)
    else
      match v.stage, v.bundle.body with
      | .authEntry, _ => placeTagCheck v s
      | .kekEntry, .install i => placeKeyUnwrap v i s
      | _, _ => s

/-- A fill the Renewal Engine waits on has ended without an entry (R82, R129, R142, R144). -/
def renewalRefused (s : State) : State :=
  match s.renewal.verif with
  | none => s
  | some v =>
    if s.device = .faulted then s
    else
      match v.stage with
      | .authEntry => if dropping s then dropVerif s else failVerif .signerUnavailable s
      | .kekEntry => if dropping s then dropVerif s else failVerif .unwrapFailed s
      | .tagCheck | .keyUnwrap | .receipt => s

/-- A cause on an entry whose job waits on the Renewal Engine's line fails the step (R99, R142, R144). -/
def renewalReact (s : State) : State :=
  match s.renewal.verif with
  | none => s
  | some v =>
    if s.device = .faulted || s.engine.renewalLine.isNone then s
    else
      match v.stage with
      | .tagCheck => if (causeOf s v.authSlot v.signGen).isSome then failVerif .signerUnavailable s else s
      | .keyUnwrap =>
        match v.kek with
        | none => s
        | some (slot, gen) => if (causeOf s slot gen).isSome then failVerif .unwrapFailed s else s
      | .authEntry | .kekEntry | .receipt => s

end Sys2Proof.Machine
end

