-- ==== Sys2Proof/Machine/React.lean ====
section
/-! DEFINITION. What a change of a slot does to the cache and to those who hold its entries: withhold causes, fills that end,
counter jobs of a generation that has left, quarantine (4.6, R23, R82, R99). -/

namespace Sys2Proof.Machine

/-- Two requesters are told in the order the arbiter would serve them (log entry 13). -/
def tellBoth (port renewal : State → State) (s : State) : State :=
  match s.engine.last with
  | .port => port (renewal s)
  | .renewal => renewal (port s)

/-- Tell the holders of a fill how it ended (R81, R82). -/
def tellHolders (toPort toRenewal : Bool) (port renewal : State → State) (s : State) : State :=
  tellBoth (fun t => if toPort then port t else t) (fun t => if toRenewal then renewal t else t) s

/-- The fill of an entry is still waiting on a request line. -/
def fillWaits (s : State) (e : Entry) : Bool :=
  s.engine.portLine == some (.fill e.slot e.cell e.gen) || s.engine.renewalLine == some (.fill e.slot e.cell e.gen)

/-- Take the fill request of an entry off its line (R99). -/
def dropFillRequest (e : Entry) (s : State) : State :=
  let s := if s.engine.portLine = some (.fill e.slot e.cell e.gen) then setLine .port none s else s
  if s.engine.renewalLine = some (.fill e.slot e.cell e.gen) then setLine .renewal none s else s

/-- A FILLING entry with a cause whose request was not granted: the request is withdrawn, the place freed, the holders answered
(R82, R99). In FAULTED, where contexts keep VERIFYING, a fill waiting on the Renewal line goes so too, while another request waiting
there stays; the model's choice (R137; log entry 66). -/
def withdrawCaused (s : State) (e : Entry) : State :=
  match e.withhold with
  | none => s
  | some w =>
    if e.filling && fillWaits s e then
      tellHolders e.pinPort e.pinRenewal (portRefused (causeCode w)) renewalRefused
        (removeEntry e.slot e.gen (dropFillRequest e s))
    else s

/-- The fills waiting for room that a cause or a bar ends: their holders are answered (R85). -/
def endWaits (w : Withhold) (p : Fin 32 → Nat → Bool) (s : State) : State :=
  let ended := s.cache.waits.filter fun x => p x.slot x.gen
  tellHolders (ended.any (·.port)) (ended.any (·.renewal)) (portRefused (causeCode w)) renewalRefused
    { s with cache := { s.cache with waits := s.cache.waits.filter fun x => !p x.slot x.gen } }

/-- A cause reaches the entries and waiting fills of the slots and generations that `p` selects, and then those who hold them
(R82, R85, R91, R93, R94, R99, R105). -/
def causes (w : Withhold) (p : Fin 32 → Nat → Bool) (s : State) : State :=
  let s := giveCause w (fun e => p e.slot e.gen) s
  let s := endWaits w p s
  let s := (s.cache.entries.filter fun e => p e.slot e.gen).foldl withdrawCaused s
  renewalReact (portReact s)

/-- A slot becomes QUARANTINED at run time: marked, the notice raised, its entries discarded (R9, R93, R181). -/
def quarantineSlot (slot : Fin 32) (s : State) : State :=
  causes .quarantined (fun i _ => i == slot)
    (raise (.quarantined slot) (setSlot s slot (quarantineImg (slotOf s slot))))

/-- A queued counter job of a slot and cell (R23). -/
def isCounterFor (slot : Fin 32) (c : CellId) (q : QJob) : Bool := isHighFor slot c q || isReserveFor slot c q

/-- Remove the queued jobs that `p` selects; a Port Executor command that waited on one is answered (R23). -/
def removeCounterJobs (p : QJob → Bool) (s : State) : State :=
  let waited := s.writer.queue.any fun q => p q && q.port
  let s := setQueue (s.writer.queue.filter fun q => !p q) s
  if waited then portJobGone s else s

/-- A generation has left its cell: its entry is discarded and its queued counter jobs go (R15, R23, R93). -/
def genLeaves (slot : Fin 32) (c : CellId) (gen : Nat) (s : State) : State :=
  removeCounterJobs (isCounterFor slot c) (causes .retired (fun i g => i == slot && g == gen) s)

/-- Every generation of a slot has left it: its entries are discarded with cause ERASED and its counter jobs go (R19, R93). -/
def slotErased (slot : Fin 32) (s : State) : State :=
  removeCounterJobs (fun q => isCounterFor slot .a q || isCounterFor slot .b q)
    (causes .erased (fun i _ => i == slot) s)

/-! ### A fill ends (R81, R82) -/

/-- The unwrap of a fill has ended with the key it gave, or none (R81, R82). -/
def fillEnd (e : Entry) (key : Option (List Byte)) (s : State) : State :=
  match e.withhold with
  | some w =>
    tellHolders e.pinPort e.pinRenewal (portRefused (causeCode w)) renewalRefused (removeEntry e.slot e.gen s)
  | none =>
    match key with
    | some k => tellHolders e.pinPort e.pinRenewal portFilled renewalFilled (makeReady k e s)
    | none =>
      tellHolders e.pinPort e.pinRenewal (portRefused .slotQuarantined) renewalRefused
        (quarantineSlot e.slot (removeEntry e.slot e.gen s))

end Sys2Proof.Machine
end

