-- ==== Sys2Proof/Machine/Room.lean ====
section
/-! DEFINITION. Queue room given to those who wait for it, in the order of R178; the blocks resuming when the device returns to
SERVING (R204, R206). -/

namespace Sys2Proof.Machine

/-- Whether a waiting fill can be served now gives the state where it is (R85, R178). -/
def serveWait (s : State) (w : WaitFill) : Option State :=
  (makePlace s).map fun t =>
    placeFilling w.line
      { fillingEntry w.line w.slot w.cell w.gen with pinPort := w.port, pinRenewal := w.renewal }
      { t with cache := { t.cache with waits := t.cache.waits.filter fun x => !isWait w.slot w.gen x } }

/-- Serve the first waiting fill that `p` selects. -/
def serveWaits (p : WaitFill → Bool) (s : State) : Option State :=
  match s.cache.waits.find? p with
  | none => none
  | some w => serveWait s w

/-- Serve the first flush request that can be placed (R88, R178). -/
def serveFlush (s : State) : Option State := s.cache.entries.findSome? (flushOne s)

/-- Serve the first job held by mark (R178, R188, R27). -/
def serveMarks (s : State) : Option State :=
  if hasRoom s then
    allSlots.findSome? fun i => (markedJob s i).map fun x => enqueue (plainJob x.1) (setSlot s i x.2)
  else none

/-- Serve the HOUR job under the strip-pending mark (R37, R178). -/
def serveHour (s : State) : Option State :=
  if s.writer.stripPending then
    if s.writer.queue.any (fun q => q.job == .hour) then
      some { s with writer := { s.writer with stripPending := false } }
    else if hasRoom s then some (requestHour s)
    else none
  else none

/-- Give room to the first waiter that can be served, in the order of R178; none where nobody waits who can be. -/
def giveOne (s : State) : Option State :=
  (portRoom s).orElse fun _ => (serveWaits (·.port) s).orElse fun _ => (serveWaits (fun w => !w.port) s).orElse fun _ =>
    (serveFlush s).orElse fun _ => (serveMarks s).orElse fun _ => (queueStoring s).orElse fun _ => serveHour s

/-- Give room while somebody can be served: at most `fuel` times. -/
def giveAll : Nat → State → State
  | 0, s => s
  | fuel + 1, s =>
    match giveOne s with
    | none => s
    | some s => giveAll fuel s

/-- The device becomes SERVING again, or for the first time: the Key Table examines its slots against the present hour, and room
is given out (R27, R191, R204, R206). -/
def resumeServing (s : State) : State :=
  let s := { s with device := .serving }
  giveAll 32 (allSlots.foldl (fun s i => markOverlap (markActivation s i) i) s)

/-- The drain a HOLD waits for is met: no job, no queued job, no tamper work list, no fill that waits for room and nobody who could be
given any, and no dirty or flush-requested entry (R205). -/
def drained (s : State) : Bool :=
  s.writer.job.isNone && s.writer.queue.isEmpty && s.writer.tamper.isNone && s.cache.waits.isEmpty && (giveOne s).isNone &&
  s.cache.entries.all fun e => !unclean e

end Sys2Proof.Machine
end

