-- ==== Sys2Proof/Machine/Tamper.lean ====
section
/-! DEFINITION. The Tamper Monitor: comparison, the tamper event and its effects on slots, cache, queue and contexts
(Chapter 8). -/

namespace Sys2Proof.Machine

/-- One selected input agrees with its expected level; an input that is not selected always does (R161). -/
def inputMatches (arm : ArmRecord) (levels : Inputs (Option Level)) (i : TamperInput) : Bool :=
  match inputGet arm i with
  | none => true
  | some l => inputGet levels i == some l

/-- The group matches (R161). -/
def groupMatches (arm : ArmRecord) (levels : Inputs (Option Level)) : Bool := inputsAll (inputMatches arm levels)

/-- The mismatch pattern (R162). -/
def mismatchPattern (arm : ArmRecord) (levels : Inputs (Option Level)) : InputSet :=
  inputsOf fun i => !inputMatches arm levels i

/-- Every selected input has settled (R170). -/
def selectedSettled (arm : ArmRecord) (levels : Inputs (Option Level)) : Bool :=
  inputsAll fun i => (inputGet arm i).isNone || (inputGet levels i).isSome

/-- The action of a slot's policy when it is bound (R163). -/
def slotAction (img : SlotImg) : Option TamperAct :=
  if img.binding.isNone then none
  else
    match img.policy with
    | .keep => none
    | .suspend => some .suspend
    | .erase => some .erase

/-- The slot items of a tamper work list, in slot-number order (R163). -/
def slotItems (s : State) : List (Fin 32 × TamperAct) :=
  allSlots.filterMap fun i => (slotAction (slotOf s i)).map fun a => (i, a)

/-- How many items have an action. -/
def countAct (a : TamperAct) (items : List (Fin 32 × TamperAct)) : Nat := (items.filter fun x => x.2 == a).length

/-- The items name a slot with an action. -/
def hasItem (items : List (Fin 32 × TamperAct)) (slot : Fin 32) (a : TamperAct) : Bool :=
  items.any fun x => x.1 == slot && x.2 == a

/-- The record of an event (Table 8-1). -/
def eventRecord (origin : Origin) (s : State) (items : List (Fin 32 × TamperAct)) : TamperRecord :=
  { origin := origin, levels := s.monitor.debounced
    pattern := mismatchPattern s.monitor.arm s.monitor.debounced
    eraseCount := countAct .erase items, suspendCount := countAct .suspend items, pendingSet := items }

/-- The slot that a job of a slot names, if it names one (R166, R188). -/
def jobSlot : StoreJob → Option (Fin 32)
  | .stage i .. | .activate i _ | .overlapEnd i .. | .revokeSlot i _ | .suspend i | .resume i | .header i ..
  | .reserve i .. | .highWater i .. | .cellRepair i _ | .floorRepair i => some i
  | .hour | .association .. | .bundleFloor .. | .armRecord _ => none

/-- The slot that a RESUME names. -/
def resumeSlot : StoreJob → Option (Fin 32)
  | .resume i => some i
  | .stage .. | .activate .. | .overlapEnd .. | .revokeSlot .. | .suspend _ | .header .. | .reserve .. | .highWater ..
  | .cellRepair .. | .floorRepair _ | .hour | .association .. | .bundleFloor .. | .armRecord _ => none

/-- A job is removed from the queue at an event with these items: one of a STORING context, any naming a slot to be erased, its
repairs among them (R20, Table 1-5; log entry 32), or a RESUME of a slot to be suspended (R21, R166). -/
def voided (items : List (Fin 32 × TamperAct)) (q : QJob) : Bool :=
  q.ctx.isSome || (jobSlot q.job).any (hasItem items · .erase) || (resumeSlot q.job).any (hasItem items · .suspend)

/-- The task in hand belongs to an earlier list once a new one is handed over (R169). -/
def staleTask (r : Running) : Running :=
  match r.task with
  | .item .. => { r with stale := true }
  | .queued _ | .flush _ | .opening | .closing _ => r

/-- The Store Writer takes over the new list in place of an earlier one (R163, R169). -/
def handList (record : TamperRecord) (items : List (Fin 32 × TamperAct)) (s : State) : State :=
  let list := TamperItem.opening :: (items.map (fun x => .slot x.1 x.2) ++ [.closing])
  { s with writer := { s.writer with
      tamper := some { items := list, record := record, failed := [], completed := [], resumed := false }
      job := s.writer.job.map staleTask } }

/-- The bars of the event's slots are set, a newer policy in place of an older (R94). Any other bar stays as it is. That of a slot
which a HEADER in progress has made KEEP or unbound before its item was taken, and which so has no item in the new list, then stays
until a reset or a later item of the slot: the spec gives its bar no end, and this is the model's choice (R169; log entry 57). -/
def setBars (items : List (Fin 32 × TamperAct)) (s : State) : State :=
  { s with cache := { s.cache with bars := items.foldl (fun v x => vset v x.1 (some x.2)) s.cache.bars } }

/-- What the event does to one context (R130, R167). -/
def tamperCtx (s : State) (i : Fin 2) : State :=
  match (ctxOf s i).state with
  | .gathering => ctxFail i .tamper s
  | .closed => ctxFail i .tamper (leaveQueue i s)
  | .verifying => if dropping s then dropVerif s else failVerif .tamper s
  | .storing => failStoring i .tamper s
  | .idle | .done | .failed => s

/-- The port's answer when its queued job was removed at the event: SLOT_ERASED, whatever cause its entry carries (R166; log
entry 19). -/
def portVoided (s : State) : State :=
  match s.port.exec with
  | .protect op => if op.stage = .reserve then finish .slotErased [] s else s
  | .unprotect op => if op.stage = .high then finish .slotErased [] s else s
  | .activate op => if op.stage = .store then finish .slotErased [] s else s
  | .free | .handed .. | .hold _ => s

/-- The queue loses the jobs the event makes void; a Port Executor command that waited on one is answered (R166). -/
def voidJobs (items : List (Fin 32 × TamperAct)) (s : State) : State :=
  let waited := s.writer.queue.any fun q => voided items q && q.port
  let s := setQueue (s.writer.queue.filter fun q => !voided items q) s
  if waited then portVoided s else s

/-- The TAMPER notice of an event (R168). -/
def tamperNotice (origin : Origin) (r : TamperRecord) (slots : List (Fin 32)) : Notice :=
  .tamper origin r.origin r.levels r.pattern r.eraseCount r.suspendCount slots

/-- A tamper event is taken (R163 to R169): the list is handed over, the slots barred, the notice raised, the contexts failed, the
entries given their causes, and the void jobs removed (log entry 33). -/
def tamperEvent (origin : Origin) (s : State) : State :=
  let items := slotItems s
  let record := eventRecord origin s items
  let s := setBars items (handList record items s)
  let s := raise (tamperNotice origin record (items.map (·.1))) s
  let s := tamperCtx (tamperCtx s 0) 1
  let s := causes .erased (fun i _ => hasItem items i .erase) s
  let s := causes .suspended (fun i _ => hasItem items i .suspend) s
  voidJobs items s

/-- The monitor compares (R161, R162). -/
def compareNow (origin : Origin) (s : State) : State :=
  if groupMatches s.monitor.arm s.monitor.debounced then { s with monitor := { s.monitor with matching := true } }
  else if s.monitor.matching then tamperEvent origin { s with monitor := { s.monitor with matching := false } }
  else s

/-- A comparison at a debounced change or a completed ARM_RECORD: in SERVING and HOLDING, once the first one has been made
(R161). -/
def compareLive (s : State) : State :=
  if servingOrHolding s && s.monitor.compared then compareNow .live s else s

end Sys2Proof.Machine
end

