-- ==== Sys2Proof/Machine/StoreTake.lean ====
section
/-! DEFINITION. The Store Writer takes its next job: sources, re-validation, and the writes of each job (R176, R179,
Table 9-2). -/

namespace Sys2Proof.Machine

/-- Whether the Store Writer's taking of a job ends at once, or what it writes (R176). -/
inductive Verdict
  | drop (c : Code)
  | write (ws : List ArrayWrite)
  deriving DecidableEq, Repr

/-! ### Alternately written positions (R175) -/

/-- The value of a field in two positions: the greater valid one, or unknown. -/
def twoValue (t : TwoPos) : Option Nat :=
  match t.first, t.second with
  | none, none => none
  | some a, none => some a
  | none, some b => some b
  | some a, some b => some (max a b)

/-- The position a write of the field goes to: an invalid one, else that of the smaller value, else the second (R175); of two invalid
ones the first (log entry 54). -/
def writesSecond (t : TwoPos) : Bool :=
  match t.first, t.second with
  | none, _ => false
  | some _, none => true
  | some a, some b => decide (b ≤ a)

/-- The write of a slot's generation floor. -/
def floorWrite (s : State) (slot : Fin 32) (v : Nat) : ArrayWrite :=
  .floor slot (writesSecond (s.array.slots[slot]).floor) v

/-- The write of a cell's ceiling. -/
def ceilingWrite (s : State) (slot : Fin 32) (c : CellId) (v : Nat) : ArrayWrite :=
  .ceiling slot c (writesSecond (storedCell s slot c).ceiling) v

/-- The write of a cell's high-water. -/
def highWrite (s : State) (slot : Fin 32) (c : CellId) (v : Nat) : ArrayWrite :=
  .highWater slot c (writesSecond (storedCell s slot c).highWater) v

/-- The header body as the image holds it. -/
def headerOf (img : SlotImg) : HeaderBody := ⟨img.binding, img.policy, img.mode, img.suspended⟩

/-! ### STAGE and ACTIVATE -/

/-- The ceiling STAGE writes (R41). -/
def stageCeiling (p : GenParams) : Nat := min (p.counterStart + p.counterStep) maxU32

/-- The target cell of a STAGE, for the slot as the take finds it (R15). -/
def stageTarget (img : SlotImg) : CellId :=
  match phaseOf img with
  | .vacant | .quarantined => .a
  | .staged => (cellWith img .staged).getD .a
  | .overlap => (cellWith img .overlap).getD .a
  | .single => ((cellWith img .current).map otherCell).getD .a

/-- The writes of a STAGE from the blank activation part on (Table 9-2); the key is sealed as the cell is written (R144). Of "both
positions" the first is written before the second, the model's choice (R179; log entry 60). -/
def stageTail (s : State) (slot : Fin 32) (c : CellId) (b : GenRecord) (inFloor : Nat) : List ArrayWrite :=
  [.activation slot c none, .ceiling slot c false (stageCeiling b.params), .ceiling slot c true (stageCeiling b.params),
   .highWater slot c false inFloor, .highWater slot c true inFloor, .cellBody slot c (.gen b.stored),
   floorWrite s slot b.params.generation]

/-- The writes of a STAGE (Table 9-2). The target cell is emptied first unless the image and the array both have it EMPTY: a cell that
is EMPTY in the image alone may still hold a body that a repair has yet to empty (R187), and the writes of the counters' positions
rest on the body having been emptied (R175, R179; log entry 65). -/
def stageWrites (s : State) (slot : Fin 32) (b : GenRecord) (inFloor : Nat) : List ArrayWrite :=
  let img := slotOf s slot
  if img.quarantined then
    [.cellBody slot .a .empty, .cellBody slot .b .empty, .headerBody slot (headerOf img)] ++ stageTail s slot .a b inFloor
  else
    let c := stageTarget img
    if cellOf img c = none ∧ (storedCell s slot c).body = .empty then stageTail s slot c b inFloor
    else .cellBody slot c .empty :: stageTail s slot c b inFloor

/-- The stamp an activation gives (R7). -/
def nextStamp (img : SlotImg) : Nat :=
  match genWith img .current with
  | none => 1
  | some (_, x) => (x.activation.map (·.stamp)).getD 0 + 1

/-- Both grace fields of a generation are 0 (R17). -/
def noGrace (p : GenParams) : Bool := p.graceHours == 0 && p.graceCount == 0

/-- The writes of an ACTIVATE of the staged generation in a cell (Table 9-2). -/
def activateWrites (s : State) (slot : Fin 32) (c : CellId) (x : CellImg) : List ArrayWrite :=
  let img := slotOf s slot
  .activation slot c (some ⟨nextStamp img, s.clock.hour⟩) ::
    match cellWith img .current with
    | some p => if noGrace x.params then [.cellBody slot p .empty] else []
    | none => []

/-- The writes of a REVOKE_SLOT or tamper ERASE (Table 9-2). -/
def revokeWrites (s : State) (slot : Fin 32) (unbind : Bool) : List ArrayWrite :=
  let img := slotOf s slot
  [.headerBody slot { headerOf img with binding := if unbind then none else img.binding },
   floorWrite s slot img.floor, .cellBody slot .a .empty, .cellBody slot .b .empty]

/-- The write of the suspended flag. -/
def suspendWrites (s : State) (slot : Fin 32) (flag : Bool) : List ArrayWrite :=
  [.headerBody slot { headerOf (slotOf s slot) with suspended := flag }]

/-! ### Re-validation -/

/-- A STAGE is re-validated (R14). -/
def takeStage (s : State) (slot : Fin 32) (target : Binding) (b : GenRecord) (inFloor : Nat) : Verdict :=
  let img := slotOf s slot
  let g := b.params.generation
  if g ≤ img.floor || (genNumber img .staged).any (g ≤ ·) then .drop .staleGeneration
  else if img.binding != some target then .drop .roleNotBound
  else .write (stageWrites s slot b inFloor)

/-- An ACTIVATE is re-validated (R16). -/
def takeActivate (s : State) (slot : Fin 32) (gen : Nat) : Verdict :=
  let img := slotOf s slot
  if img.quarantined then .drop .notStaged
  else
    match genWith img .staged with
    | none => .drop .notStaged
    | some (c, x) => if x.params.generation = gen then .write (activateWrites s slot c x) else .drop .notStaged

/-- An OVERLAP_END is re-validated (R9, R18); its drop has nobody to hear a reason. -/
def takeOverlapEnd (s : State) (slot : Fin 32) (gen : Nat) : Verdict :=
  let img := slotOf s slot
  if img.quarantined then .drop .notStaged
  else
    match genWith img .overlap with
    | none => .drop .notStaged
    | some (c, x) => if x.params.generation = gen then .write [.cellBody slot c .empty] else .drop .notStaged

/-- A HEADER is re-validated (R22). -/
def takeHeader (s : State) (slot : Fin 32) (binding : Option Binding) (p : Policy) (m : CounterMode) : Verdict :=
  let img := slotOf s slot
  let ws := [ArrayWrite.headerBody slot ⟨binding, p, m, img.suspended⟩]
  match binding with
  | none => if phaseOf img = .vacant then .write ws else .drop .slotNotEmpty
  | some b => if img.binding.isNone || img.binding == some b then .write ws else .drop .slotBound

/-- A counter job's cell still holds its generation and the slot is not QUARANTINED (R23). -/
def counterStands (s : State) (slot : Fin 32) (c : CellId) (gen : Nat) : Bool :=
  !(slotOf s slot).quarantined && cellHolds (slotOf s slot) c gen

/-- A RESERVE is re-validated; one not above the stored ceiling makes no write (R23, R46). -/
def takeReserve (s : State) (slot : Fin 32) (c : CellId) (gen v : Nat) : Verdict :=
  if !counterStands s slot c gen then .drop .generationRetired
  else
    match cellOf (slotOf s slot) c with
    | none => .drop .generationRetired
    | some x => .write (if v ≤ x.ceiling then [] else [ceilingWrite s slot c v])

/-- A HIGHWATER is re-validated; one not above the stored high-water makes no write (R23, R51). -/
def takeHigh (s : State) (slot : Fin 32) (c : CellId) (gen v : Nat) : Verdict :=
  if !counterStands s slot c gen then .drop .generationRetired
  else
    match cellOf (slotOf s slot) c with
    | none => .drop .generationRetired
    | some x => .write (if v ≤ x.highWater then [] else [highWrite s slot c v])

/-- The stored body of an EMPTY association entry; what it holds as identifier and class is the model's (R71, R173; log entry 9). -/
def emptyBody : AssocBody := ⟨false, 0#64, .commissioning, .all none⟩

/-- An ASSOCIATION is re-validated (R69, R70, R71). Where its floor was unknown both positions are written, the first before the
second, the model's choice (R179; log entry 60). -/
def takeAssociation (s : State) (index : Fin 8) : AssocForm → Verdict
  | .empty => .write [.assocBody index emptyBody]
  | .enrol party cls choices =>
    let new := resolveEnrol s index choices
    match associationCheck s index party cls new with
    | some c => .drop c
    | none =>
      .write ((if (assocOf s index).floor.isNone then [.assocFloor index false 0, .assocFloor index true 0] else []) ++
        [.assocBody index ⟨true, party, cls, new⟩])

/-- A BUNDLE_FLOOR is re-validated (R72). -/
def takeBundleFloor (s : State) (index : Fin 8) (party : Id64) (cls : PartyClass) (v : Nat) : Verdict :=
  let a := assocOf s index
  if a.state != .active || a.ident != some (party, cls) then .drop .signerUnknown
  else if (a.floor.getD 0) ≥ v then .drop .staleBundle
  else .write [.assocFloor index (writesSecond (s.array.assocs[index]).floor) v]

/-- The arm count and copy of the next arm record (R160). -/
def nextArm (s : State) : Bool × Nat :=
  if s.monitor.armLost then (false, 0) else (!s.monitor.armSecond, (s.monitor.armCount + 1) % 4294967296)

/-- An ARM_RECORD is re-validated against the live levels (R171). -/
def takeArm (s : State) (r : ArmRecord) : Verdict :=
  if groupMatches r s.monitor.debounced then .write [.arm (nextArm s).1 ⟨r, (nextArm s).2⟩] else .drop .notMatching

/-- A CELL_REPAIR is re-validated (R188). -/
def takeCellRepair (s : State) (slot : Fin 32) (c : CellId) : Verdict :=
  let img := slotOf s slot
  if img.quarantined || (cellOf img c).isSome then .drop .storeFailed else .write [.cellBody slot c .empty]

/-- A FLOOR_REPAIR is re-validated (R188). -/
def takeFloorRepair (s : State) (slot : Fin 32) : Verdict :=
  let img := slotOf s slot
  if img.quarantined then .drop .storeFailed else .write [floorWrite s slot img.floor]

/-- Re-validation and writes of a queued job (R12, R176, Table 9-2). -/
def verdict (s : State) : StoreJob → Verdict
  | .stage slot target b inFloor => takeStage s slot target b inFloor
  | .activate slot gen => takeActivate s slot gen
  | .overlapEnd slot gen _ => takeOverlapEnd s slot gen
  | .revokeSlot slot unbind => .write (revokeWrites s slot unbind)
  | .suspend slot => .write (suspendWrites s slot true)
  | .resume slot => .write (suspendWrites s slot false)
  | .header slot b p m => takeHeader s slot b p m
  | .reserve slot c gen v => takeReserve s slot c gen v
  | .highWater slot c gen v => takeHigh s slot c gen v
  | .hour => .write [.strip s.writer.nextStrip s.clock.hour]
  | .association index form => takeAssociation s index form
  | .bundleFloor index party cls v => takeBundleFloor s index party cls v
  | .armRecord r => takeArm s r
  | .cellRepair slot c => takeCellRepair s slot c
  | .floorRepair slot => takeFloorRepair s slot

/-- The writes of a tamper item (R164). -/
def itemWrites (s : State) (slot : Fin 32) : TamperAct → List ArrayWrite
  | .suspend => suspendWrites s slot true
  | .erase => revokeWrites s slot false

/-! ### Dropped jobs -/

/-- A dropped job tells its requester the reason (R12, R23, R153). -/
def dropJob (q : QJob) (c : Code) (s : State) : State :=
  let s := if q.port then portJobGone s else s
  match q.ctx with
  | none => s
  | some i => ctxJobFailed i c s

end Sys2Proof.Machine
end

