-- ==== Sys2Proof/Machine/ArrayWrites.lean ====
section
/-! DEFINITION. What a write leaves in the key store array: its item whole, spoilt, or as it was (R173, R174, R180). -/

namespace Sys2Proof.Machine

/-- One position of a two-position field changed. -/
def setPos (second : Bool) (v : Option Nat) (t : TwoPos) : TwoPos :=
  if second then { t with second := v } else { t with first := v }

/-- One stored slot changed. -/
def updSlotRec (a : StoreArray) (slot : Fin 32) (f : SlotRec → SlotRec) : StoreArray :=
  { a with slots := vset a.slots slot (f a.slots[slot]) }

/-- One stored cell changed. -/
def updCellRec (a : StoreArray) (slot : Fin 32) (c : CellId) (f : CellRec → CellRec) : StoreArray :=
  updSlotRec a slot fun r =>
    match c with
    | .a => { r with cellA := f r.cellA }
    | .b => { r with cellB := f r.cellB }

/-- One stored association record changed. -/
def updAssocRec (a : StoreArray) (i : Fin 8) (f : AssocRec → AssocRec) : StoreArray :=
  { a with assocs := vset a.assocs i (f a.assocs[i]) }

/-- A value that is whole, or nothing valid. -/
def ifWhole {α : Type} (whole : Bool) (x : α) : Option α := if whole then some x else none

/-- The array after a write that left its item whole, or with a check value that fails (R174). -/
def putWrite (whole : Bool) (a : StoreArray) : ArrayWrite → StoreArray
  | .headerBody slot b => updSlotRec a slot fun r => { r with header := ifWhole whole b }
  | .floor slot second v => updSlotRec a slot fun r => { r with floor := setPos second (ifWhole whole v) r.floor }
  | .cellBody slot c b => updCellRec a slot c fun r => { r with body := if whole then b else .invalid }
  | .activation slot c p => updCellRec a slot c fun r => { r with activation := if whole then p else none }
  | .ceiling slot c second v => updCellRec a slot c fun r => { r with ceiling := setPos second (ifWhole whole v) r.ceiling }
  | .highWater slot c second v =>
    updCellRec a slot c fun r => { r with highWater := setPos second (ifWhole whole v) r.highWater }
  | .assocBody i b => updAssocRec a i fun r => { r with body := ifWhole whole b }
  | .assocFloor i second v => updAssocRec a i fun r => { r with floor := setPos second (ifWhole whole v) r.floor }
  | .strip i v => { a with strip := vset a.strip i (ifWhole whole v) }
  | .arm second c => if second then { a with armSecond := ifWhole whole c } else { a with armFirst := ifWhole whole c }
  | .tamper r => { a with tamper := ifWhole whole r }

/-- The array after a write that was cut short or mismatched (log entry 8). -/
def tornWrite (t : Torn) (a : StoreArray) (w : ArrayWrite) : StoreArray :=
  match t with
  | .kept => a
  | .written => putWrite true a w
  | .spoilt => putWrite false a w

/-- The array after a write whose second try has mismatched too: the tamper record can no longer be read as valid (R165), and a
failed write of the arm record leaves no copy that the loader would take before the one in force (R171). Other items are as the
tries left them (R73, R181; log entry 46). -/
def failedWrite (armLost : Bool) (a : StoreArray) : ArrayWrite → StoreArray
  | .tamper r => putWrite false a (.tamper r)
  | .arm second c =>
    if !armLost && (if second then a.armSecond else a.armFirst) == some c then putWrite false a (.arm second c) else a
  | _ => a

/-- The array after the write in progress, if any, is cut short (R180). -/
def tornArray (t : Torn) (s : State) : StoreArray :=
  match s.writer.job with
  | none => s.array
  | some r =>
    match r.writes with
    | [] => s.array
    | w :: _ => tornWrite t s.array w

end Sys2Proof.Machine
end

