-- ==== Sys2Proof/Machine/StoreEnd.lean ====
section
/-! DEFINITION. Store jobs that complete or fail, what they change and whom they tell; the take of the next job (R12, R15 to R24,
R46, R51, R70 to R73, R165, R171, R176, R180 to R184). -/

namespace Sys2Proof.Machine

/-- Change one slot image; its marks and grace progress follow (R25, R26, R28). -/
def updSlot (slot : Fin 32) (f : SlotImg → SlotImg) (s : State) : State :=
  setSlot s slot (settleMarks (f (slotOf s slot)))

/-! ### Completions on a slot -/

/-- The generation image STAGE gives (R15, R41). -/
def stagedImg (b : GenRecord) (inFloor : Nat) : CellImg :=
  { params := b.params, activation := none, ceiling := stageCeiling b.params, highWater := inFloor, unused := true,
    wear := none }

/-- A generation that a STAGE put out of its cell: an ended overlap raises its notice; its entries and counter jobs go (R15). -/
def stageDisplaced (slot : Fin 32) (c : CellId) (before : SlotImg) (s : State) : State :=
  match cellOf before c with
  | none => s
  | some x =>
    let s := if roleIn before c = some .overlap then raise (.overlapEnded slot x.params.generation .superseded) s else s
    genLeaves slot c x.params.generation s

/-- A STAGE completes, in the cells it wrote: `bothCells` says whether the take found the slot QUARANTINED. A quarantine mark set
while it was written clears (R9, R15, R179; log entry 45). Of the generations that a STAGE of a QUARANTINED slot overwrites or empties
none raises OVERLAP_ENDED, a stamped pair among them (log entry 51). -/
def doneStage (slot : Fin 32) (b : GenRecord) (inFloor : Nat) (bothCells : Bool) (s : State) : State :=
  let before := { slotOf s slot with quarantined := bothCells }
  let c := stageTarget before
  let put (img : SlotImg) : SlotImg := { clearRepairs (setCell img c (some (stagedImg b inFloor))) with
    floor := b.params.generation, quarantined := false }
  if bothCells then
    removeCounterJobs (fun q => isCounterFor slot .a q || isCounterFor slot .b q)
      (updSlot slot (fun img => put (setCell img .b none)) s)
  else stageDisplaced slot c before (updSlot slot put s)

/-- The previous current generation's entry when that generation becomes overlap: ACCEPT_ONLY, keeping n only while a PROTECT
holds it (R92). -/
def acceptOnlyEntry (held : Bool) (e : Entry) : Entry :=
  if e.role = some .active then
    if held then { e with role := some .acceptOnly }
    else { e with role := some .acceptOnly, n := none, resvPending := false }
  else e

/-- A PROTECT holds the entry of a slot and generation (R92). -/
def protectHolds (s : State) (slot : Fin 32) (gen : Nat) : Bool :=
  match s.port.exec with
  | .protect op => op.slot == slot && op.gen == gen
  | .free | .handed .. | .unprotect _ | .activate _ | .hold _ => false

/-- The new current generation's VERIFY_ONLY entry becomes ACTIVE and takes its start point (R92). -/
def raiseVerifyOnly (slot : Fin 32) (c : CellId) (gen : Nat) (s : State) : State :=
  match findEntry s slot gen with
  | none => s
  | some e =>
    if e.role = some .verifyOnly then clearUnused slot c (updEntry slot gen (activeEntry s slot c) s) else s

/-- The image of a slot after an ACTIVATE of the staged generation in cell `c`, the previous current being in cell `p` (R16,
R17). -/
def activatedImg (stamp hour : Nat) (c : CellId) (p : Option CellId) (kept : Bool) (img : SlotImg) : SlotImg :=
  let img := match p with
    | some p => if kept then img else setCell img p none
    | none => img
  { setCell img c ((cellOf img c).map fun x => { x with activation := some ⟨stamp, hour⟩, wear := some 0 }) with
    graceProgress := 0 }

/-- The previous current generation at an activation: kept as overlap or gone from its cell (R17, R92). -/
def activatePrevious (slot : Fin 32) (kept : Bool) (previous : Option (CellId × CellImg)) (s : State) : State :=
  match previous with
  | none => s
  | some (p, y) =>
    let g := y.params.generation
    if kept then updEntry slot g (acceptOnlyEntry (protectHolds s slot g)) s else genLeaves slot p g s

/-- An ACTIVATE completes, at the service hour of its take; an ACTIVATE command is answered (R16, R17, R24, R92, R158). -/
def doneActivate (slot : Fin 32) (gen hour : Nat) (port : Bool) (s : State) : State :=
  let before := slotOf s slot
  match genWith before .staged with
  | none => s
  | some (c, x) =>
    let previous := genWith before .current
    let kept := previous.isSome && !noGrace x.params
    let prevGen := previous.map fun y => y.2.params.generation
    let s := updSlot slot (activatedImg (nextStamp before) hour c (previous.map (·.1)) kept) s
    let s := raiseVerifyOnly slot c gen (activatePrevious slot kept previous s)
    let s := raise (.activated slot gen prevGen kept) s
    if port then finish .ok (activateBody slot gen prevGen kept) s else s

/-- An OVERLAP_END completes (R18). -/
def doneOverlapEnd (slot : Fin 32) (gen : Nat) (cause : OvlCause) (s : State) : State :=
  match genWith (slotOf s slot) .overlap with
  | none => s
  | some (c, _) =>
    genLeaves slot c gen (raise (.overlapEnded slot gen cause) (updSlot slot (fun img => setCell img c none) s))

/-- A REVOKE_SLOT or tamper ERASE completes (R19, R20). -/
def doneRevoke (slot : Fin 32) (unbind : Bool) (s : State) : State :=
  slotErased slot (setSlot s slot (revokeImg unbind (slotOf s slot)))

/-- A SUSPEND or RESUME completes (R10, R21). -/
def doneSuspend (slot : Fin 32) (flag : Bool) (s : State) : State :=
  setSlot s slot { slotOf s slot with suspended := flag }

/-- A HEADER completes; a slot that becomes WRITE_THROUGH has its dirty entries flushed (R22, R90). -/
def doneHeader (slot : Fin 32) (binding : Option Binding) (p : Policy) (m : CounterMode) (s : State) : State :=
  let before := (slotOf s slot).mode
  let s := setSlot s slot { slotOf s slot with binding := binding, policy := p, mode := m }
  if before = .writeBack && m = .writeThrough then flushRequests (markFlush (fun e => e.slot == slot) s) else s

/-- A RESERVE completes: the ceiling rises to its value, the reservation-pending flag clears (R46). -/
def doneReserve (slot : Fin 32) (c : CellId) (gen v : Nat) (s : State) : State :=
  let img := slotOf s slot
  setPending slot gen false
    (setSlot s slot (setCell img c ((cellOf img c).map fun x => { x with ceiling := max x.ceiling v })))

/-- A HIGHWATER or flush item completes: the stored high-water rises to its value, and the entry is clean where its h equals the
value (R51, R87, R183). -/
def doneHigh (slot : Fin 32) (c : CellId) (gen v : Nat) (s : State) : State :=
  let img := slotOf s slot
  updEntry slot gen (fun e => if e.h = v then { e with dirty := false, flushReq := false } else e)
    (setSlot s slot (setCell img c ((cellOf img c).map fun x => { x with highWater := max x.highWater v })))

/-- The next strip position advances (R38). -/
def advanceStrip (s : State) : State :=
  { s with writer := { s.writer with nextStrip := s.writer.nextStrip + 1 } }

/-- An ASSOCIATION completes (R70, R71). -/
def doneAssociation (index : Fin 8) (form : AssocForm) (s : State) : State :=
  let a := assocOf s index
  match form with
  | .empty => setAssoc s index (AssocImg.blank a.floor)
  | .enrol party cls choices =>
    setAssoc s index ⟨.active, some (party, cls), resolveEnrol s index choices, some (a.floor.getD 0)⟩

/-- A BUNDLE_FLOOR completes (R72). -/
def doneBundleFloor (index : Fin 8) (v : Nat) (s : State) : State :=
  setAssoc s index { assocOf s index with floor := some v }

/-- An ARM_RECORD's new record comes into force (R160, R171). -/
def doneArm (r : ArmRecord) (s : State) : State :=
  { s with monitor := { s.monitor with
      arm := r, armSecond := (nextArm s).1, armCount := (nextArm s).2, armLost := false } }

/-- The images change as the rule of the completed job states; an ACTIVATE command is answered here, with what the change was
(R12, R24). -/
def doneEffect (q : QJob) (hour : Nat) (bothCells : Bool) (s : State) : State :=
  match q.job with
  | .stage slot _ b inFloor => doneStage slot b inFloor bothCells s
  | .activate slot gen => doneActivate slot gen hour q.port s
  | .overlapEnd slot gen cause => doneOverlapEnd slot gen cause s
  | .revokeSlot slot unbind => doneRevoke slot unbind s
  | .suspend slot => doneSuspend slot true s
  | .resume slot => doneSuspend slot false s
  | .header slot b p m => doneHeader slot b p m s
  | .reserve slot c gen v => doneReserve slot c gen v s
  | .highWater slot c gen v => doneHigh slot c gen v s
  | .hour => advanceStrip s
  | .association index form => doneAssociation index form s
  | .bundleFloor index _ _ v => doneBundleFloor index v s
  | .armRecord r => doneArm r s
  | .cellRepair .. => s
  | .floorRepair _ => s

/-- A job is an ARM_RECORD. -/
def isArm : StoreJob → Bool
  | .armRecord _ => true
  | _ => false

/-- A queued job completes: the images change, its requester is told, and an ARM_RECORD leads to a comparison (R12, R152, R171;
log entry 25). -/
def completeJob (q : QJob) (hour : Nat) (bothCells : Bool) (s : State) : State :=
  let s := doneEffect q hour bothCells s
  let s := if q.port then portCounterDone s else s
  let s := match q.ctx with
    | none => s
    | some i => ctxJobDone i s
  if isArm q.job then compareLive s else s

/-! ### Tamper items -/

/-- The bar of a slot clears as a tamper item of the slot ends, also one of an earlier list (R95, R165, R169; log entry 26). -/
def clearBar (slot : Fin 32) (s : State) : State :=
  { s with cache := { s.cache with bars := vset s.cache.bars slot none } }

/-- Note in the list in hand how an item ended, unless a newer list has replaced its own (R165, R169). -/
def noteItem (stale : Bool) (f : TamperWork → TamperWork) (s : State) : State :=
  if stale then s else { s with writer := { s.writer with tamper := s.writer.tamper.map f } }

/-- A slot item completes (R164, R165). -/
def completeItem (slot : Fin 32) (act : TamperAct) (stale : Bool) (s : State) : State :=
  let s := clearBar slot (noteItem stale (fun w => { w with completed := w.completed ++ [slot] }) s)
  match act with
  | .suspend => doneSuspend slot true s
  | .erase => doneRevoke slot false s

/-- The closing write completes: the list is done; the loader's list raises the RESUMED notice (R165, R170). -/
def completeClosing (s : State) : State :=
  match s.writer.tamper with
  | none => s
  | some w =>
    if w.items.isEmpty then
      let s := { s with writer := { s.writer with tamper := none } }
      if w.resumed then raise (tamperNotice .resumed w.record w.completed) s else s
    else s

/-- The task in hand completes (R176, R180). -/
def completeTask (r : Running) (s : State) : State :=
  match r.task with
  | .queued q => completeJob q r.hour r.bothCells s
  | .flush it => doneHigh it.slot it.cell it.gen it.value s
  | .opening => s
  | .item slot act => completeItem slot act r.stale s
  | .closing _ => completeClosing s

/-! ### Failures (R181, R184) -/

/-- The LOAD_COMPLETE notice with the figures of this moment (R192). -/
def loadComplete (s : State) : Notice :=
  .loadComplete s.device (quarantinedCount s) (damagedCount s) s.monitor.armLost s.loadTamper

/-- The device becomes FAULTED; out of LOADING it raises LOAD_COMPLETE; a command the Store Writer leaves waiting is answered
(R184, R192, R207). -/
def enterFaulted (s : State) : State :=
  let t := { s with device := .faulted }
  portSettle (if s.device = .loading then raise (loadComplete t) t else t)

/-- A HIGHWATER queued for the hold flush has failed: the HOLD will say so (R205). -/
def noteHoldFlush (q : QJob) (s : State) : State :=
  match s.port.exec with
  | .hold _ => if q.holdFlush then setExec (.hold true) s else s
  | .free | .handed .. | .protect _ | .unprotect _ | .activate _ => s

/-- The entry of a failed ASSOCIATION or BUNDLE_FLOOR is DAMAGED, as R73 and Table 9-3 have it, also where Table 7-4 calls it ACTIVE
(R73, R181; log entry 53). -/
def damageEntry (index : Fin 8) (s : State) : State :=
  setAssoc s index { assocOf s index with state := .damaged .write }

/-- The image's part of a failed job (Table 9-3). -/
def failEffect (j : StoreJob) (s : State) : State :=
  match j with
  | .association index _ => damageEntry index s
  | .bundleFloor index .. => damageEntry index s
  | .hour => advanceStrip s
  | .armRecord _ => s
  | j =>
    match jobSlot j with
    | none => s
    | some slot => quarantineSlot slot s

/-- A queued job's write has failed: the command that waits on it is answered, its context fails with RENEWAL_FINISHED, and then a slot
becomes QUARANTINED with SLOT_QUARANTINED (R153, R181, R199; for the order log entry 52). -/
def failJob (q : QJob) (s : State) : State :=
  let s := if q.port then portJobFailed (noteHoldFlush q s) else noteHoldFlush q s
  let s := match q.ctx with
    | none => s
    | some i => ctxJobFailed i .storeFailed s
  failEffect q.job s

/-- The task in hand has failed its write (R165, R181, R183, R184). -/
def failTask (r : Running) (s : State) : State :=
  match r.task with
  | .queued q => failJob q s
  | .flush it => quarantineSlot it.slot s
  | .opening => enterFaulted s
  | .item slot act =>
    quarantineSlot slot (clearBar slot (noteItem r.stale (fun w => { w with failed := w.failed ++ [(slot, act)] }) s))
  | .closing _ => enterFaulted s

/-! ### Taking a job (R176) -/

/-- The task is a STAGE whose slot is QUARANTINED (R15, Table 9-2). -/
def stagesBoth (s : State) : Task → Bool
  | .queued ⟨.stage slot _ _ _, _, _, _⟩ => (slotOf s slot).quarantined
  | _ => false

/-- The Store Writer holds a task with its writes, or completes one that makes none (R176). -/
def startTask (t : Task) (ws : List ArrayWrite) (s : State) : State :=
  let r : Running := ⟨t, ws, false, s.clock.hour, false, stagesBoth s t⟩
  if ws.isEmpty then completeTask r s else { s with writer := { s.writer with job := some r } }

/-- The first item of the tamper work list is taken (R164, R165). -/
def takeItem (w : TamperWork) (s : State) : State :=
  match w.items with
  | [] => s
  | it :: rest =>
    let s' := { s with writer := { s.writer with tamper := some { w with items := rest } } }
    match it with
    | .opening => startTask .opening [.tamper w.record] s'
    | .slot slot act => startTask (.item slot act) (itemWrites s slot act) s'
    | .closing =>
      if s.device = .faulted then s
      else
        let record := { w.record with pendingSet := w.failed }
        startTask (.closing record) [.tamper record] s'

/-- The value a flush item writes: its entry's h as it stands, or its own (R182). -/
def flushValue (s : State) (it : FlushItem) : Nat :=
  if it.fromEntry then ((findEntry s it.slot it.gen).map (·.h)).getD it.value else it.value

/-- The first item of the flush list is taken (R182, R183). -/
def takeFlush (it : FlushItem) (rest : List FlushItem) (s : State) : State :=
  let v := flushValue s it
  let s := { s with writer := { s.writer with flush := rest } }
  let s := if it.fromEntry then updEntry it.slot it.gen (fun e => { e with dirty := false, flushReq := false }) s else s
  match takeHigh s it.slot it.cell it.gen v with
  | .drop _ => s
  | .write ws => startTask (.flush { it with value := v, fromEntry := false }) ws s

/-- The head of the queue is taken (R176, R12). -/
def takeQueued (q : QJob) (rest : List QJob) (s : State) : State :=
  let s := setQueue rest s
  match verdict s q.job with
  | .drop c => dropJob q c s
  | .write ws => startTask (.queued q) ws s

/-- The device state lets the Store Writer take from its queue (R176). -/
def takesQueue (s : State) : Bool :=
  match s.device with
  | .serving | .holding .command => true
  | .holding .power | .loading | .faulted => false

/-- The tamper work list has an item the device state lets the writer take (R176). -/
def takesTamper (s : State) : Option TamperWork :=
  match s.writer.tamper with
  | none => none
  | some w =>
    match w.items with
    | [] => none
    | .closing :: _ => if s.device = .faulted then none else some w
    | _ :: _ => some w

/-- The idle Store Writer takes its next job (R176). -/
def takeNext (s : State) : State :=
  match takesTamper s with
  | some w => takeItem w s
  | none =>
    match s.writer.flush, s.writer.queue with
    | it :: rest, _ => if servingOrHolding s then takeFlush it rest s else s
    | [], q :: rest => if takesQueue s then takeQueued q rest s else s
    | [], [] => s

/-! ### A write ends (R180) -/

/-- The write in hand is over: the next one follows, or the job completes. -/
def nextWrite (r : Running) (rest : List ArrayWrite) (s : State) : State :=
  if rest.isEmpty then completeTask r { s with writer := { s.writer with job := none } }
  else { s with writer := { s.writer with job := some { r with writes := rest, retried := false } } }

/-- A write ends with its read-back (R180); a second mismatch is a write failure (R165, R171, R181). -/
def writeEnd (r : Running) (w : ArrayWrite) (rest : List ArrayWrite) (b : ReadBack) (s : State) : State :=
  match b with
  | .matched => nextWrite r rest { s with array := putWrite true s.array w }
  | .mismatched left =>
    let s := { s with array := tornWrite left s.array w }
    if r.retried then
      failTask r { s with array := failedWrite s.monitor.armLost s.array w, writer := { s.writer with job := none } }
    else { s with writer := { s.writer with job := some { r with retried := true } } }

end Sys2Proof.Machine
end

