-- ==== Sys2Proof/Machine/Loader.lean ====
section
/-! DEFINITION. The Store Loader: the images built from the array (R3, R6, R39, R60, R160, R185 to R190). -/

namespace Sys2Proof.Machine

/-! ### Association records (R60) -/

/-- The lowest slot whose valid header names an index and role (R60; log entry 27). -/
def headerSlot (a : StoreArray) (index : Fin 8) (r : Role) : Option (Fin 32) :=
  allSlots.find? fun i => ((a.slots[i]).header.bind (·.binding)) == some ⟨index, r⟩

/-- One entry as its record gives it, before conflicts are resolved (R60). A record stored EMPTY whose floor is unknown gives an EMPTY
entry with an unknown floor, as R60 (steps 1 and 4) is read; R175 and Table 9-5 speak of any entry; the model's reading (log
entry 63). -/
def loadAssoc (a : StoreArray) (index : Fin 8) : AssocImg :=
  let stored := a.assocs[index]
  let floor := twoValue stored.floor
  match stored.body with
  | none => ⟨.damaged .load, none, rolesOf (headerSlot a index), floor⟩
  | some b =>
    if b.active then ⟨if floor.isNone then .damaged .load else .active, some (b.party, b.cls), b.bindings, floor⟩
    else .blank floor

/-- A conflict makes an entry DAMAGED with origin LOAD: identifier and class are absent in it (R60, Table 3-1). One that its unknown
floor has made DAMAGED keeps its identifier and class (R60, step 4; log entry 27). -/
def damagedAtLoad (a : AssocImg) : AssocImg :=
  { a with state := .damaged .load, ident := if a.state = .active then none else a.ident }

/-- Some entry of a list is ACTIVE with this identifier. -/
def carriesParty (before : List AssocImg) (party : Id64) : Bool :=
  before.any fun a => a.state == .active && (a.ident.map (·.1)) == some party

/-- The higher-numbered of two ACTIVE entries with one identifier becomes DAMAGED (R60). -/
def resolveParty (before : List AssocImg) (a : AssocImg) : AssocImg :=
  match a.ident with
  | none => a
  | some x => if a.state == .active && carriesParty before x.1 then damagedAtLoad a else a

/-- Among two pairs of one entry that name one slot, the later role loses it; the entry keeps its state (R60; log entry 27). -/
def resolveOwn (a : AssocImg) : AssocImg :=
  let b := a.bindings
  let same (x y : Option (Fin 32)) : Bool := x.isSome && x == y
  let broadcast := if same b.broadcast b.unicast then none else b.broadcast
  let kek := if same b.kek b.unicast || same b.kek broadcast then none else b.kek
  let authority := if same b.authority b.unicast || same b.authority broadcast || same b.authority kek then none
    else b.authority
  { a with bindings := ⟨b.unicast, broadcast, kek, authority⟩ }

/-- A role of an entry names a slot that a lower entry names. -/
def sharesSlot (before : List AssocImg) (a : AssocImg) (r : Role) : Bool :=
  (roleGet a.bindings r).any fun x => before.any fun e => namesSlot e.bindings x

/-- An entry that names a slot a lower entry names becomes DAMAGED (R60). Its pair no longer names that slot, since the image binds a
slot to at most one pair (R63); its other bindings stay. -/
def resolveSlots (before : List AssocImg) (a : AssocImg) : AssocImg :=
  if allRoles.any (sharesSlot before a) then
    { damagedAtLoad a with bindings := rolesOf fun r => if sharesSlot before a r then none else roleGet a.bindings r }
  else a

/-- The conflicts of the entries, taken entry by entry in index order: an entry made DAMAGED by a shared slot is not ACTIVE for the
identifiers of later ones (R60; log entry 27). -/
def resolveAssocs : List AssocImg → List AssocImg → List AssocImg
  | before, [] => before
  | before, a :: rest =>
    resolveAssocs (before ++ [resolveSlots before (resolveOwn (resolveParty before a))]) rest

/-- The Association List the loader builds (R60). -/
def loadAssocs (a : StoreArray) : Vector AssocImg 8 :=
  let l := resolveAssocs [] (allAssocs.map (loadAssoc a))
  Vector.ofFn fun i => (l[i.val]?).getD (.blank none)

/-! ### Slots (R3, R186, R187) -/

/-- How the loader judges a cell (R187): empty, lost for its check or its counters, or a generation. -/
inductive CellJudgement
  | empty
  | lost
  | holds (x : CellImg)
  deriving DecidableEq, Repr

/-- The judgement of one cell (R5, R174, R187). -/
def judgeCell (c : CellRec) : CellJudgement :=
  if c.body = .empty then .empty
  else
    match validBody c.body, twoValue c.ceiling, twoValue c.highWater with
    | some b, some ceiling, some high => .holds ⟨b.params, c.activation, ceiling, high, false, none⟩
    | _, _, _ => .lost

/-- The generation number of a valid cell body (R186). -/
def bodyGen (c : CellRec) : Option Nat := (validBody c.body).map (·.params.generation)

/-- The greatest generation number in a valid cell body of a slot, or 0 (R3, R186). A valid body counts also where its cell's ceiling or
high-water is unknown: R186 speaks of the cell body, and R3 of a valid cell, which R175 and R187 deny there; the model's choice (log
entry 62). -/
def greatestGen (r : SlotRec) : Nat := max ((bodyGen r.cellA).getD 0) ((bodyGen r.cellB).getD 0)

/-- The binding that an ACTIVE or DAMAGED entry records for a slot (R3); one pair at most names it (R63). -/
def recordedBinding (assocs : Vector AssocImg 8) (slot : Fin 32) : Option Binding :=
  allAssocs.findSome? fun i => (allRoles.find? fun r => roleGet (assocs[i]).bindings r == some slot).map fun r => ⟨i, r⟩

/-- What a judged cell gives the image, and its repair mark. -/
def judgedCell : CellJudgement → Option CellImg × Bool
  | .empty => (none, false)
  | .lost => (none, true)
  | .holds x => (some x, false)

/-- The cells of a slot with their repair marks, and whether the pair quarantines the slot. -/
structure JudgedPair where
  a : Option CellImg
  b : Option CellImg
  repairA : Bool
  repairB : Bool
  quarantined : Bool
  deriving DecidableEq, Repr

/-- The pair of cells settled under R6: equal stamps or two unstamped cells with one generation number quarantine the slot, and of
two unstamped cells the one with the lower number is lost. -/
def settlePair (p : JudgedPair) : JudgedPair :=
  match p.a, p.b with
  | some x, some y =>
    let g := x.params.generation
    let k := y.params.generation
    if x.activation.isNone && y.activation.isNone then
      if g = k then { p with quarantined := true }
      else if k < g then { p with b := none, repairB := true }
      else { p with a := none, repairA := true }
    else if (x.activation.map (·.stamp)) == (y.activation.map (·.stamp)) && decide (g = k) then
      { p with quarantined := true }
    else p
  | _, _ => p

/-- An unbound slot loses the generations it holds (R187). -/
def emptyUnbound (p : JudgedPair) : JudgedPair :=
  { p with a := none, b := none, repairA := p.repairA || p.a.isSome, repairB := p.repairB || p.b.isSome }

/-- The cells of a slot as the loader takes them (R6, R187). -/
def loadPair (r : SlotRec) (unbound : Bool) : JudgedPair :=
  let a := judgedCell (judgeCell r.cellA)
  let b := judgedCell (judgeCell r.cellB)
  let p := settlePair ⟨a.1, b.1, a.2, b.2, false⟩
  if unbound then emptyUnbound p else p

/-- The header the loader places when the stored one is valid, or its rebuilt form (R3, R186). -/
def loadHeader (assocs : Vector AssocImg 8) (r : SlotRec) (slot : Fin 32) : HeaderBody :=
  r.header.getD ⟨recordedBinding assocs slot, .erase, .writeThrough, false⟩

/-- Both cells of a slot are lost (R187). -/
def bothLost (r : SlotRec) : Bool :=
  judgeCell r.cellA == .lost && judgeCell r.cellB == .lost

/-- The image of one slot (R3, R186, R187). Marks are not set for a QUARANTINED slot (R188). -/
def loadSlot (a : StoreArray) (assocs : Vector AssocImg 8) (slot : Fin 32) : SlotImg :=
  let r := a.slots[slot]
  let h := loadHeader assocs r slot
  let floor := twoValue r.floor
  let great := greatestGen r
  let imgFloor := max (floor.getD 0) great
  let p := loadPair r (r.header.isSome && h.binding.isNone)
  let q := r.header.isNone || floor.isNone || p.quarantined || (bothLost r && decide (0 < imgFloor))
  { binding := h.binding, policy := h.policy, mode := h.mode, suspended := h.suspended
    floor := imgFloor, cellA := p.a, cellB := p.b, quarantined := q, graceProgress := 0
    actDue := none, ovlDue := none, repairA := !q && p.repairA, repairB := !q && p.repairB
    repairFloor := !q && decide (floor.getD 0 < great) }

/-! ### Hour, arm record, tamper work -/

/-- The activation hours of the valid cells of a slot that hold a generation; a part still stored beside the EMPTY marker is not
taken (R39; log entry 44). -/
def slotHours (r : SlotRec) : List Nat :=
  [r.cellA, r.cellB].filterMap fun c =>
    match judgeCell c with
    | .holds x => x.activation.map (·.hour)
    | .empty => none
    | .lost => none

/-- The positions of the hour strip in order. -/
def stripPositions : List (Fin 16) := List.finRange 16

/-- The valid values of the strip. -/
def stripValues (a : StoreArray) : List Nat := stripPositions.filterMap fun i => a.strip[i]

/-- The restored service hour (R39). -/
def loadHour (a : StoreArray) : Nat :=
  (stripValues a ++ allSlots.flatMap fun i => slotHours a.slots[i]).foldl max 0

/-- The next strip position: after the one with the greatest valid value, 0 where none is valid (R39; log entry 27). -/
def loadStrip (a : StoreArray) : Fin 16 :=
  let top := (stripValues a).foldl max 0
  match stripPositions.find? fun i => a.strip[i] == some top with
  | none => 0
  | some i => i + 1

/-- The arm count after another, modulo 2^32 (R160). -/
def armNext (n : Nat) : Nat := (n + 1) % 4294967296

/-- The second copy of the arm record is the one in force (R160). -/
def secondInForce (x y : ArmCopy) : Bool :=
  if y.count = armNext x.count then true
  else if x.count = armNext y.count then false
  else decide (x.count ≤ y.count)

/-- The monitor after reset, with the arm record the loader takes and debouncing begun (R159, R160, R170). -/
def loadMonitor (a : StoreArray) : Monitor :=
  let m := { Monitor.reset with holds := Inputs.all true }
  match a.armFirst, a.armSecond with
  | none, none => { m with armLost := true }
  | some x, none => { m with arm := x.record, armSecond := false, armCount := x.count }
  | none, some y => { m with arm := y.record, armSecond := true, armCount := y.count }
  | some x, some y =>
    if secondInForce x y then { m with arm := y.record, armSecond := true, armCount := y.count }
    else { m with arm := x.record, armSecond := false, armCount := x.count }

/-- The tamper work list of these items, which has no opening write (R190). -/
def loaderWork (record : TamperRecord) (items : List (Fin 32 × TamperAct)) : TamperWork :=
  { items := items.map (fun x => .slot x.1 x.2) ++ [.closing], record := record, failed := [], completed := [],
    resumed := true }

/-- The record that stands for an invalid one; its counts are of the items handed over (R170; log entry 49). -/
def rebuiltRecord (items : List (Fin 32 × TamperAct)) : TamperRecord :=
  { origin := .noEvent, levels := Inputs.all (some .low), pattern := Inputs.all false
    eraseCount := countAct .erase items, suspendCount := countAct .suspend items, pendingSet := items }

/-- A pending set in slot-number order (R190). -/
def inSlotOrder (items : List (Fin 32 × TamperAct)) : List (Fin 32 × TamperAct) :=
  allSlots.flatMap fun i => items.filter fun x => x.1 == i

/-- The pending tamper work the loader hands over, against the images it has built (R170, R190). -/
def pendingWork (s : State) : Option TamperWork :=
  match s.array.tamper with
  | none => some (loaderWork (rebuiltRecord (slotItems s)) (slotItems s))
  | some r => if r.pendingSet.isEmpty then none else some (loaderWork r (inSlotOrder r.pendingSet))

/-! ### The whole -/

/-- Every volatile state cleared and the device LOADING, the supply, the lines and the array as they are (R193). -/
def clearVolatile (s : State) : State :=
  { State.reset with
    pending := s.pending
    pins := s.pins
    array := s.array
    slots := Vector.replicate 32 .blank
    assocs := Vector.replicate 8 (.blank none)
    monitor := Monitor.reset }

/-- The identity record is invalid: the device is FAULTED, the counts are 0 and nothing else is reported; no arm record has been taken,
and none is reported lost (R185, R192, R198; log entry 12). The service hour, which the loader has not restored (R33), stays at 0, the
model's choice (log entry 35). -/
def loadFaulted (s : State) : State :=
  raise (.loadComplete .faulted 0 0 false false)
    { s with device := .faulted, monitor := { s.monitor with holds := Inputs.all true } }

/-- The images and the hand-off of pending tamper work, which LOAD_COMPLETE will report wherever a list was handed over (R185, steps 1
to 5; R192; log entry 55). -/
def loadImages (s : State) : State :=
  let assocs := loadAssocs s.array
  let s := { s with
    assocs := assocs
    slots := Vector.ofFn (loadSlot s.array assocs)
    clock := ⟨0, loadHour s.array⟩
    monitor := loadMonitor s.array }
  let work := pendingWork s
  { s with
    loadTamper := work.isSome
    writer := { s.writer with nextStrip := loadStrip s.array, tamper := work } }

/-- The loader runs from the end of a reset (R185). -/
def runLoader (s : State) : State :=
  let s := clearVolatile s
  if s.array.identity.isNone then loadFaulted s else loadImages s

/-- The due marks of the loader for one slot (R189). -/
def loadMarks (s : State) (slot : Fin 32) : State :=
  let img := slotOf s slot
  if img.quarantined then s
  else
    let act := match genWith img .staged with
      | none => none
      | some (_, x) =>
        match x.params.rule with
        | .immediate => some x.params.generation
        | .atHour hour => if hour ≤ s.clock.hour then some x.params.generation else none
        | .onCommand => none
    let due := match genWith img .current with
      | none => false
      | some (_, x) => noGrace x.params || (decide (0 < x.params.graceHours) && decide (x.params.graceHours ≤ ageOf s x))
    let ovl := if due then (genNumber img .overlap).map fun g => (g, OvlCause.time) else none
    setSlot s slot { img with actDue := act, ovlDue := ovl }

end Sys2Proof.Machine
end

