-- ==== Sys2Proof/Machine/Power.lean ====
section
/-! DEFINITION. Supply, reset, the end of loading and the power-fail warning: POWER_ON_RESET, NRST_RESET, NRST_RELEASE,
POWER_LOSS, LEAVE_LOADING, PFAIL_ASSERT, PFAIL_DEASSERTED, PFAIL_WITHDRAW (R131, R182, R191 to R193, R202 to R204). -/

namespace Sys2Proof.Machine

/-! ### Resets -/

/-- POWER_ON_RESET: the supply is up and the part starts; while NRST is low the loader waits for its release (R185, R193;
log entry 17). -/
def execPowerOnReset (s : State) : Host.Outcome State Fault Refusal :=
  let s := { s with pins := { s.pins with supply := true } }
  .next (if s.pins.nrst then clearVolatile s else runLoader s)

/-- NRST_RESET: a write in progress is torn, all volatile state is cleared, the device is LOADING; the loader runs from the end
of the reset (R180, R185, R193; log entry 17). -/
def execNrstReset (torn : Torn) (s : State) : Host.Outcome State Fault Refusal :=
  .next (clearVolatile { s with array := tornArray torn s, pins := { s.pins with nrst := true } })

/-- NRST_RELEASE: the reset ends and the loader runs, when the supply is up (R185). -/
def execNrstRelease (s : State) : Host.Outcome State Fault Refusal :=
  if s.pins.nrst then
    let s := { s with pins := { s.pins with nrst := false } }
    .next (if s.pins.supply then runLoader s else s)
  else .next s

/-- POWER_LOSS: a write in progress is torn and everything volatile is gone (R175, R180). -/
def execPowerLoss (torn : Torn) (s : State) : Host.Outcome State Fault Refusal :=
  .next (clearVolatile { s with array := tornArray torn s, pins := { s.pins with supply := false } })

/-! ### The end of loading (R189, R191, R192) -/

/-- The loader's work has ended: no tamper work is left (R191). -/
def loaderDone (s : State) : Bool := running s && s.device == .loading && s.writer.job.isNone && s.writer.tamper.isNone

/-- The device state on leaving LOADING: a power-fail hold where PFAIL is asserted (R191). -/
def leaveState (s : State) : DevState := if s.pins.pfail then .holding .power else .serving

/-- The device leaves LOADING: due marks and wear, the state, LOAD_COMPLETE, and the marked jobs once SERVING (R188, R189, R191,
R192; log entry 18). -/
def leaveLoading (s : State) : State :=
  let s := allSlots.foldl loadWear (allSlots.foldl loadMarks s)
  let s := { s with device := leaveState s, warning := ⟨s.pins.pfail, false⟩ }
  let s := raise (loadComplete s) s
  if s.device = .serving then giveAll 32 s else s

/-- LEAVE_LOADING (R191). -/
def execLeaveLoading (s : State) : Host.Outcome State Fault Refusal :=
  .next (if loaderDone s then leaveLoading s else s)

/-! ### The power-fail warning (R202, R203, R182, R131) -/

/-- The flush item of a queued HIGHWATER (R182). -/
def itemOfJob (q : QJob) : Option FlushItem :=
  match q.job with
  | .highWater slot c gen v => some ⟨slot, c, gen, v, false⟩
  | _ => none

/-- Add a dirty entry to the flush list: its item's value is raised where the list has one, else it takes a place while fewer than
4 are held (R182). The flag says whether the entry is clean by it. -/
def addEntry (e : Entry) (items : List FlushItem) : List FlushItem × Bool :=
  if items.any fun it => it.slot == e.slot && it.cell == e.cell then
    (items.map fun it => if it.slot == e.slot && it.cell == e.cell then { it with value := max it.value e.h } else it, true)
  else if items.length < 4 then (items ++ [⟨e.slot, e.cell, e.gen, e.h, true⟩], false)
  else (items, false)

/-- Add the dirty entries without a cause from the most recent end (R182; log entry 29). -/
def addEntries : List Entry → List FlushItem → List FlushItem × List Entry
  | [], items => (items, [])
  | e :: rest, items =>
    if e.dirty && e.withhold.isNone then
      let (items', clean) := addEntry e items
      let (out, es) := addEntries rest items'
      (out, (if clean then { e with dirty := false, flushReq := false } else e) :: es)
    else
      let (out, es) := addEntries rest items
      (out, e :: es)

/-- The first 4 HIGHWATER jobs of a queue, and the jobs left (R182). -/
def selectHighs : Nat → List QJob → List FlushItem × List QJob
  | 0, q => ([], q)
  | _ + 1, [] => ([], [])
  | k + 1, j :: rest =>
    match itemOfJob j with
    | some it => let (items, left) := selectHighs k rest; (it :: items, left)
    | none => let (items, left) := selectHighs (k + 1) rest; (items, j :: left)

/-- Fix the budget: the flush list is built, unless one still has items (R182, R183). -/
def fixBudget (s : State) : State :=
  if s.writer.flush.isEmpty then
    let (items, left) := selectHighs 4 s.writer.queue
    let (flush, es) := addEntries s.cache.entries items
    { s with
      writer := { s.writer with flush := flush, queue := left }
      cache := { s.cache with entries := es } }
  else s

/-- What becomes of one dropped job (Table 9-4). A due mark is set again while its generation still has the role that the mark is for
(R25, R26). A job of a context fails it by R131; an answer to a command is given apart. Only the jobs of the queue are dropped;
the flag of a RESERVE in progress that a PROTECT waits on is cleared with the PROTECT's answer (`portAtWarning`, log entry 47). -/
def dropAtWarning (s : State) (q : QJob) : State :=
  match q.job with
  | .reserve slot _ gen _ => setPending slot gen false s
  | .highWater slot c gen _ =>
    let high := ((cellOf (slotOf s slot) c).map (·.highWater)).getD 0
    updEntry slot gen (fun e => if high < e.h then { e with dirty := true } else e) s
  | .activate slot gen =>
    if q.port || q.ctx.isSome || genNumber (slotOf s slot) .staged != some gen then s
    else updSlot slot (fun img => { img with actDue := some gen }) s
  | .overlapEnd slot gen cause =>
    if genNumber (slotOf s slot) .overlap != some gen then s
    else updSlot slot (fun img => { img with ovlDue := some (gen, cause) }) s
  | .cellRepair slot .a => setSlot s slot { slotOf s slot with repairA := true }
  | .cellRepair slot .b => setSlot s slot { slotOf s slot with repairB := true }
  | .floorRepair slot => setSlot s slot { slotOf s slot with repairFloor := true }
  | .hour => { s with writer := { s.writer with stripPending := true } }
  | .stage .. | .revokeSlot .. | .suspend _ | .resume _ | .header .. | .association .. | .bundleFloor .. | .armRecord _ => s

/-- The queue is dropped (R182, Table 9-4). -/
def dropQueue (s : State) : State := s.writer.queue.foldl dropAtWarning (setQueue [] s)

/-- A STORING context has a job that is not the one in progress still to end (R131). -/
def hasWorkLeft (s : State) (i : Fin 2) : Bool :=
  let unfinished := (ctxOf s i).jobs.length
  match s.writer.job with
  | some { task := .queued q, .. } => if q.ctx = some i then decide (1 < unfinished) else decide (0 < unfinished)
  | _ => decide (0 < unfinished)

/-- What the warning does to one context (R131). -/
def powerFailCtx (s : State) (i : Fin 2) : State :=
  match (ctxOf s i).state with
  | .gathering => ctxFail i .powerFail s
  | .closed => ctxFail i .powerFail (leaveQueue i s)
  | .verifying => if dropping s then dropVerif s else failVerif .powerFail s
  | .storing => if hasWorkLeft s i then failStoring i .powerFail s else s
  | .idle | .done | .failed => s

/-- The job in hand is the ACTIVATE that a command waits on: it is kept (R158, R182). -/
def activateInHand (s : State) : Bool :=
  match s.writer.job with
  | some { task := .queued q, .. } => q.port
  | _ => false

/-- A write-through UNPROTECT answered at the warning keeps h = c in an entry that becomes dirty (R86, R87, R111). -/
def dirtyWaiter (op : UnprotectOp) (s : State) : State :=
  updEntry op.slot op.trial.gen (fun e => { e with dirty := true }) s

/-- The command in flight at the warning: answered POWER_FAILING where it waits on the store or for room, also where its entry carries
a cause since earlier, else it goes on (R106, R112, R157, R158, R202; log entry 19). The answer to a PROTECT that waits on a RESERVE,
queued or in progress, or for room to place one clears its entry's reservation-pending flag (R106; log entry 47). -/
def portAtWarning (s : State) : State :=
  let forRoom := s.cache.waits.any (·.port)
  match s.port.exec with
  | .protect op =>
    if op.stage = .reserve || op.stage = .room then finish .powerFailing [] (setPending op.slot op.gen false s)
    else if op.stage = .fill && forRoom then finish .powerFailing [] s
    else s
  | .unprotect op =>
    if op.stage = .high || op.stage = .room then finish .powerFailing [] (dirtyWaiter op s)
    else if op.stage = .fill && forRoom then finish .powerFailing [] s
    else s
  | .activate op =>
    if op.stage = .room || (op.stage = .fill && forRoom) then finish .powerFailing [] s
    else if op.stage = .store && !activateInHand s then finish .powerFailing [] s
    else s
  | .hold _ => finish .powerFailing [] s
  | .free | .handed .. => s

/-- The warning is taken while SERVING, or HOLDING with cause COMMAND (R131, R182, R202, R203; context 0 fails before context 1, and
what else the spec does not order is as log entry 29 has it). -/
def warningTaken (s : State) : State :=
  let s := fixBudget { s with device := .holding .power }
  portAtWarning (dropQueue (powerFailCtx (powerFailCtx s 0) 1))

/-- PFAIL_ASSERT: the line is asserted; the warning is taken as the device state has it, and a withdrawal that runs is cancelled
(R202). In LOADING it is not taken (R185), and one taken in FAULTED has no effect, so whether it had been taken before stands
(R203). -/
def execPfailAssert (s : State) : Host.Outcome State Fault Refusal :=
  let s := { s with pins := { s.pins with pfail := true } }
  if !running s then .next s
  else
    match s.device with
    | .serving | .holding .command =>
      let t := { s with warning := ⟨true, false⟩ }
      .next (if s.warning.taken then t else warningTaken t)
    | .holding .power => .next { s with warning := ⟨true, false⟩ }
    | .faulted => .next { s with warning := { s.warning with withdrawing := false } }
    | .loading => .next s

/-- PFAIL_DEASSERTED: the line is withdrawn and the 50 ms of a withdrawal begin (R202). -/
def execPfailDeasserted (s : State) : Host.Outcome State Fault Refusal :=
  .next { s with
    pins := { s.pins with pfail := false }
    warning := { s.warning with withdrawing := s.warning.taken } }

/-- PFAIL_WITHDRAW: PFAIL has been deasserted for 50 ms and the warning is withdrawn; a power-fail hold ends (R202, R204;
log entry 5). In LOADING and in FAULTED a withdrawal has no effect (R203). -/
def execPfailWithdraw (s : State) : Host.Outcome State Fault Refusal :=
  if running s && servingOrHolding s && s.warning.taken && s.warning.withdrawing then
    let s := { s with warning := ⟨false, false⟩ }
    .next (if s.device = .holding .power then resumeServing s else s)
  else .next s

end Sys2Proof.Machine
end

