-- ==== Sys2Proof/Machine/Time.lean ====
section
/-! DEFINITION. Time and the tamper inputs: STICK_EDGE, HOUR_BOUNDARY, INTAKE_TIMER_EXPIRY, TAMPER_INPUT_LEVEL_CHANGE,
DEBOUNCE_HOLD_EXPIRY, FIRST_COMPARISON, and the internal timebase between commands (R33 to R35, R121, R122, R159, R170). -/

namespace Sys2Proof.Machine

/-! ### The service clock -/

/-- The hour-boundary event: H rises by 1, the wear is recomputed, the cache's flush requests, the Key Table's jobs and the HOUR
job follow in this order (R34). -/
def hourBoundary (s : State) : State :=
  let s := { s with clock := ⟨0, s.clock.hour + 1⟩ }
  let s := allSlots.foldl hourWear s
  let s := flushRequests (markFlush (fun _ => true) s)
  requestHour (allSlots.foldl examineSlot s)

/-- The counted edge that brings the seconds count to 3600: it returns to 0 and, below the greatest hour, the event is taken
(R33, R35). -/
def hourEdge (s : State) : State :=
  if s.clock.hour < maxU32 then hourBoundary s else { s with clock := { s.clock with seconds := 0 } }

/-- The Service Clock counts edges: in SERVING and HOLDING (R33). -/
def counting (s : State) : Bool := running s && servingOrHolding s

/-- STICK_EDGE (R33). -/
def execStickEdge (s : State) : Host.Outcome State Fault Refusal :=
  if counting s then
    if s.clock.seconds < 3599 then .next { s with clock := { s.clock with seconds := s.clock.seconds + 1 } }
    else .next (hourEdge s)
  else .next s

/-- HOUR_BOUNDARY (R34): the edge counted at 3599 seconds with H below its greatest value; without effect at any other moment
(R35; log entry 16). -/
def execHourBoundary (s : State) : Host.Outcome State Fault Refusal :=
  if counting s && s.clock.seconds == 3599 && decide (s.clock.hour < maxU32) then .next (hourBoundary s) else .next s

/-! ### The inactivity timers -/

/-- A GATHERING context whose inactivity timer has run out (R121, R122). -/
def timedOut (x : Ctx) : Bool := x.state == .gathering && x.timer == some 0

/-- INTAKE_TIMER_EXPIRY of a GATHERING context whose timer has run out; a command taken first that reloads or stops the timer leaves
no expiry (R122; log entry 4). -/
def execIntakeTimerExpiry (i : Fin 2) (s : State) : Host.Outcome State Fault Refusal :=
  if running s && timedOut (ctxOf s i) then .next (ctxFail i .timedOut s) else .next s

/-- One second of a running timer. -/
def tickCtx (x : Ctx) : Ctx := { x with timer := x.timer.map (· - 1) }

/-- A second of the internal timebase in which no command arrives: the running inactivity timers count (R121; log entry 4). -/
def tick (s : State) : State :=
  if running s then setCtx (setCtx s 0 (tickCtx (ctxOf s 0))) 1 (tickCtx (ctxOf s 1)) else s

/-! ### The tamper inputs -/

/-- The levels with one of them changed. -/
def setInput {α : Type} (x : Inputs α) (i : TamperInput) (v : α) : Inputs α :=
  match i with
  | .mainCover => { x with mainCover := v }
  | .terminalCover => { x with terminalCover := v }
  | .magnetField => { x with magnetField := v }
  | .caseCover => { x with caseCover := v }

/-- TAMPER_INPUT_LEVEL_CHANGE: a level that differs from the debounced one starts a hold, a return to it abandons the hold; an
unsettled input starts its hold anew (R159). -/
def execTamperInputLevelChange (i : TamperInput) (l : Level) (s : State) : Host.Outcome State Fault Refusal :=
  let hold := inputGet s.monitor.debounced i != some l
  let s := { s with pins := { s.pins with tamper := setInput s.pins.tamper i l } }
  if running s then .next { s with monitor := { s.monitor with holds := setInput s.monitor.holds i hold } }
  else .next s

/-- The holds that run among a set of inputs. -/
def endingHolds (s : State) (set : InputSet) : InputSet :=
  inputsOf fun i => inputGet set i && inputGet s.monitor.holds i

/-- The holds of these inputs end: their debounced levels become the sampled ones (R159). -/
def settleInputs (ending : InputSet) (s : State) : State :=
  { s with monitor := { s.monitor with
      debounced := inputsOf fun i =>
        if inputGet ending i then some (inputGet s.pins.tamper i) else inputGet s.monitor.debounced i
      holds := inputsOf fun i => inputGet s.monitor.holds i && !inputGet ending i } }

/-- DEBOUNCE_HOLD_EXPIRY: the levels held for 20 ms become the debounced ones and the monitor compares again (R159, R161;
log entry 5). -/
def execDebounceHoldExpiry (set : InputSet) (s : State) : Host.Outcome State Fault Refusal :=
  if running s && (endingHolds s set).nonEmpty then .next (compareLive (settleInputs (endingHolds s set) s)) else .next s

/-- The first comparison after loading can be made (R170). -/
def canCompareFirst (s : State) : Bool :=
  running s && servingOrHolding s && !s.monitor.compared && selectedSettled s.monitor.arm s.monitor.debounced

/-- FIRST_COMPARISON (R170). -/
def execFirstComparison (s : State) : Host.Outcome State Fault Refusal :=
  if canCompareFirst s then .next (compareNow .load { s with monitor := { s.monitor with compared := true } }) else .next s

end Sys2Proof.Machine
end

