-- ==== Sys2Proof/Machine/PortOps.lean ====
section
/-! DEFINITION. Transfers on the Command Port: DIRECTION_BYTE_RECEIVED, WRITE_TRANSFER, READ_TRANSFER, INVALID_DIRECTION_TRANSFER
(10.1, 10.2, R193 to R197). -/

namespace Sys2Proof.Machine

/-- The Port Executor is executing (R194). -/
def executing (s : State) : Bool := s.port.exec != .free

/-- A write transfer begins: while executing it will be discarded and the overrun marker is set; otherwise the retained response is
discarded, the marker cleared, and the receive buffer starts anew (R194, R195). -/
def beginWrite (s : State) : State :=
  if executing s then
    { s with port := { s.port with overrun := true, transfer := some ⟨.write, true⟩ } }
  else
    { s with port := { s.port with
        overrun := false, retained := none, rx := [], rxCount := 0, transfer := some ⟨.write, false⟩ } }

/-- A transfer has its direction byte and is fixed as the executor stands (R193, R194, R195). -/
def beginTransfer (d : Byte) (s : State) : State :=
  if d = 1#8 then beginWrite s
  else if d = 2#8 then { s with port := { s.port with transfer := some ⟨.read, executing s⟩ } }
  else { s with port := { s.port with transfer := some ⟨.invalid, executing s⟩ } }

/-- DIRECTION_BYTE_RECEIVED (R195): the first byte of a transfer. -/
def execDirectionByteReceived (d : Byte) (s : State) : Host.Outcome State Fault Refusal :=
  if running s && s.port.transfer.isNone then .next (beginTransfer d s) else .next s

/-- The transfer in progress, or one begun now where none is (log entry 3). -/
def withTransfer (d : Byte) (s : State) : State := if s.port.transfer.isNone then beginTransfer d s else s

/-- The transfer in progress has ended. -/
def endTransfer (s : State) : State := { s with port := { s.port with transfer := none } }

/-- The body of a frame in the receive buffer. -/
def frameBody (bytes : List Byte) : List Byte := bytes.drop 3

/-- The frame checks, in order (R194). -/
def frameCheck (count : Nat) (bytes : List Byte) : Except Code Cmd :=
  if count < 3 || count != 3 + fieldNat bytes 1 2 then .error .badLength
  else
    match cmdOfCode (u8 (fieldNat bytes 0 1)) with
    | none => .error .unknownCommand
    | some c =>
      let n := fieldNat bytes 1 2
      if n < (bodyRange c).1 || (bodyRange c).2 < n then .error .badLength else .ok c

/-- Commands that every device state runs (R197). -/
def alwaysRun : Cmd → Bool
  | .identify | .readNotices => true
  | .hold | .protect | .unprotect | .activate | .slotQuery | .directoryFirst | .directoryNext | .associationQuery
  | .renewOpen | .renewPart | .renewClose | .renewResult | .renewDrop => false

/-- The answer a device state gives every other command at once (R197). -/
def stateRefusal : DevState → Option Code
  | .loading => some .notLoaded
  | .holding .power => some .powerFailing
  | .faulted => some .faulted
  | .serving | .holding .command => none

/-- A request is handed to the Port Executor (R194). -/
def handOver (c : Cmd) (body : List Byte) (s : State) : State := setExec (.handed c body) s

/-- A request that passed the frame checks is judged against the device state; one that is not IDENTIFY or READ NOTICES ends a
command hold (R197, R206). -/
def judgeRequest (c : Cmd) (body : List Byte) (s : State) : State :=
  if alwaysRun c then handOver c body s
  else
    match stateRefusal s.device with
    | some code => respond code [] s
    | none => handOver c body (if s.device = .serving then s else resumeServing s)

/-- The frame of a write transfer is stored and judged (R193, R194). -/
def judgeFrame (bytes : List Byte) (s : State) : State :=
  let s := { s with port := { s.port with rx := bytes.take 303, rxCount := bytes.length } }
  match frameCheck s.port.rxCount s.port.rx with
  | .error c => respond c [] s
  | .ok c => judgeRequest c (frameBody s.port.rx) s

/-- A write transfer ends: judged, or discarded where the executor was executing at its direction byte (R194, R195). -/
def endWrite (bytes : List Byte) (s : State) : State :=
  match s.port.transfer with
  | some ⟨.write, false⟩ => judgeFrame bytes (endTransfer s)
  | some ⟨.write, true⟩ => endTransfer s
  | some ⟨.read, _⟩ => s
  | some ⟨.invalid, _⟩ => s
  | none => s

/-- WRITE_TRANSFER (R194). -/
def execWriteTransfer (bytes : List Byte) (s : State) : Host.Outcome State Fault Refusal :=
  if running s then .next (endWrite bytes (withTransfer 1#8 s)) else .next s

/-- The frame a read transfer is answered with (R195, R196). -/
def answerFrame (s : State) (busy : Bool) : Response :=
  if busy then ⟨.notReady, s.port.overrun, []⟩ else s.port.retained.getD ⟨.noResponse, false, []⟩

/-- The first `count` bytes on PDO; after the end of the frame zeros (R196). -/
def clocked (count : Nat) (frame : List Byte) : List Byte := (frame ++ List.replicate count 0#8).take count

/-- A read transfer ends after `count` bytes (R195, R196). -/
def endRead (count : Nat) (s : State) : State :=
  match s.port.transfer with
  | some ⟨.read, busy⟩ =>
    let s := endTransfer s
    { s with port := { s.port with pdo := clocked count (frameBytes (answerFrame s busy)) } }
  | some ⟨.write, _⟩ => s
  | some ⟨.invalid, _⟩ => s
  | none => s

/-- READ_TRANSFER (R196). -/
def execReadTransfer (count : Nat) (s : State) : Host.Outcome State Fault Refusal :=
  if running s then .next (endRead count (withTransfer 2#8 s)) else .next s

/-- A transfer with an invalid direction byte ends: PDO was driven low, nothing else changed (R193). -/
def endInvalid (count : Nat) (s : State) : State :=
  match s.port.transfer with
  | some ⟨.invalid, _⟩ =>
    let s := endTransfer s
    { s with port := { s.port with pdo := List.replicate count 0#8 } }
  | some ⟨.write, _⟩ => s
  | some ⟨.read, _⟩ => s
  | none => s

/-- INVALID_DIRECTION_TRANSFER (R193). A direction byte that is valid names no such transfer. -/
def execInvalidDirectionTransfer (d : Byte) (count : Nat) (s : State) : Host.Outcome State Fault Refusal :=
  if running s && d != 1#8 && d != 2#8 then .next (endInvalid count (withTransfer d s)) else .next s

end Sys2Proof.Machine
end

