-- ==== Sys2Proof/Machine/Query.lean ====
section
/-! DEFINITION. The commands that read the part: IDENTIFY, READ_NOTICES, SLOT_QUERY, DIRECTORY_FIRST, DIRECTORY_NEXT,
ASSOCIATION_QUERY (R29 to R32, R75, R198, R200). -/

namespace Sys2Proof.Machine

/-- The body of a request of this command that the Port Executor holds (log entry 2). -/
def handed (c : Cmd) (s : State) : Option (List Byte) :=
  match s.port.exec with
  | .handed d body => if running s && d == c then some body else none
  | .free | .protect _ | .unprotect _ | .activate _ | .hold _ => none

/-- Run a command on the body handed over; without such a request nothing happens (log entry 1). -/
def onHanded (c : Cmd) (run : List Byte → State → State) (s : State) : Host.Outcome State Fault Refusal :=
  match handed c s with
  | none => .next s
  | some body => .next (run body s)

/-- IDENTIFY (R198). -/
def execIdentify (s : State) : Host.Outcome State Fault Refusal :=
  onHanded .identify (fun _ s => respond .ok (identifyBody s) s) s

/-- Up to 16 of the oldest notices are removed and returned (R200). -/
def readNotices (s : State) : State :=
  respond .ok (noticesBody (s.notices.take 16)) { s with notices := s.notices.drop 16 }

/-- READ_NOTICES (R200). -/
def execReadNotices (s : State) : Host.Outcome State Fault Refusal := onHanded .readNotices (fun _ s => readNotices s) s

/-- SLOT QUERY of a slot number (R29). -/
def slotQuery (body : List Byte) (s : State) : State :=
  let n := fieldNat body 0 1
  if h : n < 32 then respond .ok (slotDescriptor s ⟨n, h⟩) s else respond .badValue [] s

/-- SLOT_QUERY (R29). -/
def execSlotQuery (s : State) : Host.Outcome State Fault Refusal := onHanded .slotQuery slotQuery s

/-- The lowest slot that is not VACANT among those above the cursor (R31, R32). -/
def nextListed (s : State) (cursor : Option (Fin 32)) : Option (Fin 32) :=
  allSlots.find? fun i => cursor.all (· < i) && phaseOf (slotOf s i) != .vacant

/-- The state with another directory cursor. -/
def setCursor (c : Option (Fin 32)) (s : State) : State := { s with port := { s.port with cursor := c } }

/-- DIRECTORY FIRST runs (R31). -/
def directoryFirst (s : State) : State :=
  match nextListed s none with
  | some i => respond .ok (slotDescriptor s i) (setCursor (some i) s)
  | none => respond .endOfDirectory [] (setCursor none s)

/-- DIRECTORY_FIRST (R31). -/
def execDirectoryFirst (s : State) : Host.Outcome State Fault Refusal :=
  onHanded .directoryFirst (fun _ s => directoryFirst s) s

/-- DIRECTORY NEXT runs (R32). -/
def directoryNext (s : State) : State :=
  match nextListed s s.port.cursor with
  | some i => respond .ok (slotDescriptor s i) (setCursor (some i) s)
  | none => respond .endOfDirectory [] s

/-- DIRECTORY_NEXT (R32). -/
def execDirectoryNext (s : State) : Host.Outcome State Fault Refusal :=
  onHanded .directoryNext (fun _ s => directoryNext s) s

/-- ASSOCIATION QUERY of an index (R75). -/
def associationQuery (body : List Byte) (s : State) : State :=
  let n := fieldNat body 0 1
  if h : n < 8 then respond .ok (assocDescriptor s ⟨n, h⟩) s else respond .badValue [] s

/-- ASSOCIATION_QUERY (R75). -/
def execAssociationQuery (s : State) : Host.Outcome State Fault Refusal := onHanded .associationQuery associationQuery s

end Sys2Proof.Machine
end

