-- ==== Sys2Proof/Machine/Intake.lean ====
section
/-! DEFINITION. The commands on an intake context: RENEW_OPEN, RENEW_PART, RENEW_CLOSE, RENEW_RESULT, RENEW_DROP (R115 to R120,
R123, R127 to R129). -/

namespace Sys2Proof.Machine

/-- Run a command on the context its body names; another number is answered BAD_VALUE (R115). A request handed over before the
device state came to refuse it is answered by that state (R131, R132, R197). That the state is judged before the context number,
and that this answer carries no intake report, are the model's choices: R115 has the number checked first and the report go with
every later status, R197 has the state answer at once, and neither says which holds here (DESIGN CHOICE, log entry 2). -/
def onContext (body : List Byte) (run : Fin 2 → State → State) (s : State) : State :=
  match stateRefusal s.device with
  | some code => respond code [] s
  | none =>
    let n := fieldNat body 0 1
    if h : n < 2 then run ⟨n, h⟩ s else respond .badValue [] s

/-- Answer with the intake report of the context as it stands (R115). -/
def report (c : Code) (i : Fin 2) (s : State) : State := respond c (intakeReport s i) s

/-- A context freshly opened (R116). -/
def openedCtx (total : Nat) : Ctx := { Ctx.idle with state := .gathering, total := total, timer := some 120 }

/-- RENEW OPEN of a total length (R116). -/
def renewOpen (total : Nat) (i : Fin 2) (s : State) : State :=
  if (ctxOf s i).state != .idle then report .contextBusy i s
  else if total < 48 || 512 < total then report .badValue i s
  else report .ok i (setCtx s i (openedCtx total))

/-- RENEW_OPEN (R116). -/
def execRenewOpen (s : State) : Host.Outcome State Fault Refusal :=
  onHanded .renewOpen (fun body => onContext body (renewOpen (fieldNat body 1 2))) s

/-- The bytes a context has still to receive (R117). -/
def remaining (x : Ctx) : Nat := x.total - x.buffer.length

/-- A part is appended (R118). -/
def appendPart (data : List Byte) (x : Ctx) : Ctx :=
  { x with buffer := x.buffer ++ data, nextSeq := x.nextSeq + 1, timer := some 120 }

/-- A part is judged (R117 to R120). -/
def renewPart (seq : Nat) (data : List Byte) (i : Fin 2) (s : State) : State :=
  let x := ctxOf s i
  if x.state != .gathering then report .contextNotGathering i s
  else if seq = x.nextSeq then
    if 0 < remaining x && data.length == min 64 (remaining x) then report .ok i (setCtx s i (appendPart data x))
    else report .contextFailed i (ctxFail i .lengthMismatch s)
  else if seq + 1 = x.nextSeq then report .duplicate i (setCtx s i { x with timer := some 120 })
  else report .outOfSequence i s

/-- RENEW_PART (R117). -/
def execRenewPart (s : State) : Host.Outcome State Fault Refusal :=
  onHanded .renewPart (fun body => onContext body (renewPart (fieldNat body 1 1) (body.drop 2))) s

/-- RENEW CLOSE of a context (R123). -/
def renewClose (i : Fin 2) (s : State) : State :=
  let x := ctxOf s i
  if x.state != .gathering then report .contextNotGathering i s
  else if remaining x = 0 then
    let s := setCtx s i { x with state := .closed, timer := none }
    report .ok i { s with renewal := { s.renewal with queue := s.renewal.queue ++ [i] } }
  else report .contextFailed i (ctxFail i .lengthMismatch s)

/-- RENEW_CLOSE (R123). -/
def execRenewClose (s : State) : Host.Outcome State Fault Refusal :=
  onHanded .renewClose (fun body => onContext body renewClose) s

/-- RENEW RESULT of a context (R127). -/
def renewResult (i : Fin 2) (s : State) : State :=
  match (ctxOf s i).state with
  | .idle => respond .noResult [] s
  | .done | .failed => respond .ok (resultBody s i) (ctxIdle i s)
  | .gathering | .closed | .verifying | .storing => respond .ok (resultBody s i) s

/-- RENEW_RESULT (R127). -/
def execRenewResult (s : State) : Host.Outcome State Fault Refusal :=
  onHanded .renewResult (fun body => onContext body renewResult) s

/-- The work in hand keeps a drop-pending verification from ending at once: a granted job, or a fill (R129). -/
def workInHand (s : State) : Bool :=
  match s.renewal.verif with
  | none => false
  | some v =>
    match v.stage with
    | .authEntry | .kekEntry => true
    | .tagCheck | .keyUnwrap | .receipt => s.engine.renewalLine.isNone

/-- RENEW DROP of a context under verification: it is marked, and the verification ends at once where no work is in hand
(R129). -/
def dropVerifying (i : Fin 2) (s : State) : State :=
  let s := setCtx s i { ctxOf s i with dropPending := true }
  if workInHand s then s else dropVerif s

/-- RENEW DROP of a context (R128). -/
def renewDrop (i : Fin 2) (s : State) : State :=
  match (ctxOf s i).state with
  | .idle => respond .ok [] s
  | .gathering | .done | .failed => respond .ok [] (ctxIdle i s)
  | .closed => respond .ok [] (ctxIdle i (leaveQueue i s))
  | .verifying => respond .ok [] (dropVerifying i s)
  | .storing => respond .storeInProgress [] s

/-- RENEW_DROP (R128). -/
def execRenewDrop (s : State) : Host.Outcome State Fault Refusal :=
  onHanded .renewDrop (fun body => onContext body renewDrop) s

end Sys2Proof.Machine
end

