-- ==== Sys2Proof/Machine/Commands.lean ====
section
/-! DEFINITION. The commands that wait: PROTECT, UNPROTECT, ACTIVATE_COMMAND, HOLD and HOLD_DRAINED (R89, R101, R108, R155,
R205). -/

namespace Sys2Proof.Machine

/-- PROTECT on a request body: its form checks, then the command (R100, R101). -/
def protectBodyRun (body : List Byte) (s : State) : State :=
  match parseProtect body with
  | .error c => respond c [] s
  | .ok q => runProtect q s

/-- PROTECT (R101). -/
def execProtect (s : State) : Host.Outcome State Fault Refusal := onHanded .protect (fun body s => portSettle (protectBodyRun body s)) s

/-- UNPROTECT on a request body (R107, R108). -/
def unprotectBodyRun (body : List Byte) (s : State) : State :=
  match parseUnprotect body with
  | .error c => respond c [] s
  | .ok q => runUnprotect q s

/-- UNPROTECT (R108). -/
def execUnprotect (s : State) : Host.Outcome State Fault Refusal := onHanded .unprotect (fun body s => portSettle (unprotectBodyRun body s)) s

/-- ACTIVATE on a request body (R155). -/
def activateBodyRun (body : List Byte) (s : State) : State :=
  match parseActivate body with
  | .error c => respond c [] s
  | .ok q => runActivate q s

/-- ACTIVATE_COMMAND (R155). -/
def execActivateCommand (s : State) : Host.Outcome State Fault Refusal := onHanded .activate (fun body s => portSettle (activateBodyRun body s)) s

/-- A renewal is in progress: some context is CLOSED, VERIFYING or STORING (R205). -/
def renewalActive (s : State) : Bool :=
  let busy (i : Fin 2) : Bool :=
    match (ctxOf s i).state with
    | .closed | .verifying | .storing => true
    | .idle | .gathering | .done | .failed => false
  busy 0 || busy 1

/-- HOLD runs: refused during a renewal, else the hold flush starts and the command waits (R89, R205). One that meets the warning
before it runs is answered as one that waits (R202, log entry 2). -/
def runHold (s : State) : State :=
  if s.device = .holding .power then respond .powerFailing [] s
  else if renewalActive s then respond .renewalActive [] s
  else flushRequests (markFlush (fun _ => true) (setExec (.hold false) s))

/-- HOLD (R205). -/
def execHold (s : State) : Host.Outcome State Fault Refusal := onHanded .hold (fun _ s => portSettle (runHold s)) s

/-- The drain is met: the device holds, or, after a failed hold flush, HOLD is answered STORE_FAILED and it serves on (R205). -/
def holdDrained (flushFailed : Bool) (s : State) : State :=
  if flushFailed then finish .storeFailed [] s else finish .ok [] { s with device := .holding .command }

/-- HOLD_DRAINED (R205). -/
def execHoldDrained (s : State) : Host.Outcome State Fault Refusal :=
  match s.port.exec with
  | .hold flushFailed => if running s && s.device == .serving && drained s then .next (holdDrained flushFailed s) else .next s
  | .free | .handed .. | .protect _ | .unprotect _ | .activate _ => .next s

end Sys2Proof.Machine
end

