-- ==== Sys2Proof/Machine/EngineOps.lean ====
section
/-! DEFINITION. The engine's grants and ends, the Renewal Engine taking a context, and the Store Writer's steps: ENGINE_GRANT,
FILL_UNWRAP_END, FRAME_PROTECT_END, FRAME_UNPROTECT_END, TOKEN_CHECK_END, KEY_UNWRAP_END, BUNDLE_TAG_CHECK_END, RECEIPT_END,
CONTEXT_TAKEN, JOB_TAKE, ROOM_GIVEN, STORE_WRITE_READ_BACK. -/

namespace Sys2Proof.Machine

/-- In FAULTED, commands left waiting are answered at the end of the step (R184, R207). -/
def settled (s : State) : Host.Outcome State Fault Refusal := .next (portSettle s)

/-- The engine is free and grants a waiting request: of two, that of the requester without the last grant (R98). -/
def grantNext (s : State) : State :=
  if s.engine.job.isSome then s
  else
    match lineOf s (otherReq s.engine.last), lineOf s s.engine.last with
    | some j, _ => grantTo (otherReq s.engine.last) j s
    | none, some j => grantTo s.engine.last j s
    | none, none => s

/-- ENGINE_GRANT (R98). -/
def execEngineGrant (s : State) : Host.Outcome State Fault Refusal := .next (if running s then grantNext s else s)

/-- The job in progress, when the part runs. -/
def jobInHand (s : State) : Option Granted := if running s then s.engine.job else none

/-- Whether a job passes: its inputs decide (R96, R97, Table 5-1; log entry 6). -/
def jobPasses (s : State) : EngineJob → Bool
  | .fill slot c _ => (storedKey s slot c).isSome
  | .keyUnwrap kek wrapped => (Config.keyWrap.recover kek wrapped).isSome
  | .frameProtect .. => true
  | .frameUnprotect key nonce header cipher tag => (Config.frames.recover key nonce header cipher tag).isSome
  | .bundleTag key message tag => tag == cmac key message
  | .token key message tag => tag == cmac key message
  | .receipt .. => true

/-- The job in progress, when it is one that ends so: the end of a job with the other outcome does not happen (R96; log
entry 1). -/
def jobEnded (s : State) (pass : Bool) : Option Granted := (jobInHand s).filter fun g => jobPasses s g.job == pass

/-- A fill unwrap ends: it passes when the stored body is valid and its sealed key opens (R81, R82, Table 5-1; log entry 6). The job takes the record body of its cell as the array stands now, at its end: the spec does not say at which moment a job
takes its inputs, and this is the model's choice (R96; log entry 56). -/
def endFill (slot : Fin 32) (c : CellId) (gen : Nat) (s : State) : State :=
  let s := engineFree s
  match findEntry s slot gen with
  | none => s
  | some e => if e.filling then fillEnd e (storedKey s slot c) s else s

/-- FILL_UNWRAP_END (R81, R82). -/
def execFillUnwrapEnd (opens : Bool) (s : State) : Host.Outcome State Fault Refusal :=
  match jobEnded s opens with
  | some ⟨_, .fill slot c gen, _⟩ => settled (endFill slot c gen s)
  | _ => .next s

/-- A frame protect job ends for the PROTECT in flight (R104). -/
def endFrameProtect (cipher tag : List Byte) (s : State) : State :=
  match s.port.exec with
  | .protect op =>
    match op.stage with
    | .frame counter cls => protectEnd op counter cls cipher tag s
    | .fill | .room | .reserve => s
  | .free | .handed .. | .unprotect _ | .activate _ | .hold _ => s

/-- FRAME_PROTECT_END (R104): the job gives the ciphertext and tag of its inputs (R96, R97). -/
def execFrameProtectEnd (s : State) : Host.Outcome State Fault Refusal :=
  match jobInHand s with
  | some ⟨_, .frameProtect key nonce header payload, _⟩ =>
    let frame := Config.frames.protect key nonce header payload
    settled (endFrameProtect frame.1 frame.2 (engineFree s))
  | _ => .next s

/-- A frame unprotect job ends for the UNPROTECT in flight (R109). -/
def endFrameUnprotect (plain : Option (List Byte)) (s : State) : State :=
  match s.port.exec with
  | .unprotect op => if op.stage = .frame then unprotectEnd op plain s else s
  | .free | .handed .. | .protect _ | .activate _ | .hold _ => s

/-- FRAME_UNPROTECT_END (R109): the job passes where its tag is that of its key, nonce, header and ciphertext (R96, R97). -/
def execFrameUnprotectEnd (pass : Bool) (s : State) : Host.Outcome State Fault Refusal :=
  match jobEnded s pass with
  | some ⟨_, .frameUnprotect key nonce header cipher tag, _⟩ =>
    settled (endFrameUnprotect (Config.frames.recover key nonce header cipher tag) (engineFree s))
  | _ => .next s

/-- A token check ends for the ACTIVATE in flight (R157). -/
def endToken (pass : Bool) (s : State) : State :=
  match s.port.exec with
  | .activate op => if op.stage = .token then tokenEnd op pass s else s
  | .free | .handed .. | .protect _ | .unprotect _ | .hold _ => s

/-- TOKEN_CHECK_END (R157): the check passes where the token is the CMAC of its input (R97, R209). -/
def execTokenCheckEnd (pass : Bool) (s : State) : Host.Outcome State Fault Refusal :=
  match jobEnded s pass with
  | some ⟨_, .token .., _⟩ => settled (endToken pass (engineFree s))
  | _ => .next s

/-- A job of the verification in hand has ended: nothing follows in FAULTED or for an orphan, a drop-pending verification ends, any
other goes on (R129, R137, R148). -/
def renewalJobEnd (orphan : Bool) (stage : VerifStage) (go : Verif → State → State) (s : State) : State :=
  match s.renewal.verif with
  | none => s
  | some v =>
    if orphan || s.device = .faulted || v.stage != stage then s
    else if dropping s then dropVerif s
    else go v s

/-- KEY_UNWRAP_END (R144): the job passes where the wrapped key is one of the KEK's wrappings (R96, R97). -/
def execKeyUnwrapEnd (pass : Bool) (s : State) : Host.Outcome State Fault Refusal :=
  match jobEnded s pass with
  | some ⟨_, .keyUnwrap kek wrapped, orphan⟩ =>
    settled (renewalJobEnd orphan .keyUnwrap (fun v => unwrapEnd v (Config.keyWrap.recover kek wrapped)) (engineFree s))
  | _ => .next s

/-- The tag check ends: the kind checks follow a pass (R142). -/
def tagEnd (v : Verif) (pass : Bool) (s : State) : State := if pass then kindChecks v s else failVerif .tagMismatch s

/-- BUNDLE_TAG_CHECK_END (R142): the check passes where the tag is the CMAC of the bundle before it (R97, R209). -/
def execBundleTagCheckEnd (pass : Bool) (s : State) : Host.Outcome State Fault Refusal :=
  match jobEnded s pass with
  | some ⟨_, .bundleTag .., orphan⟩ =>
    settled (renewalJobEnd orphan .tagCheck (fun v => tagEnd v pass) (engineFree s))
  | _ => .next s

/-- RECEIPT_END (R150). -/
def execReceiptEnd (s : State) : Host.Outcome State Fault Refusal :=
  match jobInHand s with
  | some ⟨_, .receipt key message, orphan⟩ =>
    settled (renewalJobEnd orphan .receipt (fun v => becomeStoring v (cmac key message)) (engineFree s))
  | _ => .next s

/-- CONTEXT_TAKEN (R137): the free Renewal Engine takes the head of the verification queue while SERVING. -/
def execContextTaken (s : State) : Host.Outcome State Fault Refusal :=
  match s.renewal.queue with
  | [] => .next s
  | i :: _ =>
    if running s && s.device == .serving && s.renewal.verif.isNone then .next (beginVerification i s) else .next s

/-- JOB_TAKE (R176): the idle Store Writer takes its next job. -/
def execJobTake (s : State) : Host.Outcome State Fault Refusal :=
  if running s && s.writer.job.isNone then settled (takeNext s) else .next s

/-- ROOM_GIVEN (R178): while SERVING, room is given to the first waiter that can be served. -/
def execRoomGiven (s : State) : Host.Outcome State Fault Refusal :=
  if running s && s.device == .serving then .next ((giveOne s).getD s) else .next s

/-- STORE_WRITE_READ_BACK (R180). -/
def execStoreWriteReadBack (b : ReadBack) (s : State) : Host.Outcome State Fault Refusal :=
  match s.writer.job with
  | none => .next s
  | some r =>
    match r.writes with
    | [] => .next s
    | w :: rest => if running s then settled (writeEnd r w rest b s) else .next s

end Sys2Proof.Machine
end

