-- ==== Sys2Proof/Machine/Dispatch.lean ====
section
/-! DEFINITION. What each command does: one arm per row of spec/opcode_table.json, one meaning per arm. -/

namespace Sys2Proof.Machine

def exec (i : Instr) (s : State) : Host.Outcome State Fault Refusal :=
  match i with
  | .powerOnReset => Sys2Proof.Machine.execPowerOnReset s
  | .nrstReset torn => Sys2Proof.Machine.execNrstReset torn s
  | .leaveLoading => Sys2Proof.Machine.execLeaveLoading s
  | .writeTransfer bytes => Sys2Proof.Machine.execWriteTransfer bytes s
  | .readTransfer count => Sys2Proof.Machine.execReadTransfer count s
  | .invalidDirectionTransfer direction count => Sys2Proof.Machine.execInvalidDirectionTransfer direction count s
  | .identify => Sys2Proof.Machine.execIdentify s
  | .readNotices => Sys2Proof.Machine.execReadNotices s
  | .hold => Sys2Proof.Machine.execHold s
  | .holdDrained => Sys2Proof.Machine.execHoldDrained s
  | .protect => Sys2Proof.Machine.execProtect s
  | .unprotect => Sys2Proof.Machine.execUnprotect s
  | .activateCommand => Sys2Proof.Machine.execActivateCommand s
  | .slotQuery => Sys2Proof.Machine.execSlotQuery s
  | .directoryFirst => Sys2Proof.Machine.execDirectoryFirst s
  | .directoryNext => Sys2Proof.Machine.execDirectoryNext s
  | .associationQuery => Sys2Proof.Machine.execAssociationQuery s
  | .renewOpen => Sys2Proof.Machine.execRenewOpen s
  | .renewPart => Sys2Proof.Machine.execRenewPart s
  | .renewClose => Sys2Proof.Machine.execRenewClose s
  | .renewResult => Sys2Proof.Machine.execRenewResult s
  | .renewDrop => Sys2Proof.Machine.execRenewDrop s
  | .intakeTimerExpiry ctx => Sys2Proof.Machine.execIntakeTimerExpiry ctx s
  | .stickEdge => Sys2Proof.Machine.execStickEdge s
  | .hourBoundary => Sys2Proof.Machine.execHourBoundary s
  | .debounceHoldExpiry inputs => Sys2Proof.Machine.execDebounceHoldExpiry inputs s
  | .firstComparison => Sys2Proof.Machine.execFirstComparison s
  | .pfailAssert => Sys2Proof.Machine.execPfailAssert s
  | .pfailWithdraw => Sys2Proof.Machine.execPfailWithdraw s
  | .jobTake => Sys2Proof.Machine.execJobTake s
  | .roomGiven => Sys2Proof.Machine.execRoomGiven s
  | .storeWriteReadBack result => Sys2Proof.Machine.execStoreWriteReadBack result s
  | .engineGrant => Sys2Proof.Machine.execEngineGrant s
  | .fillUnwrapEnd opens => Sys2Proof.Machine.execFillUnwrapEnd opens s
  | .frameProtectEnd => Sys2Proof.Machine.execFrameProtectEnd s
  | .frameUnprotectEnd pass => Sys2Proof.Machine.execFrameUnprotectEnd pass s
  | .tokenCheckEnd pass => Sys2Proof.Machine.execTokenCheckEnd pass s
  | .keyUnwrapEnd pass => Sys2Proof.Machine.execKeyUnwrapEnd pass s
  | .bundleTagCheckEnd pass => Sys2Proof.Machine.execBundleTagCheckEnd pass s
  | .receiptEnd => Sys2Proof.Machine.execReceiptEnd s
  | .contextTaken => Sys2Proof.Machine.execContextTaken s
  | .powerLoss torn => Sys2Proof.Machine.execPowerLoss torn s
  | .nrstRelease => Sys2Proof.Machine.execNrstRelease s
  | .directionByteReceived direction => Sys2Proof.Machine.execDirectionByteReceived direction s
  | .tamperInputLevelChange input level => Sys2Proof.Machine.execTamperInputLevelChange input level s
  | .pfailDeasserted => Sys2Proof.Machine.execPfailDeasserted s

end Sys2Proof.Machine
end

