-- ==== Sys2Proof/Safety.lean ====
section
/-! DEFINITION. The safe states, in the terms claims use: the laws of the job queue (R177), of the cache (R77, R85), of the flush
list (R182), of the Notice Set (R199) and of the seconds count (R33), which the spec states and every step keeps; what the loader
builds (R185 to R190); what the Store Writer makes of a job it takes and what a completed job changes (R12 to R24, R171, R179, R188);
whom room is given to (R178). -/

namespace Sys2Proof.Machine

/-- The kind, slot and cell of a counter job, `true` for a RESERVE; none for another job (R177). -/
def counterKeyOf : StoreJob → Option (Bool × Fin 32 × CellId)
  | .reserve i c _ _ => some (true, i, c)
  | .highWater i c _ _ => some (false, i, c)
  | .stage .. | .activate .. | .overlapEnd .. | .revokeSlot .. | .suspend _ | .resume _ | .header .. | .hour
  | .association .. | .bundleFloor .. | .armRecord _ | .cellRepair .. | .floorRepair _ => none

/-- The counter jobs of a queue, by kind, slot and cell. -/
def counterKeys (q : List QJob) : List (Bool × Fin 32 × CellId) := q.filterMap fun j => counterKeyOf j.job

/-- The slot and generation of each entry and of each waiting fill. -/
def cacheKeys (c : Cache) : List (Fin 32 × Nat) :=
  c.entries.map (fun e => (e.slot, e.gen)) ++ c.waits.map fun w => (w.slot, w.gen)

/-- The queue holds at most 8 jobs, and at most one RESERVE and one HIGHWATER for a cell (R177). -/
structure QueueLaw (w : Writer) : Prop where
  length : w.queue.length ≤ 8
  once : (counterKeys w.queue).Nodup

/-- The cache holds at most 6 entries, and at most one entry or waiting fill for a slot and generation (R77, R85). -/
structure CacheLaw (c : Cache) : Prop where
  length : c.entries.length ≤ 6
  once : (cacheKeys c).Nodup

/-- No job of a list is a counter job: a bundle makes none (Table 7-3). -/
def NoCounter (jobs : List StoreJob) : Prop := ∀ j ∈ jobs, counterKeyOf j = none

/-- The job lists of the contexts and of the verification in hand hold no counter job (Table 7-3). -/
structure PlanLaw (r : Renewal) : Prop where
  ctxs : ∀ i : Fin 2, NoCounter ((r.ctxs[i]).jobs.map (·.1))
  verif : ∀ v, r.verif = some v → NoCounter v.plan

/-- The Notice Set holds one notice of a kind and subject (R199). -/
def NoticeLaw (ns : List Notice) : Prop := (ns.map noticeKey).Nodup

/-- What every command that leaves the clock alone keeps. -/
structure BlockLaws (s : State) : Prop where
  queue : QueueLaw s.writer
  flush : s.writer.flush.length ≤ 4
  cache : CacheLaw s.cache
  plans : PlanLaw s.renewal
  notices : NoticeLaw s.notices

/-- A safe state: the laws of the blocks, and a seconds count below 3600 (R33). -/
structure Inv (s : State) : Prop where
  blocks : BlockLaws s
  seconds : s.clock.seconds < 3600

/-- What the array says of a generation: all of its image but the unused mark and the wear. -/
def cellCore (x : CellImg) : GenParams × Option Activation × Nat × Nat := (x.params, x.activation, x.ceiling, x.highWater)

/-- What the array says of a slot: all of its image but the quarantine, due and repair marks and the grace progress. -/
def slotCore (img : SlotImg) :
    Option Binding × Policy × CounterMode × Bool × Nat × Option (GenParams × Option Activation × Nat × Nat) ×
      Option (GenParams × Option Activation × Nat × Nat) :=
  (img.binding, img.policy, img.mode, img.suspended, img.floor, img.cellA.map cellCore, img.cellB.map cellCore)

/-- Nothing volatile is left, the lines, the array and the queue of commands apart (R193). -/
def Cleared (s : State) : Prop :=
  s.device = .loading ∧ s.cache = .reset ∧ s.engine = .reset ∧ s.port = .reset ∧ s.renewal = .reset ∧ s.writer = .reset ∧
  s.notices = [] ∧ s.warning = ⟨false, false⟩ ∧ s.clock = ⟨0, 0⟩

/-- The part runs, and the Port Executor holds a request of this command with this body (R194). -/
def Handed (c : Cmd) (body : List Byte) (s : State) : Prop := running s = true ∧ s.port.exec = .handed c body

/-- A command that resets the part or starts it again (R193). -/
def isReset : Instr → Bool
  | .powerOnReset | .nrstReset _ | .powerLoss _ | .nrstRelease => true
  | .leaveLoading | .writeTransfer _ | .readTransfer _ | .invalidDirectionTransfer .. | .identify | .readNotices | .hold
  | .holdDrained | .protect | .unprotect | .activateCommand | .slotQuery | .directoryFirst | .directoryNext
  | .associationQuery | .renewOpen | .renewPart | .renewClose | .renewResult | .renewDrop | .intakeTimerExpiry _
  | .stickEdge | .hourBoundary | .debounceHoldExpiry _ | .firstComparison | .pfailAssert | .pfailWithdraw | .jobTake
  | .roomGiven | .storeWriteReadBack _ | .engineGrant | .fillUnwrapEnd _ | .frameProtectEnd | .frameUnprotectEnd _
  | .tokenCheckEnd _ | .keyUnwrapEnd _ | .bundleTagCheckEnd _ | .receiptEnd | .contextTaken | .directionByteReceived _
  | .tamperInputLevelChange .. | .pfailDeasserted => false

/-- The stored cell holds a generation: its body is valid and both its counters are known; this is its image after loading, stamped
where the activation part is valid (R5, R174, R187). -/
def HoldsGen (t : State) (i : Fin 32) (c : CellId) (x : CellImg) : Prop :=
  ∃ (b : GenBody) (v h : Nat), validBody (storedCell t i c).body = some b ∧ twoValue (storedCell t i c).ceiling = some v ∧
    twoValue (storedCell t i c).highWater = some h ∧ x = ⟨b.params, (storedCell t i c).activation, v, h, false, none⟩

/-- The loader does not keep the generation a stored cell holds: the valid header of its slot is unbound (R187), or it is unstamped
beside another unstamped one with the greater number (R6). -/
def LeftOut (t : State) (i : Fin 32) (c : CellId) (x : CellImg) : Prop :=
  ((t.array.slots[i]).header.map (·.binding)) = some none ∨
  x.activation = none ∧ ∃ y, HoldsGen t i (otherCell c) y ∧ y.activation = none ∧
    x.params.generation < y.params.generation

/-- The two stored generations of a slot have one number, and equal stamps or none (R6). -/
def EqualPair (t : State) (i : Fin 32) : Prop :=
  ∃ x y, HoldsGen t i .a x ∧ HoldsGen t i .b y ∧ x.params.generation = y.params.generation ∧
    x.activation.map (·.stamp) = y.activation.map (·.stamp)

/-- Both stored cells of a slot are treated as EMPTY though neither has the EMPTY marker (R187). -/
def BothLost (t : State) (i : Fin 32) : Prop :=
  ∀ c, (storedCell t i c).body ≠ .empty ∧ ∀ x, ¬HoldsGen t i c x

/-- The cell repair mark of a cell (R188). -/
def repairOf (img : SlotImg) : CellId → Bool
  | .a => img.repairA
  | .b => img.repairB

/-- The loader has built the slots and the hour from an array with a valid identity record (R3, R6, R39, R186 to R188): the floor of a
slot is the greatest of its valid stored floor and the generation numbers of its valid cells, the service hour the greatest of the
valid strip positions and the activation hours taken, the next strip position the one after the greatest valid value, or 0 where none
is valid, a valid header stands as stored, a cell shows the generation it holds where R6 and R187 keep it and is EMPTY otherwise, with
its repair mark where the stored cell is not EMPTY, and a slot is QUARANTINED exactly for an invalid header, an unknown floor, an equal
pair, or two lost cells under a floor above 0. A slot that is not QUARANTINED has its floor repair mark exactly where its known floor
is below the generation of a valid cell body; a QUARANTINED one has no repair mark. No due mark is set. The lowest of several
positions with the greatest value is the model's choice (log entry 27). -/
structure Loaded (a : StoreArray) (t : State) : Prop where
  device : t.device = .loading
  array : t.array = a
  seconds : t.clock.seconds = 0
  strip : ∀ (p : Fin 16) v, a.strip[p] = some v → v ≤ t.clock.hour
  stamps : ∀ (i : Fin 32) c x p, HoldsGen t i c x → x.activation = some p → p.hour ≤ t.clock.hour
  hour : t.clock.hour = 0 ∨ (∃ p : Fin 16, a.strip[p] = some t.clock.hour) ∨
    ∃ (i : Fin 32) (c : CellId) (x : CellImg) (p : Activation), HoldsGen t i c x ∧ x.activation = some p ∧
      p.hour = t.clock.hour
  noStrip : (∀ p : Fin 16, a.strip[p] = none) → t.writer.nextStrip = 0
  nextStrip : ∀ (p : Fin 16) v, a.strip[p] = some v → (∀ (q : Fin 16) w, a.strip[q] = some w → w ≤ v) →
    (∀ q : Fin 16, q < p → a.strip[q] ≠ some v) → t.writer.nextStrip = p + 1
  floor : ∀ (i : Fin 32) v, twoValue (a.slots[i]).floor = some v → v ≤ (slotOf t i).floor
  cells : ∀ (i : Fin 32) c b, validBody (storedCell t i c).body = some b → b.params.generation ≤ (slotOf t i).floor
  floorTaken : ∀ i : Fin 32, (slotOf t i).floor = 0 ∨ twoValue (a.slots[i]).floor = some (slotOf t i).floor ∨
    ∃ (c : CellId) (b : GenBody), validBody (storedCell t i c).body = some b ∧ b.params.generation = (slotOf t i).floor
  headers : ∀ (i : Fin 32) h, (a.slots[i]).header = some h → headerOf (slotOf t i) = h
  rebuilt : ∀ i : Fin 32, (a.slots[i]).header = none → (slotOf t i).policy = .erase ∧
    (slotOf t i).mode = .writeThrough ∧ (slotOf t i).suspended = false ∧
    (∀ b, (slotOf t i).binding = some b → roleGet (assocOf t b.assoc).bindings b.role = some i) ∧
    ((slotOf t i).binding = none → ∀ k, namesSlot (assocOf t k).bindings i = false)
  held : ∀ (i : Fin 32) c x, cellOf (slotOf t i) c = some x ↔ HoldsGen t i c x ∧ ¬LeftOut t i c x
  repairs : ∀ (i : Fin 32) c, (slotOf t i).quarantined = false →
    (repairOf (slotOf t i) c = true ↔ (storedCell t i c).body ≠ .empty ∧ cellOf (slotOf t i) c = none)
  floorRepair : ∀ i : Fin 32, (slotOf t i).quarantined = false → ((slotOf t i).repairFloor = true ↔ ∃ f c b,
    twoValue (a.slots[i]).floor = some f ∧ validBody (storedCell t i c).body = some b ∧ f < b.params.generation)
  noRepairs : ∀ i : Fin 32, (slotOf t i).quarantined = true →
    (slotOf t i).repairFloor = false ∧ ∀ c, repairOf (slotOf t i) c = false
  quarantined : ∀ i : Fin 32, (slotOf t i).quarantined = true ↔ (a.slots[i]).header = none ∨
    twoValue (a.slots[i]).floor = none ∨ EqualPair t i ∨ BothLost t i ∧ 0 < (slotOf t i).floor
  marks : ∀ i : Fin 32, (slotOf t i).graceProgress = 0 ∧ (slotOf t i).actDue = none ∧ (slotOf t i).ovlDue = none

/-- The loader has taken the association entries, the arm record and the pending tamper work from an array with a valid identity
record; each slot stands in at most one pair (R60, R63, Table 3-1, R160, R170, R190). -/
structure LoadedRest (a : StoreArray) (t : State) : Prop where
  floors : ∀ i : Fin 8, (assocOf t i).floor = twoValue (a.assocs[i]).floor
  invalid : ∀ i : Fin 8, (a.assocs[i]).body = none → (assocOf t i).state = .damaged .load ∧ (assocOf t i).ident = none
  fromHeaders : ∀ (i : Fin 8) r, (a.assocs[i]).body = none →
    let named (x : Fin 32) : Prop := ((a.slots[x]).header.bind (·.binding)) = some ⟨i, r⟩
    (∀ x, roleGet (assocOf t i).bindings r = some x → named x) ∧
    (roleGet (assocOf t i).bindings r = none →
      (∀ x, ¬named x) ∨ ∃ x, named x ∧ ∃ j : Fin 8, j < i ∧ namesSlot (assocOf t j).bindings x = true)
  empty : ∀ (i : Fin 8) b, (a.assocs[i]).body = some b → b.active = false →
    assocOf t i = .blank (twoValue (a.assocs[i]).floor)
  noFloor : ∀ (i : Fin 8) b, (a.assocs[i]).body = some b → b.active = true → twoValue (a.assocs[i]).floor = none →
    (assocOf t i).state = .damaged .load ∧ (assocOf t i).ident = some (b.party, b.cls)
  active : ∀ i : Fin 8, (assocOf t i).state = .active ↔ ∃ b, (a.assocs[i]).body = some b ∧ b.active = true ∧
    twoValue (a.assocs[i]).floor ≠ none ∧
    (∀ j : Fin 8, j < i → (assocOf t j).state = .active → (assocOf t j).ident.map (·.1) ≠ some b.party) ∧
    ∀ (j : Fin 8) (x : Fin 32), j < i → namesSlot b.bindings x = true → namesSlot (assocOf t j).bindings x = false
  stored : ∀ (i : Fin 8) b, (a.assocs[i]).body = some b → b.active = true →
    (assocOf t i).ident =
      (if (assocOf t i).state = .active ∨ twoValue (a.assocs[i]).floor = none then some (b.party, b.cls) else none) ∧
    ((assocOf t i).state = .active ∨ (assocOf t i).state = .damaged .load) ∧
    ∀ r, roleGet (assocOf t i).bindings r =
      if (allRoles.takeWhile (· != r)).any (fun q => roleGet b.bindings q == roleGet b.bindings r) then none
      else if ∃ j : Fin 8, j < i ∧ (roleGet b.bindings r).any (namesSlot (assocOf t j).bindings) = true then none
      else roleGet b.bindings r
  parties : ∀ i j : Fin 8, i ≠ j → (assocOf t i).state = .active → (assocOf t j).state = .active →
    (assocOf t i).ident.map (·.1) ≠ (assocOf t j).ident.map (·.1)
  slots : ∀ (i j : Fin 8) (x : Fin 32), i ≠ j → namesSlot (assocOf t i).bindings x = true →
    namesSlot (assocOf t j).bindings x = false
  armLost : a.armFirst = none → a.armSecond = none → t.monitor.armLost = true ∧ t.monitor.arm = Inputs.all none
  armOne : ∀ x, (a.armFirst = some x ∧ a.armSecond = none) ∨ (a.armFirst = none ∧ a.armSecond = some x) →
    t.monitor.arm = x.record ∧ t.monitor.armLost = false
  armTwo : ∀ x y, a.armFirst = some x → a.armSecond = some y → t.monitor.armLost = false ∧
    (y.count = (x.count + 1) % 4294967296 → t.monitor.arm = y.record) ∧
    (y.count ≠ (x.count + 1) % 4294967296 → x.count = (y.count + 1) % 4294967296 → t.monitor.arm = x.record) ∧
    (y.count ≠ (x.count + 1) % 4294967296 → x.count ≠ (y.count + 1) % 4294967296 →
      t.monitor.arm = if x.count ≤ y.count then y.record else x.record)
  noWork : ∀ r, a.tamper = some r → r.pendingSet = [] → t.writer.tamper = none
  work : ∀ r, a.tamper = some r → r.pendingSet ≠ [] → ∃ l : List (Fin 32 × TamperAct), l.Perm r.pendingSet ∧
    l.Pairwise (fun x y => x.1 ≤ y.1) ∧ t.writer.tamper = some
      { items := l.map (fun x => .slot x.1 x.2) ++ [.closing], record := r, failed := [], completed := [], resumed := true }
  rewrite : a.tamper = none → ∃ record : TamperRecord, t.writer.tamper = some
      { items := (slotItems t).map (fun x => .slot x.1 x.2) ++ [.closing], record := record, failed := [], completed := []
        resumed := true } ∧
    record.origin = .noEvent ∧ record.levels = Inputs.all (some .low) ∧ record.pattern = Inputs.all false ∧
    record.pendingSet = slotItems t

/-- The target cell of a STAGE by the slot as it stands (R15): cell A of a VACANT or QUARANTINED slot, the EMPTY cell beside the
current generation of a SINGLE one, the staged cell, the overlap cell. -/
def StagesInto (img : SlotImg) (c : CellId) : Prop :=
  match phaseOf img with
  | .vacant | .quarantined => c = .a
  | .single => roleIn img (otherCell c) = some .current ∧ cellOf img c = none
  | .staged => roleIn img c = some .staged ∧ roleIn img (otherCell c) ≠ some .staged
  | .overlap => roleIn img c = some .overlap ∧ roleIn img (otherCell c) = some .current

/-- The binding a role choice gives, beside the one the entry holds (R69). -/
def Resolves (s : State) (i : Fin 8) (choices : Roles RoleChoice) (new : Roles (Option (Fin 32))) : Prop :=
  ∀ r, (∀ slot p m, roleGet choices r = .bind slot p m → roleGet new r = some slot) ∧
    (roleGet choices r = .unbind → roleGet new r = none) ∧
    (roleGet choices r = .leave → roleGet new r = roleGet (assocOf s i).bindings r)

/-- Another ACTIVE entry carries the identifier (R69). -/
def OtherCarries (s : State) (i : Fin 8) (party : Id64) : Prop :=
  ∃ j : Fin 8, j ≠ i ∧ (assocOf s j).state = .active ∧ (assocOf s j).ident.map (·.1) = some party

/-- A role with a binding is not allowed for the class (R69, Table 3-2). -/
def RoleBarred (cls : PartyClass) (new : Roles (Option (Fin 32))) : Prop :=
  ∃ r, roleGet new r ≠ none ∧ roleAllowed cls r = false

/-- A slot of the resolved entry is named by two of its roles or by another entry, or is bound in its header to another pair (R69;
log entry 36). -/
def SlotTaken (s : State) (i : Fin 8) (new : Roles (Option (Fin 32))) : Prop :=
  ∃ r slot, roleGet new r = some slot ∧
    ((∃ q, q ≠ r ∧ roleGet new q = some slot) ∨ (∃ j : Fin 8, j ≠ i ∧ ∃ q, roleGet (assocOf s j).bindings q = some slot) ∨
      ∃ b, (slotOf s slot).binding = some b ∧ b ≠ ⟨i, r⟩)

/-- A slot that a role held and does not hold after is not VACANT (R69; log entry 48). -/
def LetsGoHeld (s : State) (i : Fin 8) (new : Roles (Option (Fin 32))) : Prop :=
  ∃ r slot, roleGet (assocOf s i).bindings r = some slot ∧ roleGet new r ≠ some slot ∧ phaseOf (slotOf s slot) ≠ .vacant

/-- What the Store Writer makes of each job it takes from its queue, `v` giving the reason of a drop or the writes in order, as the
rules say it: re-validation by R14, R16, R18, R22, R23, R69, R72, R171 and R188, the writes by Table 9-2 (R179), the position of a
two-position field by R175, the stamp by R7. A drop that nobody hears of names no reason here. The first of two invalid positions is
log entry 54, the order of "both positions" log entry 60, that a cell counts as EMPTY where the image and the array both have it so log
entry 65, the body of an emptied entry log entry 9. -/
structure TakeRules (s : State) (v : StoreJob → Verdict) : Prop where
  position : ∀ t : TwoPos, writesSecond t = true ↔
    t.first ≠ none ∧ (t.second = none ∨ ∃ a b, t.first = some a ∧ t.second = some b ∧ b ≤ a)
  stageStale : ∀ slot target b f, b.params.generation ≤ (slotOf s slot).floor ∨
    (∃ k, genNumber (slotOf s slot) .staged = some k ∧ b.params.generation ≤ k) →
    v (.stage slot target b f) = .drop .staleGeneration
  stageUnbound : ∀ slot target b f, (slotOf s slot).floor < b.params.generation →
    (∀ k, genNumber (slotOf s slot) .staged = some k → k < b.params.generation) →
    (slotOf s slot).binding ≠ some target → v (.stage slot target b f) = .drop .roleNotBound
  stage : ∀ slot target b f, (slotOf s slot).floor < b.params.generation →
    (∀ k, genNumber (slotOf s slot) .staged = some k → k < b.params.generation) →
    (slotOf s slot).binding = some target →
    let img := slotOf s slot
    let ceiling := min (b.params.counterStart + b.params.counterStep) 4294967295
    let new (c : CellId) : List ArrayWrite :=
      [.activation slot c none, .ceiling slot c false ceiling, .ceiling slot c true ceiling, .highWater slot c false f,
        .highWater slot c true f, .cellBody slot c (.gen b.stored),
        .floor slot (writesSecond (s.array.slots[slot]).floor) b.params.generation]
    (img.quarantined = true → v (.stage slot target b f) = .write ([.cellBody slot .a .empty, .cellBody slot .b .empty,
      .headerBody slot ⟨img.binding, img.policy, img.mode, img.suspended⟩] ++ new .a)) ∧
    (img.quarantined = false → ∀ c, StagesInto img c →
      let isEmpty := cellOf img c = none ∧ (storedCell s slot c).body = .empty
      (isEmpty → v (.stage slot target b f) = .write (new c)) ∧
      (¬isEmpty → v (.stage slot target b f) = .write (.cellBody slot c .empty :: new c)))
  notStaged : ∀ slot gen, (slotOf s slot).quarantined = true ∨ genNumber (slotOf s slot) .staged ≠ some gen →
    v (.activate slot gen) = .drop .notStaged
  activate : ∀ slot c x, (slotOf s slot).quarantined = false → genWith (slotOf s slot) .staged = some (c, x) →
    (genWith (slotOf s slot) .current = none →
      v (.activate slot x.params.generation) = .write [.activation slot c (some ⟨1, s.clock.hour⟩)]) ∧
    ∀ p y a, genWith (slotOf s slot) .current = some (p, y) → y.activation = some a →
      v (.activate slot x.params.generation) = .write (.activation slot c (some ⟨a.stamp + 1, s.clock.hour⟩) ::
        if x.params.graceHours = 0 ∧ x.params.graceCount = 0 then [.cellBody slot p .empty] else [])
  noOverlap : ∀ slot gen cause, (slotOf s slot).quarantined = true ∨ genNumber (slotOf s slot) .overlap ≠ some gen →
    ∃ reason, v (.overlapEnd slot gen cause) = .drop reason
  overlapEnd : ∀ slot c x cause, (slotOf s slot).quarantined = false → genWith (slotOf s slot) .overlap = some (c, x) →
    v (.overlapEnd slot x.params.generation cause) = .write [.cellBody slot c .empty]
  revoke : ∀ slot unbind, let img := slotOf s slot
    v (.revokeSlot slot unbind) = .write
      [.headerBody slot ⟨if unbind then none else img.binding, img.policy, img.mode, img.suspended⟩,
        .floor slot (writesSecond (s.array.slots[slot]).floor) img.floor, .cellBody slot .a .empty, .cellBody slot .b .empty]
  suspend : ∀ slot, let img := slotOf s slot
    v (.suspend slot) = .write [.headerBody slot ⟨img.binding, img.policy, img.mode, true⟩]
  resume : ∀ slot, let img := slotOf s slot
    v (.resume slot) = .write [.headerBody slot ⟨img.binding, img.policy, img.mode, false⟩]
  unbind : ∀ slot p m,
    (phaseOf (slotOf s slot) = .vacant →
      v (.header slot none p m) = .write [.headerBody slot ⟨none, p, m, (slotOf s slot).suspended⟩]) ∧
    (phaseOf (slotOf s slot) ≠ .vacant → v (.header slot none p m) = .drop .slotNotEmpty)
  bind : ∀ slot b p m,
    ((slotOf s slot).binding = none ∨ (slotOf s slot).binding = some b →
      v (.header slot (some b) p m) = .write [.headerBody slot ⟨some b, p, m, (slotOf s slot).suspended⟩]) ∧
    (∀ other, (slotOf s slot).binding = some other → other ≠ b → v (.header slot (some b) p m) = .drop .slotBound)
  genGone : ∀ slot c gen n, (slotOf s slot).quarantined = true ∨
    (cellOf (slotOf s slot) c).map (·.params.generation) ≠ some gen →
    (∃ reason, v (.reserve slot c gen n) = .drop reason) ∧ ∃ reason, v (.highWater slot c gen n) = .drop reason
  reserve : ∀ slot c x n, (slotOf s slot).quarantined = false → cellOf (slotOf s slot) c = some x →
    (n ≤ x.ceiling → v (.reserve slot c x.params.generation n) = .write []) ∧
    (x.ceiling < n → v (.reserve slot c x.params.generation n) =
      .write [.ceiling slot c (writesSecond (storedCell s slot c).ceiling) n])
  highWater : ∀ slot c x n, (slotOf s slot).quarantined = false → cellOf (slotOf s slot) c = some x →
    (n ≤ x.highWater → v (.highWater slot c x.params.generation n) = .write []) ∧
    (x.highWater < n → v (.highWater slot c x.params.generation n) =
      .write [.highWater slot c (writesSecond (storedCell s slot c).highWater) n])
  hour : v .hour = .write [.strip s.writer.nextStrip s.clock.hour]
  emptied : ∀ i, ∃ body, body.active = false ∧ v (.association i .empty) = .write [.assocBody i body]
  enrol : ∀ i party cls choices new, Resolves s i choices new →
    (OtherCarries s i party → v (.association i (.enrol party cls choices)) = .drop .duplicateParty) ∧
    (¬OtherCarries s i party →
      (RoleBarred cls new → v (.association i (.enrol party cls choices)) = .drop .roleNotAllowed) ∧
      (¬RoleBarred cls new →
        (SlotTaken s i new → v (.association i (.enrol party cls choices)) = .drop .slotBound) ∧
        (¬SlotTaken s i new →
          (LetsGoHeld s i new → v (.association i (.enrol party cls choices)) = .drop .slotNotEmpty) ∧
          (¬LetsGoHeld s i new → v (.association i (.enrol party cls choices)) = .write
            ((if (assocOf s i).floor = none then [.assocFloor i false 0, .assocFloor i true 0] else []) ++
              [.assocBody i ⟨true, party, cls, new⟩])))))
  bundleFloor : ∀ i party cls n, let a := assocOf s i
    (a.state ≠ .active ∨ a.ident ≠ some (party, cls) → v (.bundleFloor i party cls n) = .drop .signerUnknown) ∧
    (a.state = .active → a.ident = some (party, cls) →
      (n ≤ a.floor.getD 0 → v (.bundleFloor i party cls n) = .drop .staleBundle) ∧
      (a.floor.getD 0 < n → v (.bundleFloor i party cls n) =
        .write [.assocFloor i (writesSecond (s.array.assocs[i]).floor) n]))
  arm : ∀ record : ArmRecord, let m := s.monitor
    ((∃ input l, inputGet record input = some l ∧ inputGet m.debounced input ≠ some l) →
      v (.armRecord record) = .drop .notMatching) ∧
    ((∀ input l, inputGet record input = some l → inputGet m.debounced input = some l) →
      v (.armRecord record) = .write
        [if m.armLost then .arm false ⟨record, 0⟩ else .arm (!m.armSecond) ⟨record, (m.armCount + 1) % 4294967296⟩])
  cellRepair : ∀ slot c,
    ((slotOf s slot).quarantined = true ∨ cellOf (slotOf s slot) c ≠ none →
      ∃ reason, v (.cellRepair slot c) = .drop reason) ∧
    ((slotOf s slot).quarantined = false → cellOf (slotOf s slot) c = none →
      v (.cellRepair slot c) = .write [.cellBody slot c .empty])
  floorRepair : ∀ slot,
    ((slotOf s slot).quarantined = true → ∃ reason, v (.floorRepair slot) = .drop reason) ∧
    ((slotOf s slot).quarantined = false → v (.floorRepair slot) =
      .write [.floor slot (writesSecond (s.array.slots[slot]).floor) (slotOf s slot).floor])

/-- The slot becomes this image in all that the array says of it and in its quarantine mark. -/
def SlotBecomes (t : State) (slot : Fin 32) (img : SlotImg) : Prop :=
  slotCore (slotOf t slot) = slotCore img ∧ (slotOf t slot).quarantined = img.quarantined

/-- The entries of a slot that `p` selects by their generation are discarded with a cause: what is left of them is pinned or FILLING
and carries the cause or one above it, and no fill of them waits for room (R85, R91, R93). -/
def Discarded (t : State) (slot : Fin 32) (p : Nat → Prop) (w : Withhold) : Prop :=
  (∀ e ∈ t.cache.entries, e.slot = slot → p e.gen → (e.pinPort = true ∨ e.pinRenewal = true ∨ e.filling = true) ∧
    ∃ cause, e.withhold = some cause ∧ causeRank w ≤ causeRank cause) ∧
  ∀ x ∈ t.cache.waits, x.slot = slot → ¬p x.gen

/-- The queue holds no RESERVE and no HIGHWATER for a cell (R23). -/
def NoCounterJob (t : State) (slot : Fin 32) (c : CellId) : Prop :=
  ∀ j ∈ t.writer.queue, ∀ gen v, j.job ≠ .reserve slot c gen v ∧ j.job ≠ .highWater slot c gen v

/-- The generation in a cell of a slot has left it: where no cell of the slot holds its number, its entries are discarded with cause
RETIRED; its counter jobs go (R15, R23, R93). -/
def GenLeft (t : State) (slot : Fin 32) (c : CellId) (gen : Nat) : Prop :=
  (cellHolding (slotOf t slot) gen = none → Discarded t slot (· = gen) .retired) ∧ NoCounterJob t slot c

/-- A dirty entry is flush-requested, or its h is on its way in a queued HIGHWATER and it is clean (R88). -/
def Flushing (t : State) (e : Entry) : Prop :=
  { e with flushReq := true } ∈ t.cache.entries ∨
  { e with flushReq := false, dirty := false } ∈ t.cache.entries ∧
    ∃ j ∈ t.writer.queue, ∃ gen v, j.job = .highWater e.slot e.cell gen v ∧ e.h ≤ v

/-- One entry for a slot and generation (R77). -/
def OneEntryEach (s : State) : Prop := (s.cache.entries.map fun e => (e.slot, e.gen)).Nodup

/-- What holds of those who hold entries in every state that a run reaches: an UNPROTECT whose trial entry has taken a cause while it
waits on its frame job has that job granted, since it would have gone on or been answered otherwise (R99, R108); a fill on the Renewal
Engine's line is that of a FILLING entry (R80, R81); a FILLING entry has no role (R80); and what the Port Executor pins, or waits for a
place for, is the entry of the UNPROTECT's trial, since it holds one pin at a time (R85, R108). -/
structure HoldersInOrder (s : State) : Prop where
  granted : ∀ op, s.port.exec = .unprotect op → op.stage = .frame → causeOf s op.slot op.trial.gen ≠ none → portJobGranted s = true
  fills : ∀ slot c gen, s.engine.renewalLine = some (.fill slot c gen) →
    ∀ e ∈ s.cache.entries, e.slot = slot → e.gen = gen → e.filling = true
  roles : ∀ e ∈ s.cache.entries, e.filling = true → e.role = none
  pins : ∀ op, s.port.exec = .unprotect op → ∀ e ∈ s.cache.entries, e.pinPort = true → e.slot = op.slot ∧ e.gen = op.trial.gen
  waits : ∀ op, s.port.exec = .unprotect op → ∀ x ∈ s.cache.waits, x.port = true → x.slot = op.slot ∧ x.gen = op.trial.gen

/-- What becomes of the previous current generation's ACTIVE entry where it is kept as overlap, and of the new one's VERIFY_ONLY
entry (R92): the one is ACCEPT_ONLY and keeps n and its reservation-pending flag only for a PROTECT that holds it, the other is ACTIVE
with its start point (R42). Neither h nor the flags of h change. -/
def RolesMove (s t : State) (slot : Fin 32) (c : CellId) (x : CellImg) (previous : Option Nat) : Prop :=
  (∀ g e, previous = some g → findEntry s slot g = some e → e.role = some .active → e.withhold = none →
    ∃ e', findEntry t slot g = some e' ∧ e'.role = some .acceptOnly ∧ e'.key = e.key ∧ e'.h = e.h ∧ e'.dirty = e.dirty ∧
      e'.flushReq = e.flushReq ∧
      ((∃ op, s.port.exec = .protect op ∧ op.slot = slot ∧ op.gen = g) → e'.n = e.n ∧ e'.resvPending = e.resvPending) ∧
      ((∀ op, s.port.exec = .protect op → op.slot = slot → op.gen ≠ g) → e'.n = none ∧ e'.resvPending = false)) ∧
  ∀ e, findEntry s slot x.params.generation = some e → e.role = some .verifyOnly → e.withhold = none →
    (cellOf (slotOf t slot) c).map (·.unused) = some false ∧
    ∃ e', findEntry t slot x.params.generation = some e' ∧ e'.role = some .active ∧ e'.key = e.key ∧ e'.h = e.h ∧
      e'.dirty = e.dirty ∧ e'.flushReq = e.flushReq ∧
      e'.n = some (if x.unused then x.params.counterStart else x.ceiling)

/-- What the completion of a queued job changes (R12): each job by its rule, inside its slot or entry and in the cache and the queue,
and nothing that the array says of another slot or entry. -/
structure JobDone (r : Running) (q : QJob) (s t : State) : Prop where
  suspend : ∀ slot, q.job = .suspend slot → SlotBecomes t slot { slotOf s slot with suspended := true }
  resume : ∀ slot, q.job = .resume slot → SlotBecomes t slot { slotOf s slot with suspended := false }
  stage : ∀ slot b g f, q.job = .stage slot b g f →
    let img := slotOf s slot
    let new : CellImg := ⟨g.params, none, min (g.params.counterStart + g.params.counterStep) 4294967295, f, true, none⟩
    (slotOf t slot).graceProgress = 0 ∧
    (r.bothCells = true → (slotOf t slot).cellA = some new ∧
      SlotBecomes t slot
        { img with floor := g.params.generation, cellA := some new, cellB := none, quarantined := false } ∧
      (q.port = false → NoCounterJob t slot .a ∧ NoCounterJob t slot .b)) ∧
    (r.bothCells = false → ∀ c, StagesInto { img with quarantined := false } c →
      cellOf (slotOf t slot) c = some new ∧
      SlotBecomes t slot { setCell img c (some new) with floor := g.params.generation, quarantined := false } ∧
      ∀ x, cellOf img c = some x → (q.port = false → GenLeft t slot c x.params.generation) ∧
        (roleIn img c = some .overlap → Notice.overlapEnded slot x.params.generation .superseded ∈ t.notices))
  activate : ∀ slot c x, q.job = .activate slot x.params.generation → genWith (slotOf s slot) .staged = some (c, x) →
    let img := slotOf s slot
    let gen := x.params.generation
    let new (stamp : Nat) : Option CellImg := some { x with activation := some ⟨stamp, r.hour⟩ }
    let roles (previous : Option Nat) : Prop := OneEntryEach s → s.device ≠ .faulted →
      (q.port = true → ∃ op, s.port.exec = .activate op) → RolesMove s t slot c x previous
    (slotOf t slot).graceProgress = 0 ∧ (cellOf (slotOf t slot) c).map (·.wear) = some (some 0) ∧
    (genWith img .current = none → SlotBecomes t slot (setCell img c (new 1)) ∧
      Notice.activated slot gen none false ∈ t.notices ∧ roles none) ∧
    ∀ p y a, genWith img .current = some (p, y) → y.activation = some a →
      (0 < x.params.graceHours ∨ 0 < x.params.graceCount →
        SlotBecomes t slot (setCell img c (new (a.stamp + 1))) ∧
        Notice.activated slot gen (some y.params.generation) true ∈ t.notices ∧
        (y.params.generation ≠ gen → roles (some y.params.generation))) ∧
      (x.params.graceHours = 0 → x.params.graceCount = 0 →
        SlotBecomes t slot (setCell (setCell img p none) c (new (a.stamp + 1))) ∧
        Notice.activated slot gen (some y.params.generation) false ∈ t.notices ∧
        (y.params.generation ≠ gen → HoldersInOrder s → roles none) ∧ GenLeft t slot p y.params.generation)
  overlapEnd : ∀ slot c x cause, q.job = .overlapEnd slot x.params.generation cause →
    genWith (slotOf s slot) .overlap = some (c, x) →
    (slotOf t slot).graceProgress = 0 ∧ SlotBecomes t slot (setCell (slotOf s slot) c none) ∧
    Notice.overlapEnded slot x.params.generation cause ∈ t.notices ∧
    (q.port = false → GenLeft t slot c x.params.generation)
  revoke : ∀ slot unbind, q.job = .revokeSlot slot unbind →
    let img := slotOf s slot
    SlotBecomes t slot { img with
      binding := if unbind then none else img.binding, cellA := none, cellB := none, quarantined := false } ∧
    (slotOf t slot).graceProgress = 0 ∧ (slotOf t slot).actDue = none ∧ (slotOf t slot).ovlDue = none ∧
    (q.port = false → Discarded t slot (fun _ => True) .erased ∧ NoCounterJob t slot .a ∧ NoCounterJob t slot .b)
  header : ∀ slot b p m, q.job = .header slot b p m →
    SlotBecomes t slot { slotOf s slot with binding := b, policy := p, mode := m } ∧
    ((slotOf s slot).mode = .writeBack → m = .writeThrough → OneEntryEach s → q.port = false → s.device ≠ .faulted →
      ∀ e ∈ s.cache.entries, e.slot = slot → e.dirty = true → Flushing t e)
  reserve : ∀ slot c gen v x, q.job = .reserve slot c gen v → cellOf (slotOf s slot) c = some x →
    SlotBecomes t slot (setCell (slotOf s slot) c (some { x with ceiling := max x.ceiling v })) ∧
    (q.port = false → s.device ≠ .faulted → ∀ e, findEntry s slot gen = some e →
      findEntry t slot gen = some { e with resvPending := false })
  highWater : ∀ slot c gen v x, q.job = .highWater slot c gen v → cellOf (slotOf s slot) c = some x →
    SlotBecomes t slot (setCell (slotOf s slot) c (some { x with highWater := max x.highWater v })) ∧
    (q.port = false → s.device ≠ .faulted → ∀ e, findEntry s slot gen = some e →
      findEntry t slot gen = some (if e.h = v then { e with dirty := false, flushReq := false } else e))
  hour : q.job = .hour → t.writer.nextStrip = s.writer.nextStrip + 1
  emptied : ∀ i, q.job = .association i .empty → assocOf t i = .blank (assocOf s i).floor
  enrol : ∀ i party cls choices, q.job = .association i (.enrol party cls choices) → ∃ new, Resolves s i choices new ∧
    assocOf t i = ⟨.active, some (party, cls), new, some ((assocOf s i).floor.getD 0)⟩
  bundleFloor : ∀ i p c v, q.job = .bundleFloor i p c v → assocOf t i = { assocOf s i with floor := some v }
  arm : ∀ record, q.job = .armRecord record → t.monitor.arm = record ∧ t.monitor.armLost = false ∧
    (s.monitor.armLost = true → t.monitor.armSecond = false ∧ t.monitor.armCount = 0) ∧
    (s.monitor.armLost = false → t.monitor.armSecond = !s.monitor.armSecond ∧
      t.monitor.armCount = (s.monitor.armCount + 1) % 4294967296)
  noArm : (∀ record, q.job ≠ .armRecord record) → t.monitor = s.monitor
  otherSlots : ∀ i, jobSlot q.job ≠ some i ∨ (∃ c, q.job = .cellRepair i c) ∨ q.job = .floorRepair i →
    SlotBecomes t i (slotOf s i)
  otherEntries : ∀ i, (∀ form, q.job ≠ .association i form) → (∀ p c v, q.job ≠ .bundleFloor i p c v) →
    assocOf t i = assocOf s i

/-! ### Room (R178) -/

/-- The queue after a RESERVE or HIGHWATER has been asked for: the queued job of its kind, slot and cell is raised to its value and
takes on its waiter, or else it joins the tail of a queue with a free place (R177). -/
def Asked (queue : List QJob) (q : QJob) (after : List QJob) : Prop :=
  let raised (v : Nat) : StoreJob → StoreJob
    | .reserve i c g w => .reserve i c g (max w v)
    | .highWater i c g w => .highWater i c g (max w v)
    | j => j
  let value : Nat := match q.job with
    | .reserve _ _ _ v | .highWater _ _ _ v => v
    | _ => 0
  ((∃ x ∈ queue, counterKeyOf x.job = counterKeyOf q.job) ∧
    after = queue.map fun x =>
      if counterKeyOf x.job = counterKeyOf q.job then
        { x with job := raised value x.job, port := x.port || q.port, holdFlush := x.holdFlush || q.holdFlush }
      else x) ∨
  (∀ x ∈ queue, counterKeyOf x.job ≠ counterKeyOf q.job) ∧ queue.length < 8 ∧ after = queue ++ [q]

/-- The entries with those of a slot and generation changed. -/
def changed (entries : List Entry) (slot : Fin 32) (gen : Nat) (f : Entry → Entry) : List Entry :=
  entries.map fun e => if e.slot = slot ∧ e.gen = gen then f e else e

/-- The command in flight waits for room and its job finds a place (R44, R86, R157): it waits on the job from then on. -/
def ServesCommand (s t : State) : Prop :=
  match s.port.exec with
  | .protect op => op.stage = .room ∧ ∃ x queue, cellOf (slotOf s op.slot) op.cell = some x ∧
      Asked s.writer.queue
        ⟨.reserve op.slot op.cell op.gen (min (x.ceiling + x.params.counterStep) 4294967295), none, true, false⟩ queue ∧
      t = { s with
        writer := { s.writer with queue := queue }
        port := { s.port with exec := .protect { op with stage := .reserve } }
        cache := { s.cache with
          entries := changed s.cache.entries op.slot op.gen fun e => { e with resvPending := true } } }
  | .unprotect op => op.stage = .room ∧ ∃ queue,
      Asked s.writer.queue ⟨.highWater op.slot op.cell op.trial.gen op.counter, none, true, false⟩ queue ∧
      t = { s with
        writer := { s.writer with queue := queue }
        port := { s.port with exec := .unprotect { op with stage := .high } }
        cache := { s.cache with
          entries := changed s.cache.entries op.slot op.trial.gen fun e => { e with dirty := false } } }
  | .activate op => op.stage = .room ∧ s.writer.queue.length < 8 ∧
      t = { s with
        writer := { s.writer with queue := s.writer.queue ++ [⟨.activate op.slot op.gen, none, true, false⟩] }
        port := { s.port with exec := .activate { op with stage := .store } } }
  | .free | .handed .. | .hold _ => False

/-- An entry that can be evicted: READY, unpinned, without a cause (R84, R91). -/
def CanGo (e : Entry) : Prop := e.filling = false ∧ e.pinPort = false ∧ e.pinRenewal = false ∧ e.withhold = none

/-- The entries and the queue after a place for a fill has been found: a free one, or that of the least recently taken entry that can
be evicted, whose h is on its way where the array lacks it (R80, R84, R85). -/
def PlaceFound (s : State) (entries : List Entry) (queue : List QJob) : Prop :=
  (s.cache.entries.length < 6 ∧ entries = s.cache.entries ∧ queue = s.writer.queue) ∨
  6 ≤ s.cache.entries.length ∧ ∃ newer v older, s.cache.entries = newer ++ v :: older ∧ CanGo v ∧ (∀ x ∈ older, ¬CanGo x) ∧
    entries = s.cache.entries.filter (fun e => !(e.slot == v.slot && e.gen == v.gen)) ∧
    (v.dirty = false ∧ v.flushReq = false ∧ queue = s.writer.queue ∨
      (v.dirty = true ∨ v.flushReq = true) ∧
        Asked s.writer.queue ⟨.highWater v.slot v.cell v.gen v.h, none, false, false⟩ queue)

/-- The first waiting fill of the Port Executor, or the first of the Renewal Engine alone, finds a place: its entry is placed FILLING
at the most recent end with its holders' pins and its unwrap job is requested on its line, granted at once where the engine is free and
the other line empty (R80, R85; log entry 13). -/
def ServesFill (forPort : Bool) (s t : State) : Prop :=
  ∃ before w after entries queue, s.cache.waits = before ++ w :: after ∧ w.port = forPort ∧
    (∀ x ∈ before, x.port ≠ forPort) ∧ PlaceFound s entries queue ∧
    t.cache.entries = ⟨w.slot, w.cell, w.gen, true, none, [], none, 0, false, false, false, w.port, w.renewal, none⟩ :: entries ∧
    t.cache.waits = s.cache.waits.filter (fun x => !(x.slot == w.slot && x.gen == w.gen)) ∧ t.cache.bars = s.cache.bars ∧
    t.writer.queue = queue ∧ t.writer.job = s.writer.job ∧ lineOf t (otherReq w.line) = lineOf s (otherReq w.line) ∧
    (s.engine.job = none → lineOf s (otherReq w.line) = none →
      t.engine.job = some ⟨w.line, .fill w.slot w.cell w.gen, false⟩ ∧ t.engine.last = w.line ∧ lineOf t w.line = none) ∧
    (s.engine.job ≠ none ∨ lineOf s (otherReq w.line) ≠ none →
      t.engine.job = s.engine.job ∧ t.engine.last = s.engine.last ∧ lineOf t w.line = some (.fill w.slot w.cell w.gen)) ∧
    t.slots = s.slots ∧ t.port = s.port ∧ t.renewal = s.renewal ∧ t.array = s.array ∧ t.notices = s.notices

/-- The first flush-requested entry without a cause, from the most recent end, whose HIGHWATER finds a place: the job carries its h, and
is marked for the hold flush while a HOLD waits; the entry's flags clear (R88, R89). -/
def ServesFlush (s t : State) : Prop :=
  ∃ newer e older queue, s.cache.entries = newer ++ e :: older ∧
    let holds : Bool := match s.port.exec with | .hold _ => true | _ => false
    let job (x : Entry) : QJob := ⟨.highWater x.slot x.cell x.gen x.h, none, false, holds⟩
    e.flushReq = true ∧ e.withhold = none ∧ Asked s.writer.queue (job e) queue ∧
    (∀ x ∈ newer, x.flushReq = true → x.withhold = none → ∀ after, ¬Asked s.writer.queue (job x) after) ∧
    t = { s with
      writer := { s.writer with queue := queue }
      cache := { s.cache with
        entries := changed s.cache.entries e.slot e.gen fun e => { e with flushReq := false, dirty := false } } }

/-- A job of this kind is queued or in progress. -/
def OnItsWay (s : State) (p : StoreJob → Prop) : Prop :=
  (∃ q ∈ s.writer.queue, p q.job) ∨ ∃ r q, s.writer.job = some r ∧ r.task = .queued q ∧ p q.job

/-- A slot's marks call for a job, and its image with that mark clear: its repairs, cell A before cell B before the floor (log
entry 59), then its activation, then its overlap end, where their conditions hold and no such job is on its way (R25, R26, R27, R178,
R188). -/
def MarkCalls (s : State) (i : Fin 32) (job : StoreJob) (after : SlotImg) : Prop :=
  let img := slotOf s i
  let noRepair := img.repairA = false ∧ img.repairB = false ∧ img.repairFloor = false
  let activation (g : Nat) : Prop := img.actDue = some g ∧ genNumber img .staged = some g ∧ ¬OnItsWay s (· = .activate i g)
  (img.repairA = true ∧ job = .cellRepair i .a ∧ after = { img with repairA := false }) ∨
  (img.repairA = false ∧ img.repairB = true ∧ job = .cellRepair i .b ∧ after = { img with repairB := false }) ∨
  (img.repairA = false ∧ img.repairB = false ∧ img.repairFloor = true ∧ job = .floorRepair i ∧
    after = { img with repairFloor := false }) ∨
  (noRepair ∧ ∃ g, activation g ∧ job = .activate i g ∧ after = { img with actDue := none }) ∨
  noRepair ∧ (∀ g, ¬activation g) ∧ ∃ g cause, img.ovlDue = some (g, cause) ∧ genNumber img .overlap = some g ∧
    ¬OnItsWay s (fun j => ∃ c, j = .overlapEnd i g c) ∧ job = .overlapEnd i g cause ∧ after = { img with ovlDue := none }

/-- Nobody waits for room, whatever the command in flight waits for: no fill, no job that a mark of a slot calls for, no job of a STORING
context that is not yet queued, and no HOUR job under the strip-pending mark (R178; the flush requests are entries of their own). -/
structure NoRoomWaiter (s : State) : Prop where
  fills : s.cache.waits = []
  marks : ∀ i job img, ¬MarkCalls s i job img
  contexts : ∀ i ∈ s.renewal.storing, ∀ x ∈ (ctxOf s i).jobs, x.2 = .queued
  strip : s.writer.stripPending = false

/-- What a HOLD waits for, in the conditions that R205 lists; the command in flight is the HOLD itself. -/
structure DrainMet (s : State) : Prop where
  job : s.writer.job = none
  queue : s.writer.queue = []
  tamper : s.writer.tamper = none
  waiters : NoRoomWaiter s
  entries : ∀ e ∈ s.cache.entries, e.dirty = false ∧ e.flushReq = false

/-- The first slot, in slot-number order, whose marks call for a job: the job joins the tail, without a requester, and its mark
clears. -/
def ServesMark (s t : State) : Prop :=
  s.writer.queue.length < 8 ∧ ∃ i job img, MarkCalls s i job img ∧
    (∀ j : Fin 32, j < i → ∀ job img, ¬MarkCalls s j job img) ∧
    t = setSlot { s with writer := { s.writer with queue := s.writer.queue ++ [⟨job, none, false, false⟩] } } i img

/-- The next job of the first STORING context, in the order they became so, that has one not yet queued (R151). -/
def ServesContext (s t : State) : Prop :=
  s.writer.queue.length < 8 ∧ ∃ before i after queued job left, s.renewal.storing = before ++ i :: after ∧
    (∀ j ∈ before, ∀ x ∈ (ctxOf s j).jobs, x.2 = .queued) ∧
    (ctxOf s i).jobs = queued ++ (job, .notQueued) :: left ∧ (∀ x ∈ queued, x.2 = .queued) ∧
    t = setCtx { s with writer := { s.writer with queue := s.writer.queue ++ [⟨job, some i, false, false⟩] } } i
      { ctxOf s i with jobs := queued ++ (job, .queued) :: left }

/-- The strip-pending mark is taken up: the HOUR job joins the tail, unless the queue holds one already, and the mark clears (R37). -/
def ServesHour (s t : State) : Prop :=
  s.writer.stripPending = true ∧
    (((∃ q ∈ s.writer.queue, q.job = .hour) ∧ t = { s with writer := { s.writer with stripPending := false } }) ∨
      (∀ q ∈ s.writer.queue, q.job ≠ .hour) ∧ s.writer.queue.length < 8 ∧
        t = { s with writer := { s.writer with
          queue := s.writer.queue ++ [⟨.hour, none, false, false⟩], stripPending := false } })

/-- How a waiter of each place in the order of R178 is served; the first place has the command before its fill, the model's choice (log
entry 14). -/
def roomOrder : List (State → State → Prop) :=
  [ServesCommand, ServesFill true, ServesFill false, ServesFlush, ServesMark, ServesContext, ServesHour]

end Sys2Proof.Machine
end

