-- ==== Sys2Proof/Certificates/Slice0/Obligations.lean ====
section
/-! DEFINITION. The statements for the provers: what each command does and leaves alone, and the laws every step keeps. -/

open Sys2Proof Sys2Proof.Machine

/-! ### The step and the whole machine -/

/-- A step runs the command at the front of the queue on the state with the queue's rest. -/
def Obligations.StepRunsTheFrontCommand : Prop :=
  ∀ (c : Instr) (rest : List Instr) (s : State), s.pending = c :: rest → step s = exec c { s with pending := rest }

/-- On an empty queue a step is a second of the internal timebase: every running inactivity timer falls by one and nothing else
changes; without supply or under NRST nothing happens. The model's choice (log entry 4). -/
def Obligations.IdleStepCountsTheIntakeTimers : Prop :=
  ∀ s : State, s.pending = [] →
    (running s = true → ∃ t, step s = .next t ∧
      (∀ i, ctxOf t i = { ctxOf s i with timer := (ctxOf s i).timer.map (· - 1) }) ∧
      t = { s with renewal := { s.renewal with ctxs := t.renewal.ctxs } }) ∧
    (running s = false → step s = .next s)

/-- The state after reset is safe. -/
def Obligations.ResetStateIsSafe : Prop := Sys2Proof.Machine.Inv State.reset

/-- Every step from a safe state leads to a safe state: the laws of the job queue (R177), the cache (R77), the flush list (R182),
the Notice Set (R199) and the seconds count (R33). -/
def Obligations.EveryStepKeepsTheSafeStates : Prop :=
  ∀ s t : State, Sys2Proof.Machine.Inv s → step s = .next t → Sys2Proof.Machine.Inv t

/-- The array changes only as a write ends, or as a reset or a loss of power tears the write in hand; no command changes the
identity record (R173, R180). -/
def Obligations.OnlyWritesChangeTheArray : Prop :=
  ∀ (c : Instr) (s t : State), exec c s = .next t →
    t.array.identity = s.array.identity ∧
    (t.array = s.array ∨
      ∃ r w rest, s.writer.job = some r ∧ r.writes = w :: rest ∧
        (t.array = putWrite true s.array w ∨ t.array = putWrite false s.array w) ∧
        ((∃ b, c = .storeWriteReadBack b) ∨ (∃ torn, c = .nrstReset torn) ∨ ∃ torn, c = .powerLoss torn))

/-- What the images say of header, floor and generations of a slot, of the association entries and of the arm record changes only
with a store job or a reset (R1, R12, R59, R160). -/
def Obligations.ImagesChangeOnlyWithStoreJobsOrResets : Prop :=
  ∀ (c : Instr) (s t : State), exec c s = .next t → isReset c = false → c ≠ .jobTake →
    (∀ b, c ≠ .storeWriteReadBack b) →
    (∀ i, slotCore (slotOf t i) = slotCore (slotOf s i)) ∧ t.assocs = s.assocs ∧ t.monitor.arm = s.monitor.arm ∧
      t.monitor.armCount = s.monitor.armCount ∧ t.monitor.armLost = s.monitor.armLost

/-- LOADING is entered and FAULTED is left by nothing but a reset (R184, R207). -/
def Obligations.OnlyResetsEnterLoadingOrLeaveFaulted : Prop :=
  ∀ (c : Instr) (s t : State), exec c s = .next t → isReset c = false →
    (t.device = .loading → s.device = .loading) ∧ (s.device = .faulted → t.device = .faulted)

/-- Between resets the service hour never falls, and rises by at most one at an edge on STICK (R36). -/
def Obligations.ServiceHourNeverFalls : Prop :=
  ∀ (c : Instr) (s t : State), exec c s = .next t → isReset c = false →
    s.clock.hour ≤ t.clock.hour ∧ t.clock.hour ≤ s.clock.hour + 1 ∧
    (c ≠ .stickEdge → c ≠ .hourBoundary → t.clock = s.clock)

/-! ### Resets and loading -/

/-- NRST_RESET and POWER_LOSS clear all volatile state, the slot and association images and the mark of tamper work among it, in
every state; a write in hand is left torn (R180, R193). The model's own choices in it: the service hour, which R33 calls undefined
before the loader has run, reads 0 (log entry 35), the next strip position, which R176 leaves to the loader, reads 0 (log entry 61),
the images read as nothing built (log entry 17), what the torn write leaves is an operand (log entry 8), and the commands that wait
stay (log entry 43). -/
def Obligations.ResetsClearTheVolatileState : Prop :=
  ∀ (torn : Torn) (s : State),
    let nothingLeft (t : State) : Prop := Cleared t ∧ t.array = tornArray torn s ∧ t.pending = s.pending ∧
      t.monitor = Monitor.reset ∧ t.loadTamper = false ∧ (∀ i, slotOf t i = .blank) ∧ ∀ i, assocOf t i = .blank none
    (∃ t, exec (.nrstReset torn) s = .next t ∧ nothingLeft t ∧ t.pins = { s.pins with nrst := true }) ∧
    ∃ t, exec (.powerLoss torn) s = .next t ∧ nothingLeft t ∧ t.pins = { s.pins with supply := false }

/-- At the release of NRST, and at a power-on reset with NRST released, the loader builds the slots and the service hour from an
array with a valid identity record, as `Loaded` says, with the repair marks and the next strip position; with an invalid one the
device is FAULTED and LOAD_COMPLETE says so with counts of 0 (R6, R39, R185 to R188, R192). That the next write goes after the
lowest of several positions with the greatest value is the model's choice (log entry 27). With NRST held, a power-on reset leaves
the part cleared: the model's choice (log entry 17), with a service hour that R33 calls undefined there (log entry 35) and a next
strip position (log entry 61) that read as 0. Three more are that the activation part still stored in an emptied cell does not count
for the service hour (log entry 44), that with an invalid identity record no lost arm record is reported (log entry 12), and that a
valid cell body counts for the floor also where its cell's counters are unknown (log entry 62). -/
def Obligations.LoaderBuildsTheImagesOrFaults : Prop :=
  ∀ s : State,
    (s.pins.nrst = true → ∃ t, exec .powerOnReset s = .next t ∧ Cleared t ∧ t.array = s.array) ∧
    (s.array.identity ≠ none →
      (s.pins.supply = true → s.pins.nrst = true → ∃ t, exec .nrstRelease s = .next t ∧ Loaded s.array t) ∧
      (s.pins.nrst = false → ∃ t, exec .powerOnReset s = .next t ∧ Loaded s.array t)) ∧
    (s.array.identity = none →
      (s.pins.supply = true → s.pins.nrst = true → ∃ t, exec .nrstRelease s = .next t ∧ t.device = .faulted ∧
        t.notices = [.loadComplete .faulted 0 0 false false] ∧ t.array = s.array) ∧
      (s.pins.nrst = false → ∃ t, exec .powerOnReset s = .next t ∧ t.device = .faulted ∧
        t.notices = [.loadComplete .faulted 0 0 false false] ∧ t.array = s.array))

/-- The loader takes every association entry with its damage and its conflicts, the copy of the arm record in force, and hands over
the tamper work that a reset interrupted, as `LoadedRest` says (R60, R160, R170, R190): a stored ACTIVE entry with a known floor is
ACTIVE exactly where no lower entry conflicts with it, and DAMAGED without identifier and class otherwise (Table 3-1); each slot is
named by at most one pair, a shared one leaving the pair of the higher entry (R63). That an entry
made DAMAGED by a shared slot is no longer ACTIVE for the identifiers of later ones, and that an entry which names one slot twice loses
the later role and keeps its state, are the model's readings, and so is that a conflict leaves an entry its other bindings, and identifier
and class where its unknown floor has made it DAMAGED already (log entry 27), and that a stored EMPTY entry stays EMPTY where its floor
is unknown (log entry 63). -/
def Obligations.LoaderTakesEntriesArmAndTamperWork : Prop :=
  ∀ s : State, s.array.identity ≠ none →
    (s.pins.supply = true → s.pins.nrst = true → ∃ t, exec .nrstRelease s = .next t ∧ LoadedRest s.array t) ∧
    (s.pins.nrst = false → ∃ t, exec .powerOnReset s = .next t ∧ LoadedRest s.array t)

/-- The device leaves LOADING once no tamper work is left: for SERVING, or for a power-fail hold with PFAIL asserted, and what the
loader built stands (R191). LOAD_COMPLETE is raised with the device state, the counts of QUARANTINED slots and DAMAGED entries, and
whether the arm record was lost and tamper work was carried out (R192). Every current and overlap generation has its wear from the
restored hour (R56). Of a slot outside quarantine the loader marks the staged generation of rule IMMEDIATE, or of an hour that has
come, and the overlap whose current generation has both grace fields 0 or grace hours that have run, with cause TIME, and no other
(R189); a mark, and a repair mark too, stands in the hold and until its job is queued in SERVING (R188). -/
def Obligations.LeavingLoadingServesOrHolds : Prop :=
  ∀ s : State, running s = true → s.device = .loading → s.writer.job = none → s.writer.tamper = none →
    ∃ t, exec .leaveLoading s = .next t ∧ t.device = (if s.pins.pfail then .holding .power else .serving) ∧
      t.clock = s.clock ∧ t.array = s.array ∧ (∀ i, slotCore (slotOf t i) = slotCore (slotOf s i)) ∧
      t.assocs = s.assocs ∧ t.monitor = s.monitor ∧
      Notice.loadComplete t.device (quarantinedCount s) (damagedCount s) s.monitor.armLost s.loadTamper ∈ t.notices ∧
      (s.pins.pfail = true → t.writer.queue = s.writer.queue) ∧
      (∀ i c x a, cellOf (slotOf s i) c = some x → x.activation = some a →
        (cellOf (slotOf t i) c).bind (·.wear) =
          some (wearFigure x.params (usePoint s i c x) (s.clock.hour - a.hour))) ∧
      let queued (j : StoreJob) : Prop := t.device = .serving ∧ ∃ q ∈ t.writer.queue, q.job = j
      (∀ i, (slotOf s i).quarantined = false →
        (∀ c x, genWith (slotOf s i) .staged = some (c, x) →
          let due := x.params.rule = .immediate ∨ ∃ h, x.params.rule = .atHour h ∧ h ≤ s.clock.hour
          (due → (slotOf t i).actDue = some x.params.generation ∨ queued (.activate i x.params.generation)) ∧
          (¬due → (slotOf t i).actDue = none)) ∧
        ∀ c x a k, genWith (slotOf s i) .current = some (c, x) → x.activation = some a →
          genNumber (slotOf s i) .overlap = some k →
          let due := x.params.graceHours = 0 ∧ x.params.graceCount = 0 ∨
            0 < x.params.graceHours ∧ x.params.graceHours ≤ s.clock.hour - a.hour
          (due → (slotOf t i).ovlDue = some (k, .time) ∨ queued (.overlapEnd i k .time)) ∧
          (¬due → (slotOf t i).ovlDue = none)) ∧
      ∀ i, (∀ c, (repairOf (slotOf s i) c = true → repairOf (slotOf t i) c = true ∨ queued (.cellRepair i c)) ∧
          (repairOf (slotOf s i) c = false → repairOf (slotOf t i) c = false)) ∧
        ((slotOf s i).repairFloor = true → (slotOf t i).repairFloor = true ∨ queued (.floorRepair i)) ∧
        ((slotOf s i).repairFloor = false → (slotOf t i).repairFloor = false)

/-! ### Transfers -/

/-- A direction byte fixes its transfer as the executor stands; a write that begins while the executor is free discards the
retained response and clears the overrun marker, one that begins while it executes sets the marker (R193 to R195). A read transfer
sends the retained response, NO_RESPONSE without one, and NOT_READY with the overrun marker while the executor was executing at its
direction byte; the response stays (R195, R196). A transfer with an invalid direction byte drives PDO low and changes nothing else
(R193). -/
def Obligations.TransfersFollowTheirDirection : Prop :=
  (∀ (d : Byte) (s : State), running s = true → s.port.transfer = none →
      (d = 1#8 → s.port.exec = .free → exec (.directionByteReceived d) s = .next { s with port := { s.port with
        overrun := false, retained := none, rx := [], rxCount := 0, transfer := some ⟨.write, false⟩ } }) ∧
      (d = 1#8 → s.port.exec ≠ .free → exec (.directionByteReceived d) s = .next { s with port := { s.port with
        overrun := true, transfer := some ⟨.write, true⟩ } }) ∧
      (d = 2#8 → exec (.directionByteReceived d) s = .next { s with port := { s.port with
        transfer := some ⟨.read, decide (s.port.exec ≠ .free)⟩ } }) ∧
      (d ≠ 1#8 → d ≠ 2#8 → exec (.directionByteReceived d) s = .next { s with port := { s.port with
        transfer := some ⟨.invalid, decide (s.port.exec ≠ .free)⟩ } })) ∧
  ∀ (count : Nat) (s : State), running s = true →
      (s.port.transfer = some ⟨.read, true⟩ → exec (.readTransfer count) s = .next { s with port := { s.port with
        transfer := none, pdo := clocked count (frameBytes ⟨.notReady, s.port.overrun, []⟩) } }) ∧
      (∀ r, s.port.transfer = some ⟨.read, false⟩ → s.port.retained = some r →
        exec (.readTransfer count) s = .next { s with port := { s.port with
          transfer := none, pdo := clocked count (frameBytes r) } }) ∧
      (s.port.transfer = some ⟨.read, false⟩ → s.port.retained = none →
        exec (.readTransfer count) s = .next { s with port := { s.port with
          transfer := none, pdo := clocked count [0x02#8, 0#8, 0#8, 0#8] } }) ∧
      ∀ (d : Byte) (busy : Bool), d ≠ 1#8 → d ≠ 2#8 →
        (s.port.transfer = none ∨ s.port.transfer = some ⟨.invalid, busy⟩) →
        exec (.invalidDirectionTransfer d count) s =
          .next { s with port := { s.port with transfer := none, pdo := List.replicate count 0#8 } }

/-- A write transfer whose frame passes the checks hands its request to the executor: any request in SERVING, IDENTIFY and
READ NOTICES in every state; in a command hold any other request ends the hold (R194, R197). -/
def Obligations.WriteTransferHandsTheRequestOver : Prop :=
  ∀ (bytes : List Byte) (c : Cmd) (s : State), running s = true → s.port.transfer = some ⟨.write, false⟩ →
    frameCheck bytes.length (bytes.take 303) = .ok c →
    (s.device = .serving ∨ c = .identify ∨ c = .readNotices →
      exec (.writeTransfer bytes) s = .next { s with port := { s.port with
        rx := bytes.take 303, rxCount := bytes.length, transfer := none,
        exec := .handed c ((bytes.take 303).drop 3) } }) ∧
    (s.device = .holding .command → c ≠ .identify → c ≠ .readNotices →
      ∃ t, exec (.writeTransfer bytes) s = .next t ∧ t.device = .serving ∧
        t.port.exec = .handed c ((bytes.take 303).drop 3) ∧ t.array = s.array ∧ t.clock = s.clock)

/-- A write transfer whose frame fails a check, or whose request the device state refuses, is answered at once and changes nothing
but the port (R194, R197); one received while the executor was executing is discarded (R195). The checks are, in order: the length
field, the command code, and the body length of Table 10-5. -/
def Obligations.RefusedRequestsChangeOnlyThePort : Prop :=
  ∀ (bytes : List Byte) (s : State), running s = true →
    (s.port.transfer = some ⟨.write, true⟩ →
      exec (.writeTransfer bytes) s = .next { s with port := { s.port with transfer := none } }) ∧
    (s.port.transfer = some ⟨.write, false⟩ →
      let u := { s with port := { s.port with rx := bytes.take 303, rxCount := bytes.length, transfer := none } }
      let n := fieldNat (bytes.take 303) 1 2
      (bytes.length < 3 ∨ bytes.length ≠ 3 + n → exec (.writeTransfer bytes) s = .next (respond .badLength [] u)) ∧
      (bytes.length = 3 + n → cmdOfCode (u8 (fieldNat (bytes.take 303) 0 1)) = none →
        exec (.writeTransfer bytes) s = .next (respond .unknownCommand [] u)) ∧
      (∀ c, bytes.length = 3 + n → cmdOfCode (u8 (fieldNat (bytes.take 303) 0 1)) = some c →
        n < (bodyRange c).1 ∨ (bodyRange c).2 < n → exec (.writeTransfer bytes) s = .next (respond .badLength [] u)) ∧
      ∀ c, frameCheck bytes.length (bytes.take 303) = .ok c → c ≠ .identify → c ≠ .readNotices →
        (s.device = .loading → exec (.writeTransfer bytes) s = .next (respond .notLoaded [] u)) ∧
        (s.device = .holding .power → exec (.writeTransfer bytes) s = .next (respond .powerFailing [] u)) ∧
        (s.device = .faulted → exec (.writeTransfer bytes) s = .next (respond .faulted [] u)))

/-! ### Commands that read -/

/-- IDENTIFY answers its 21-byte record and changes nothing (R198). READ NOTICES removes up to 16 notices, oldest first, and answers
them with their count (R200). -/
def Obligations.IdentifyAndReadNoticesAnswer : Prop :=
  (∀ (body : List Byte) (s : State), Handed .identify body s →
      ∃ title present revision,
        (∀ id, s.array.identity = some id → title = be64 id.title ∧ present = 1#8 ∧ revision = id.revision) ∧
        (s.array.identity = none → title = be64 0#64 ∧ present = 0#8) ∧
        exec .identify s = .next (respond .ok (title ++ [present, revision, deviceByte s.device, holdCauseByte s.device,
          u8 (quarantinedCount s), u8 (damagedCount s), yesNo s.monitor.armLost, yesNo (!s.monitor.matching),
          levelByte s.monitor.debounced.mainCover, levelByte s.monitor.debounced.terminalCover,
          levelByte s.monitor.debounced.magnetField, levelByte s.monitor.debounced.caseCover, yesNo s.pins.pfail]) s)) ∧
  ∀ (body : List Byte) (s : State), Handed .readNotices body s →
      exec .readNotices s = .next (respond .ok
        (u8 (min 16 s.notices.length) :: (s.notices.take 16).flatMap noticeBytes) { s with notices := s.notices.drop 16 })

/-- The attention line is asserted exactly while a notice is pending, the device is not LOADING and the part runs; it falls when
READ NOTICES takes the last notice, is low under NRST, and is asserted by LOAD_COMPLETE as the device leaves LOADING (R201). That
it is low without supply is the model's (log entry 17). -/
def Obligations.AttnFollowsTheNoticeSet : Prop :=
  ∀ s : State,
    (attn s = true ↔ s.notices ≠ [] ∧ s.device ≠ .loading ∧ running s = true) ∧
    (∀ body, Handed .readNotices body s → s.device ≠ .loading →
      ∃ t, exec .readNotices s = .next t ∧ (attn t = true ↔ 16 < s.notices.length)) ∧
    (running s = true → s.device = .loading → s.writer.job = none → s.writer.tamper = none →
      attn s = false ∧ ∃ t, exec .leaveLoading s = .next t ∧ attn t = true) ∧
    ∀ torn, ∃ t, exec (.nrstReset torn) s = .next t ∧ attn t = false

/-- SLOT QUERY answers any slot, and ASSOCIATION QUERY any index, with its descriptor, refuses other numbers, and changes nothing
else (R29, R75). A slot descriptor has a header part of 11 bytes and 23 bytes for each generation it shows: none for a QUARANTINED
slot, and never more than two (R30, Table 10-7). -/
def Obligations.QueriesAnswerAnyNumberInRange : Prop :=
  ∀ (b : Byte) (s : State),
    (Handed .slotQuery [b] s →
      (∀ i : Fin 32, b.toNat = i.val → exec .slotQuery s = .next (respond .ok (slotDescriptor s i) s)) ∧
      (32 ≤ b.toNat → exec .slotQuery s = .next (respond .badValue [] s))) ∧
    (Handed .associationQuery [b] s →
      (∀ i : Fin 8, b.toNat = i.val → exec .associationQuery s = .next (respond .ok (assocDescriptor s i) s)) ∧
      (8 ≤ b.toNat → exec .associationQuery s = .next (respond .badValue [] s))) ∧
    ∀ i : Fin 32, (slotDescriptor s i).length = 11 + 23 * (shownGenerations (slotOf s i)).length ∧
      (shownGenerations (slotOf s i)).length ≤ 2 ∧
      ((slotOf s i).quarantined = true → (slotDescriptor s i).length = 11)

/-- DIRECTORY FIRST answers the lowest slot that is not VACANT and sets the cursor to it, or END_OF_DIRECTORY; a QUARANTINED slot is
not VACANT, and a reset leaves the cursor before slot 0 (R31). DIRECTORY NEXT answers the lowest slot above the cursor that is not
VACANT, or END_OF_DIRECTORY with the cursor left where it is (R32). -/
def Obligations.DirectoryListsTheSlotsInOrder : Prop :=
  ∀ (body : List Byte) (s : State),
    (Handed .directoryFirst body s →
      (∀ i, phaseOf (slotOf s i) ≠ .vacant → (∀ j, j < i → phaseOf (slotOf s j) = .vacant) →
        exec .directoryFirst s = .next (respond .ok (slotDescriptor s i) (setCursor (some i) s))) ∧
      ((∀ i, phaseOf (slotOf s i) = .vacant) →
        exec .directoryFirst s = .next (respond .endOfDirectory [] (setCursor none s)))) ∧
    (∀ i, (slotOf s i).quarantined = true → phaseOf (slotOf s i) ≠ .vacant) ∧ (Cleared s → s.port.cursor = none) ∧
    (Handed .directoryNext body s →
      (∀ i, phaseOf (slotOf s i) ≠ .vacant → (∀ c, s.port.cursor = some c → c < i) →
        (∀ j, j < i → (∀ c, s.port.cursor = some c → c < j) → phaseOf (slotOf s j) = .vacant) →
        exec .directoryNext s = .next (respond .ok (slotDescriptor s i) (setCursor (some i) s))) ∧
      ((∀ i, (∀ c, s.port.cursor = some c → c < i) → phaseOf (slotOf s i) = .vacant) →
        exec .directoryNext s = .next (respond .endOfDirectory [] s)))

/-! ### Intake -/

/-- RENEW OPEN makes an IDLE context GATHERING for a total length of 48 to 512, refuses another length, and finds any other state
busy; a context number other than 0 and 1 is refused for each command on a context (R115, R116). In LOADING, in a power-fail hold
and in FAULTED each of them is answered by the device state and changes no context, also when it was handed over before the device
came to that state (R131, R132, R197). That this answer comes before the check of the context number and carries no intake report is
the model's choice (log entry 2). -/
def Obligations.RenewOpenOpensAnIdleContext : Prop :=
  ∀ (body : List Byte) (s : State),
    ((s.device = .serving ∨ s.device = .holding .command) →
      (∀ i : Fin 2, Handed .renewOpen body s → fieldNat body 0 1 = i.val →
        ((ctxOf s i).state = .idle → 48 ≤ fieldNat body 1 2 → fieldNat body 1 2 ≤ 512 →
          exec .renewOpen s = .next (report .ok i (setCtx s i
            { Ctx.idle with state := .gathering, total := fieldNat body 1 2, timer := some 120 }))) ∧
        ((ctxOf s i).state = .idle → fieldNat body 1 2 < 48 ∨ 512 < fieldNat body 1 2 →
          exec .renewOpen s = .next (report .badValue i s)) ∧
        ((ctxOf s i).state ≠ .idle → exec .renewOpen s = .next (report .contextBusy i s))) ∧
      (2 ≤ fieldNat body 0 1 →
        (Handed .renewOpen body s → exec .renewOpen s = .next (respond .badValue [] s)) ∧
        (Handed .renewPart body s → exec .renewPart s = .next (respond .badValue [] s)) ∧
        (Handed .renewClose body s → exec .renewClose s = .next (respond .badValue [] s)) ∧
        (Handed .renewResult body s → exec .renewResult s = .next (respond .badValue [] s)) ∧
        (Handed .renewDrop body s → exec .renewDrop s = .next (respond .badValue [] s)))) ∧
    ∀ code, (s.device = .loading ∧ code = .notLoaded ∨ s.device = .holding .power ∧ code = .powerFailing ∨
        s.device = .faulted ∧ code = .faulted) →
      (Handed .renewOpen body s → exec .renewOpen s = .next (respond code [] s)) ∧
      (Handed .renewPart body s → exec .renewPart s = .next (respond code [] s)) ∧
      (Handed .renewClose body s → exec .renewClose s = .next (respond code [] s)) ∧
      (Handed .renewResult body s → exec .renewResult s = .next (respond code [] s)) ∧
      (Handed .renewDrop body s → exec .renewDrop s = .next (respond code [] s))

/-- A new part of the right length is appended; one of another length, or beyond the end, fails the context with LENGTH_MISMATCH
and is not kept (R117, R118). A part one below the next sequence is answered DUPLICATE and reloads the timer alone; a part of any
other number but the next is answered OUT_OF_SEQUENCE and changes nothing (R119, R120). -/
def Obligations.RenewPartGoesByItsSequence : Prop :=
  ∀ (body : List Byte) (i : Fin 2) (s : State), Handed .renewPart body s →
    (s.device = .serving ∨ s.device = .holding .command) → fieldNat body 0 1 = i.val →
    ((ctxOf s i).state ≠ .gathering → exec .renewPart s = .next (report .contextNotGathering i s)) ∧
    ((ctxOf s i).state = .gathering → fieldNat body 1 1 = (ctxOf s i).nextSeq →
      let x := ctxOf s i
      let left := x.total - x.buffer.length
      (0 < left → (body.drop 2).length = min 64 left →
        exec .renewPart s = .next (report .ok i (setCtx s i
          { x with buffer := x.buffer ++ body.drop 2, nextSeq := x.nextSeq + 1, timer := some 120 }))) ∧
      (left = 0 ∨ (body.drop 2).length ≠ min 64 left →
        exec .renewPart s = .next (report .contextFailed i (raise (.renewalFinished i .lengthMismatch) (setCtx s i
          { x with
            state := .failed, timer := none, dropPending := false, fields := { x.fields with receipt := none }
            result := some ⟨.lengthMismatch, { x.fields with receipt := none }⟩, jobs := [] }))))) ∧
    ((ctxOf s i).state = .gathering →
      (fieldNat body 1 1 + 1 = (ctxOf s i).nextSeq →
        exec .renewPart s = .next (report .duplicate i (setCtx s i { ctxOf s i with timer := some 120 }))) ∧
      (fieldNat body 1 1 ≠ (ctxOf s i).nextSeq → fieldNat body 1 1 + 1 ≠ (ctxOf s i).nextSeq →
        exec .renewPart s = .next (report .outOfSequence i s)))

/-- RENEW CLOSE of a GATHERING context with every byte closes it and queues it for verification; with bytes missing the context
fails with LENGTH_MISMATCH; in any other state nothing changes (R123). -/
def Obligations.RenewCloseJudgesTheCount : Prop :=
  ∀ (body : List Byte) (i : Fin 2) (s : State), Handed .renewClose body s →
    (s.device = .serving ∨ s.device = .holding .command) → fieldNat body 0 1 = i.val →
    let x := ctxOf s i
    (x.state ≠ .gathering → exec .renewClose s = .next (report .contextNotGathering i s)) ∧
    (x.state = .gathering → x.total ≤ x.buffer.length → exec .renewClose s = .next (report .ok i
      { setCtx s i { x with state := .closed, timer := none } with renewal :=
        { (setCtx s i { x with state := .closed, timer := none }).renewal with queue := s.renewal.queue ++ [i] } })) ∧
    (x.state = .gathering → x.buffer.length < x.total →
      exec .renewClose s = .next (report .contextFailed i (raise (.renewalFinished i .lengthMismatch) (setCtx s i
        { x with
          state := .failed, timer := none, dropPending := false, fields := { x.fields with receipt := none }
          result := some ⟨.lengthMismatch, { x.fields with receipt := none }⟩, jobs := [] }))))

/-- RENEW RESULT collects the record of a DONE or FAILED context, which becomes IDLE; it answers NO_RESULT for an IDLE one, and the
progress of any other, unchanged (R127). -/
def Obligations.RenewResultCollectsTheRecord : Prop :=
  ∀ (body : List Byte) (i : Fin 2) (s : State), Handed .renewResult body s →
    (s.device = .serving ∨ s.device = .holding .command) → fieldNat body 0 1 = i.val →
    ((ctxOf s i).state = .done ∨ (ctxOf s i).state = .failed →
      exec .renewResult s = .next (respond .ok (resultBody s i) (setCtx s i .idle))) ∧
    ((ctxOf s i).state = .idle → exec .renewResult s = .next (respond .noResult [] s)) ∧
    ((ctxOf s i).state = .gathering ∨ (ctxOf s i).state = .closed ∨ (ctxOf s i).state = .verifying ∨
        (ctxOf s i).state = .storing →
      exec .renewResult s = .next (respond .ok (resultBody s i) s))

/-- RENEW DROP empties a context that is not under verification or storing; a CLOSED one leaves the verification queue; a VERIFYING
one is drop-pending while work is in hand for it and IDLE otherwise; a STORING one is kept (R128, R129). -/
def Obligations.RenewDropGoesByTheState : Prop :=
  ∀ (body : List Byte) (i : Fin 2) (s : State), Handed .renewDrop body s →
    (s.device = .serving ∨ s.device = .holding .command) → fieldNat body 0 1 = i.val →
    ((ctxOf s i).state = .idle → exec .renewDrop s = .next (respond .ok [] s)) ∧
    ((ctxOf s i).state = .gathering ∨ (ctxOf s i).state = .done ∨ (ctxOf s i).state = .failed →
      exec .renewDrop s = .next (respond .ok [] (setCtx s i .idle))) ∧
    ((ctxOf s i).state = .closed → ∃ t, exec .renewDrop s = .next t ∧ ctxOf t i = .idle ∧
      t.renewal.queue = s.renewal.queue.filter (· != i) ∧ t.port = (respond .ok [] s).port ∧ t.notices = s.notices) ∧
    ((ctxOf s i).state = .storing → exec .renewDrop s = .next (respond .storeInProgress [] s)) ∧
    (∀ v, (ctxOf s i).state = .verifying → s.renewal.verif = some v → v.ctx = i →
      (workInHand s = true → exec .renewDrop s = .next (respond .ok [] (setCtx s i
        { ctxOf s i with dropPending := true }))) ∧
      (workInHand s = false → ∃ t, exec .renewDrop s = .next t ∧ ctxOf t i = .idle ∧ t.renewal.verif = none ∧
        t.port = (respond .ok [] s).port ∧ t.notices = s.notices ∧ t.writer.queue = s.writer.queue))

/-- When the timer of a GATHERING context runs out, the context fails with TIMED_OUT; a context with seconds left, also by a RENEW
PART that has just reloaded its timer, and one in any other state see no expiry (R122). That the expiry has effect once the timer
reads 0 is how the model holds its seconds (log entry 4). -/
def Obligations.TimerExpiryFailsAGatheringContext : Prop :=
  ∀ (i : Fin 2) (s : State), running s = true →
    ((ctxOf s i).state = .gathering → (ctxOf s i).timer = some 0 →
      exec (.intakeTimerExpiry i) s = .next (raise (.renewalFinished i .timedOut) (setCtx s i
        { ctxOf s i with
          state := .failed, timer := none, dropPending := false, fields := { (ctxOf s i).fields with receipt := none }
          result := some ⟨.timedOut, { (ctxOf s i).fields with receipt := none }⟩, jobs := [] }))) ∧
    ((ctxOf s i).state ≠ .gathering ∨ (ctxOf s i).timer ≠ some 0 → exec (.intakeTimerExpiry i) s = .next s)

/-! ### Time -/

/-- In SERVING and HOLDING an edge on STICK adds one second, the 3600th taking the hour-boundary event; in LOADING and FAULTED it is
lost (R33, R34): the event raises H by one, the seconds return to 0, and an HOUR job is queued or held by the strip-pending
mark (R37). At its greatest value the service hour stands: the seconds count on and return to 0, nothing else happens, and a
generation activated at that hour has age 0 (R35). That the row HOUR_BOUNDARY is that same edge, without effect at any other moment,
is the model's choice (log entry 16). -/
def Obligations.StickEdgesCountTheHour : Prop :=
  ∀ s : State, running s = true →
    (servingOrHolding s = true → s.clock.seconds < 3599 →
      exec .stickEdge s = .next { s with clock := { s.clock with seconds := s.clock.seconds + 1 } }) ∧
    (servingOrHolding s = true → s.clock.seconds = 3599 → s.clock.hour < 4294967295 →
      ∃ t, exec .stickEdge s = .next t ∧ exec .hourBoundary s = .next t ∧ t.clock = ⟨0, s.clock.hour + 1⟩ ∧
        t.array = s.array ∧ t.device = s.device ∧ t.assocs = s.assocs ∧
        (∀ i, slotCore (slotOf t i) = slotCore (slotOf s i)) ∧
        ((∃ q ∈ t.writer.queue, q.job = .hour) ∨ t.writer.stripPending = true)) ∧
    (servingOrHolding s = true → s.clock.hour = 4294967295 →
      (s.clock.seconds = 3599 → exec .stickEdge s = .next { s with clock := ⟨0, 4294967295⟩ }) ∧
      exec .hourBoundary s = .next s ∧ ∀ x a, x.activation = some a → a.hour = 4294967295 → ageOf s x = 0) ∧
    (servingOrHolding s = false → exec .stickEdge s = .next s)

/-- The hour-boundary event at the 3600th edge: every current and overlap generation outside quarantine has its wear computed anew
(R56), every dirty entry is flush-requested or its h is on its way (R88), and an activation or overlap that is due by the new hour
is marked, or its job is queued or in progress (R25, R26). That an overlap due by time carries the cause TIME also where a mark by
COUNT already stands is the model's choice (log entry 28). -/
def Obligations.HourBoundaryRecomputesFlushesAndMarks : Prop :=
  ∀ s : State, running s = true → servingOrHolding s = true → s.clock.seconds = 3599 → s.clock.hour < 4294967295 →
    ∃ t, exec .stickEdge s = .next t ∧
      (∀ i c x a, (slotOf s i).quarantined = false → cellOf (slotOf s i) c = some x → x.activation = some a →
        (cellOf (slotOf t i) c).bind (·.wear) =
          some (wearFigure x.params (usePoint s i c x) (s.clock.hour + 1 - a.hour))) ∧
      (s.device ≠ .serving →
        t.cache = { s.cache with
          entries := s.cache.entries.map fun e => if e.dirty then { e with flushReq := true } else e } ∧
        t.writer.queue = s.writer.queue) ∧
      (s.device = .serving → (s.cache.entries.map fun e => (e.slot, e.gen)).Nodup →
        ∀ e ∈ s.cache.entries, e.dirty = true → e.withhold = none →
          { e with flushReq := true } ∈ t.cache.entries ∨
          ({ e with flushReq := false, dirty := false } ∈ t.cache.entries ∧
            ∃ q ∈ t.writer.queue, ∃ g v, q.job = .highWater e.slot e.cell g v ∧ e.h ≤ v)) ∧
      (∀ i c x hour, (slotOf s i).quarantined = false → genWith (slotOf s i) .staged = some (c, x) →
        x.params.rule = .atHour hour → hour ≤ s.clock.hour + 1 →
        (slotOf t i).actDue = some x.params.generation ∨
          (s.device = .serving ∧ ∃ q ∈ liveJobs t, q.job = .activate i x.params.generation)) ∧
      ∀ i c x a k, phaseOf (slotOf s i) = .overlap → genWith (slotOf s i) .current = some (c, x) →
        x.activation = some a → 0 < x.params.graceHours → x.params.graceHours ≤ s.clock.hour + 1 - a.hour →
        genNumber (slotOf s i) .overlap = some k →
        (slotOf t i).ovlDue = some (k, .time) ∨
          (s.device = .serving ∧ ∃ q ∈ liveJobs t, ∃ cause, q.job = .overlapEnd i k cause)

/-! ### Tamper -/

/-- A level that differs from the debounced one starts the hold of its input, a return to it abandons the hold; nothing else
changes, and with the part not running only the line does (R159). As holds end, the debounced levels become those held and the
monitor compares, in SERVING and HOLDING once its first comparison is made: the match state is then what the comparison finds
(R161). A change from match to mismatch is a tamper event with origin LIVE: the record of Table 8-1 is made from the levels, the
inputs that mismatch and the slot items, the list with opening write, slot items in slot order and closing write goes to the Store
Writer, the slots are barred, and the TAMPER notice is raised (R94, R162, R163, R168). Otherwise nothing but the monitor changes. -/
def Obligations.LevelsAreDebouncedAndCompared : Prop :=
  ∀ s : State,
    (∀ (i : TamperInput) (l : Level), ∃ t, exec (.tamperInputLevelChange i l) s = .next t ∧
      (∀ j, inputGet t.pins.tamper j = if j = i then l else inputGet s.pins.tamper j) ∧
      (running s = true →
        ∀ j, inputGet t.monitor.holds j = if j = i then inputGet s.monitor.debounced i != some l else
          inputGet s.monitor.holds j) ∧
      (running s = false → t.monitor = s.monitor) ∧
      t = { s with
        pins := { s.pins with tamper := t.pins.tamper }
        monitor := { s.monitor with holds := t.monitor.holds } }) ∧
    ∀ set : InputSet, running s = true → (∃ i, inputGet set i = true ∧ inputGet s.monitor.holds i = true) →
      ∃ t, exec (.debounceHoldExpiry set) s = .next t ∧
        (∀ i, inputGet t.monitor.debounced i =
          if inputGet set i && inputGet s.monitor.holds i then some (inputGet s.pins.tamper i)
          else inputGet s.monitor.debounced i) ∧
        (∀ i, inputGet t.monitor.holds i = (inputGet s.monitor.holds i && !inputGet set i)) ∧
        t.monitor.matching = (if servingOrHolding s && s.monitor.compared
          then groupMatches s.monitor.arm t.monitor.debounced else s.monitor.matching) ∧
        t.monitor.arm = s.monitor.arm ∧ t.device = s.device ∧ t.array = s.array ∧ t.clock = s.clock ∧
        (∀ i, slotCore (slotOf t i) = slotCore (slotOf s i)) ∧ t.assocs = s.assocs ∧
        let event := servingOrHolding s = true ∧ s.monitor.compared = true ∧ s.monitor.matching = true ∧
          groupMatches s.monitor.arm t.monitor.debounced = false
        (¬event → t = { s with monitor := t.monitor }) ∧
        (event → ∃ record, t.writer.tamper = some
            { items := .opening :: ((slotItems s).map (fun x => .slot x.1 x.2) ++ [.closing]), record := record
              failed := [], completed := [], resumed := false } ∧
          record.origin = .live ∧ record.levels = t.monitor.debounced ∧ record.pendingSet = slotItems s ∧
          (∀ i, inputGet record.pattern i = true ↔
            ∃ l, inputGet s.monitor.arm i = some l ∧ inputGet t.monitor.debounced i ≠ some l) ∧
          record.eraseCount = ((slotItems s).filter fun x => x.2 == .erase).length ∧
          record.suspendCount = ((slotItems s).filter fun x => x.2 == .suspend).length ∧
          (∀ i a, (i, a) ∈ slotItems s ↔ (slotOf s i).binding ≠ none ∧
            ((slotOf s i).policy = .suspend ∧ a = .suspend ∨ (slotOf s i).policy = .erase ∧ a = .erase)) ∧
          (∀ i a, (i, a) ∈ slotItems s → t.cache.bars[i] = some a) ∧
          Notice.tamper .live .live record.levels record.pattern record.eraseCount record.suspendCount
            ((slotItems s).map (·.1)) ∈ t.notices)

/-- The first comparison after loading: a match changes the monitor alone; a mismatch is a tamper event with origin LOAD, whose
list goes to the Store Writer with opening write, slot items in slot order and closing write, and whose notice is raised (R163,
R168, R170). -/
def Obligations.FirstComparisonTakesATamperEvent : Prop :=
  ∀ s : State, running s = true → servingOrHolding s = true → s.monitor.compared = false →
    (∀ i, inputGet s.monitor.arm i = none ∨ inputGet s.monitor.debounced i ≠ none) →
    (groupMatches s.monitor.arm s.monitor.debounced = true →
      exec .firstComparison s = .next { s with monitor := { s.monitor with compared := true, matching := true } }) ∧
    (groupMatches s.monitor.arm s.monitor.debounced = false → s.monitor.matching = true →
      ∃ t, exec .firstComparison s = .next t ∧
        t.monitor = { s.monitor with compared := true, matching := false } ∧
        (∃ record, t.writer.tamper = some
          { items := .opening :: ((slotItems s).map (fun x => .slot x.1 x.2) ++ [.closing]), record := record
            failed := [], completed := [], resumed := false } ∧
          record.origin = .load ∧ record.levels = s.monitor.debounced ∧ record.pendingSet = slotItems s) ∧
        (∀ i a, (i, a) ∈ slotItems s ↔ (slotOf s i).binding ≠ none ∧
          ((slotOf s i).policy = .suspend ∧ a = .suspend ∨ (slotOf s i).policy = .erase ∧ a = .erase)) ∧
        NoticeKey.tamper ∈ t.notices.map noticeKey ∧ t.device = s.device ∧ t.array = s.array ∧ t.assocs = s.assocs ∧
        ∀ i, slotCore (slotOf t i) = slotCore (slotOf s i))

/-- A tamper event bars its slots (R94), fails the contexts that are not IDLE, DONE or FAILED with TAMPER, and leaves the queue
without jobs of contexts, jobs naming a slot to be erased, and RESUME jobs of a slot to be suspended (R20, R21, R130, R166, R167). The
repairs of a slot to be erased go with its other jobs, the model's reading of R20 and R166 (log entry 32), so that the slot has no
structural job queued (R30). That a bar of a slot without an item stays is the model's choice where a HEADER has made
the slot KEEP or unbound since (log entry 57). A verification in hand is that of a VERIFYING context. -/
def Obligations.TamperEventFailsContextsAndRemovesJobs : Prop :=
  ∀ s : State, running s = true → servingOrHolding s = true → s.monitor.compared = false →
    (∀ i, inputGet s.monitor.arm i = none ∨ inputGet s.monitor.debounced i ≠ none) →
    groupMatches s.monitor.arm s.monitor.debounced = false → s.monitor.matching = true →
    (∀ v, s.renewal.verif = some v → (ctxOf s v.ctx).state = .verifying) →
    ∃ t, exec .firstComparison s = .next t ∧
      (∀ i a, (i, a) ∈ slotItems s → t.cache.bars[i] = some a) ∧
      (∀ i, (∀ a, (i, a) ∉ slotItems s) → t.cache.bars[i] = s.cache.bars[i]) ∧
      (∀ i, ((ctxOf s i).state = .gathering ∨ (ctxOf s i).state = .closed ∨ (ctxOf s i).state = .storing ∨
          ∃ v, s.renewal.verif = some v ∧ v.ctx = i ∧ (ctxOf s i).dropPending = false) →
        (ctxOf t i).state = .failed ∧ (ctxOf t i).result.map (·.outcome) = some .tamper ∧
        NoticeKey.renewalFinished i ∈ t.notices.map noticeKey) ∧
      (∀ v, s.renewal.verif = some v → (ctxOf s v.ctx).dropPending = true → ctxOf t v.ctx = .idle) ∧
      (∀ i, ((ctxOf s i).state = .idle ∨ (ctxOf s i).state = .done ∨ (ctxOf s i).state = .failed) →
        ctxOf t i = ctxOf s i) ∧
      t.renewal.verif = none ∧
      (∀ q ∈ t.writer.queue, q.ctx = none ∧
        (∀ i, q.job = .resume i → (i, .suspend) ∉ slotItems s) ∧
        ∀ i, jobSlot q.job = some i → (i, .erase) ∉ slotItems s) ∧
      ∀ i, (i, .erase) ∈ slotItems s → queuedStructural t i = 0

/-- At a tamper event that finds the Port Executor free, or a PROTECT or UNPROTECT whose frame job is granted and runs on, and no
other requester waiting, every entry of an ERASE slot is gone, or, held by a pin or FILLING, carries
ERASED or a cause above it; an entry of a SUSPEND slot takes SUSPENDED while it is held and carries no cause, and stays as it is
otherwise, and so does the entry of any other slot (R91, R94). As a PROTECT is answered, the Port Executor's pins go: an entry left
without a pin loses SUSPENDED, and with another cause is discarded (R83, R91). That a FILLING entry without a pin counts as held for
SUSPENDED is the model's choice (log entry 58). -/
def Obligations.CausesReachHeldEntriesAndDiscardOthers : Prop :=
  ∀ s : State, running s = true → (s.cache.entries.map fun e => (e.slot, e.gen)).Nodup →
    (servingOrHolding s = true → s.monitor.compared = false →
      (∀ i, inputGet s.monitor.arm i = none ∨ inputGet s.monitor.debounced i ≠ none) →
      groupMatches s.monitor.arm s.monitor.debounced = false → s.monitor.matching = true →
      s.port.exec = .free ∨ s.engine.job.any (fun g => g.who == .port && !g.orphan) = true ∧
        ((∃ op n cls, s.port.exec = .protect op ∧ op.stage = .frame n cls) ∨
          ∃ op, s.port.exec = .unprotect op ∧ op.stage = .frame) →
      s.renewal.verif = none → s.cache.waits = [] → s.engine.portLine = none →
      s.engine.renewalLine = none →
      ∃ t, exec .firstComparison s = .next t ∧ t.port = s.port ∧ t.engine = s.engine ∧
        (∀ e ∈ t.cache.entries, (e.slot, .erase) ∈ slotItems s →
          (e.pinPort = true ∨ e.pinRenewal = true ∨ e.filling = true) ∧
          (e.withhold = some .erased ∨ e.withhold = some .quarantined)) ∧
        ∀ e ∈ s.cache.entries,
          let held := e.pinPort = true ∨ e.pinRenewal = true ∨ e.filling = true
          ((e.slot, .erase) ∈ slotItems s → held → ∃ w, { e with withhold := some w } ∈ t.cache.entries) ∧
          ((e.slot, .suspend) ∈ slotItems s → held → e.withhold = none →
            { e with withhold := some .suspended } ∈ t.cache.entries) ∧
          ((e.slot, .erase) ∉ slotItems s → (e.slot, .suspend) ∉ slotItems s ∨ ¬held ∨ e.withhold ≠ none →
            e ∈ t.cache.entries)) ∧
    ∀ who key nonce header payload orphan op n cls,
      s.engine.job = some ⟨who, .frameProtect key nonce header payload, orphan⟩ → s.port.exec = .protect op →
      op.stage = .frame n cls →
      ∃ t, exec .frameProtectEnd s = .next t ∧ (∀ e ∈ t.cache.entries, e.pinPort = false) ∧
        ∀ e ∈ s.cache.entries, e.pinPort = true → e.filling = false →
          (e.pinRenewal = true → (findEntry t e.slot e.gen).map (fun x => (x.pinRenewal, x.withhold)) =
            some (true, e.withhold)) ∧
          (e.pinRenewal = false → e.withhold = none ∨ e.withhold = some .suspended →
            (findEntry t e.slot e.gen).map (·.withhold) = some none) ∧
          (∀ w, e.pinRenewal = false → e.withhold = some w → w ≠ .suspended → findEntry t e.slot e.gen = none)

/-! ### Power fail and hold -/

/-- The warning taken in SERVING or in a command hold: a power-fail hold, an empty queue, the write in hand kept, what is stored
unchanged (R182, R202, R203). The flush list holds at most 4 items: the first queued HIGHWATER jobs in queue order, then dirty entries
without a cause from the most recent end of the last-use order; a dirty entry whose slot and cell has an item raises its value, and a
list that still has items stays (R182, R183). That the entries are those dirty before the write-through commands in flight make theirs
so, and that a dirty entry raises its item also where four are held, are the model's choices (log entry 29).

A GATHERING or CLOSED context, one under verification, and a STORING one with a job that is not the one in progress fail with
POWER_FAIL; a drop-pending verification leaves its context IDLE; every other context stays (R131). A PROTECT that waits on a RESERVE or
for room, an UNPROTECT that waits on its HIGHWATER or for room, an ACTIVATE that waits for room or on a job not in progress, and a HOLD
are answered POWER_FAILING; any other command goes on (R106, R112, R157, R158, R202). The entry of the PROTECT keeps its next value and
its reservation-pending flag clears, also where the RESERVE is in progress (R106; that it clears there though R44 and Table 9-4 name the
dropped job alone is the model's reading, log entry 47); the entry of the UNPROTECT keeps h and becomes dirty (R86, R111). That these commands are answered so also
where their entry carries a cause is the model's choice (log entry 19).

Of the jobs dropped without a requester (Table 9-4): an ACTIVATE sets its slot's activation due mark again and an OVERLAP_END its
overlap due mark with its cause, where the generation still has the role the mark is for (R25 to R27); a repair sets its repair mark
(R188), an HOUR job the strip-pending mark (R37); a RESERVE clears its entry's reservation-pending flag (R44); a HIGHWATER beyond the
budget leaves its entry dirty where h is above the stored high-water (R87). A slot that no such job names keeps its image.

The clauses on one entry have as premises what holds in the states that runs reach: one entry for a slot and generation, one dirty
entry without a cause for a cell, and a fill on a line only for a FILLING entry. -/
def Obligations.PfailAssertTakesTheWarning : Prop :=
  ∀ s : State, running s = true → s.warning.taken = false → (s.device = .serving ∨ s.device = .holding .command) →
    ∃ t, exec .pfailAssert s = .next t ∧ t.device = .holding .power ∧ t.warning = ⟨true, false⟩ ∧
      t.pins = { s.pins with pfail := true } ∧ t.writer.queue = [] ∧
      t.writer.job.map (·.writes) = s.writer.job.map (·.writes) ∧
      t.writer.tamper = s.writer.tamper ∧ t.array = s.array ∧ t.clock = s.clock ∧ t.assocs = s.assocs ∧
      t.monitor = s.monitor ∧ (∀ i, slotCore (slotOf t i) = slotCore (slotOf s i)) ∧
      (let place (it : FlushItem) := (it.slot, it.cell, it.gen)
       let highs := (s.writer.queue.filterMap itemOfJob).take 4
       (s.writer.flush ≠ [] → t.writer.flush.map place = s.writer.flush.map place) ∧
       (s.writer.flush = [] → t.writer.flush.length ≤ 4 ∧
         (t.writer.flush.take highs.length).map place = highs.map place ∧
         (∀ (k : Nat) (it : FlushItem), highs[k]? = some it →
           ∃ x : FlushItem, t.writer.flush[k]? = some x ∧ it.value ≤ x.value) ∧
         ((t.writer.flush.drop highs.length).map place).Sublist
           ((s.cache.entries.filter fun e => e.dirty && e.withhold.isNone).map fun e => (e.slot, e.cell, e.gen)) ∧
         ((s.cache.entries.map fun e => (e.slot, e.gen)).Nodup →
           ∀ e ∈ s.cache.entries, e.dirty = true → e.withhold = none →
             (∀ f ∈ s.cache.entries, f.slot = e.slot → f.cell = e.cell → f.dirty = true → f.withhold = none → f = e) →
             t.writer.flush.length < 4 ∨ (∃ it ∈ t.writer.flush, it.slot = e.slot ∧ it.cell = e.cell) →
             ∃ it ∈ t.writer.flush, it.slot = e.slot ∧ it.cell = e.cell ∧ e.h ≤ it.value))) ∧
      ((∀ v, s.renewal.verif = some v → (ctxOf s v.ctx).state = .verifying) →
        let fails (i : Fin 2) : Prop := (ctxOf t i).state = .failed ∧
          (ctxOf t i).result.map (·.outcome) = some .powerFail ∧ NoticeKey.renewalFinished i ∈ t.notices.map noticeKey
        let inHand (i : Fin 2) : Prop := ∃ r q, s.writer.job = some r ∧ r.task = .queued q ∧ q.ctx = some i
        t.renewal.verif = none ∧
        (∀ v, s.renewal.verif = some v → ((ctxOf s v.ctx).dropPending = false → fails v.ctx) ∧
          ((ctxOf s v.ctx).dropPending = true → ctxOf t v.ctx = .idle)) ∧
        ∀ i, ((ctxOf s i).state = .gathering ∨ (ctxOf s i).state = .closed → fails i) ∧
          ((ctxOf s i).state = .storing →
            (1 < (ctxOf s i).jobs.length ∨ (ctxOf s i).jobs.length = 1 ∧ ¬inHand i → fails i) ∧
            ((ctxOf s i).jobs.length = 1 → inHand i → ctxOf t i = ctxOf s i)) ∧
          ((ctxOf s i).state = .idle ∨ (ctxOf s i).state = .done ∨ (ctxOf s i).state = .failed →
            ctxOf t i = ctxOf s i)) ∧
      let forRoom := ∃ w ∈ s.cache.waits, w.port = true
      let waitsIf (waits : Prop) : Prop := (waits → t.port = (respond .powerFailing [] s).port) ∧ (¬waits → t.port = s.port)
      let kept (slot : Fin 32) (gen : Nat) (p : Entry → Entry → Prop) : Prop :=
        (s.cache.entries.map fun e => (e.slot, e.gen)).Nodup → (∀ c, s.engine.renewalLine ≠ some (.fill slot c gen)) →
          ∀ e, findEntry s slot gen = some e → e.filling = false → e.withhold = none →
            ∃ e', findEntry t slot gen = some e' ∧ p e e'
      (∀ op, s.port.exec = .protect op →
        waitsIf (op.stage = .reserve ∨ op.stage = .room ∨ op.stage = .fill ∧ forRoom) ∧
        (op.stage = .reserve ∨ op.stage = .room → kept op.slot op.gen fun e e' =>
          (e.role = some .active → e'.n = e.n) ∧ e'.resvPending = false)) ∧
      (∀ op, s.port.exec = .unprotect op →
        waitsIf (op.stage = .high ∨ op.stage = .room ∨ op.stage = .fill ∧ forRoom) ∧
        (op.stage = .high ∨ op.stage = .room → kept op.slot op.trial.gen fun e e' => e'.h = e.h ∧ e'.dirty = true)) ∧
      (∀ op, s.port.exec = .activate op →
        waitsIf (op.stage = .room ∨ op.stage = .fill ∧ forRoom ∨
          op.stage = .store ∧ ¬∃ r q, s.writer.job = some r ∧ r.task = .queued q ∧ q.port = true)) ∧
      (let dropped (p : StoreJob → Prop) : Prop := ∃ q ∈ s.writer.queue, q.ctx = none ∧ q.port = false ∧ p q.job
       (∀ slot gen, dropped (· = .activate slot gen) → genNumber (slotOf s slot) .staged = some gen →
          (slotOf t slot).actDue = some gen) ∧
        (∀ slot gen, dropped (fun j => ∃ cause, j = .overlapEnd slot gen cause) →
          genNumber (slotOf s slot) .overlap = some gen → ∃ cause, (slotOf t slot).ovlDue = some (gen, cause) ∧
            ∃ q ∈ s.writer.queue, q.job = .overlapEnd slot gen cause) ∧
        (∀ slot c, dropped (· = .cellRepair slot c) → repairOf (slotOf t slot) c = true) ∧
        (∀ slot, dropped (· = .floorRepair slot) → (slotOf t slot).repairFloor = true) ∧
        (dropped (· = .hour) → t.writer.stripPending = true) ∧
        ((∀ q ∈ s.writer.queue, q.job ≠ .hour) → t.writer.stripPending = s.writer.stripPending) ∧
        (∀ slot gen, dropped (fun j => ∃ c v, j = .reserve slot c gen v) → kept slot gen fun _ e' => e'.resvPending = false) ∧
        (∀ before q after slot c gen v, s.writer.queue = before ++ q :: after → q.ctx = none → q.job = .highWater slot c gen v →
          (s.writer.flush ≠ [] ∨ 4 ≤ (before.filterMap itemOfJob).length) →
          kept slot gen fun e e' => e'.h = e.h ∧
            (((cellOf (slotOf s slot) c).map (·.highWater)).getD 0 < e.h → e'.dirty = true)) ∧
        ∀ i, (∀ q ∈ s.writer.queue, (∀ gen, q.job ≠ .activate i gen) ∧ (∀ gen cause, q.job ≠ .overlapEnd i gen cause) ∧
          (∀ c, q.job ≠ .cellRepair i c) ∧ q.job ≠ .floorRepair i) → slotOf t i = slotOf s i) ∧
      (∀ flushFailed, s.port.exec = .hold flushFailed → waitsIf True) ∧
      (s.port.exec = .free ∨ (∃ c body, s.port.exec = .handed c body) → waitsIf False)

/-- A deassertion of PFAIL starts the withdrawal of a warning that has been taken, and a return of the line cancels it, the warning
staying taken (R202). Withdrawn, it ends a power-fail hold: the device serves again, and what is stored stands (R204). In LOADING, and
when the part does not run, an assertion changes the line alone; in FAULTED neither an assertion nor a withdrawal has an effect on
whether the warning is taken, and in LOADING no withdrawal has any (R203). -/
def Obligations.WithdrawnWarningReturnsToServing : Prop :=
  ∀ s : State,
    exec .pfailDeasserted s = .next { s with
      pins := { s.pins with pfail := false }, warning := ⟨s.warning.taken, s.warning.taken⟩ } ∧
    (running s = false ∨ s.device = .loading →
      exec .pfailAssert s = .next { s with pins := { s.pins with pfail := true } }) ∧
    (running s = true → s.device = .holding .power →
      exec .pfailAssert s = .next { s with pins := { s.pins with pfail := true }, warning := ⟨true, false⟩ }) ∧
    (running s = true → s.device = .faulted →
      exec .pfailAssert s = .next { s with
        pins := { s.pins with pfail := true }, warning := ⟨s.warning.taken, false⟩ }) ∧
    (running s = true → s.warning = ⟨true, true⟩ → s.device = .holding .power →
      ∃ t, exec .pfailWithdraw s = .next t ∧ t.device = .serving ∧ t.warning = ⟨false, false⟩ ∧ t.array = s.array ∧
        t.clock = s.clock ∧ t.assocs = s.assocs ∧ t.monitor = s.monitor ∧
        ∀ i, slotCore (slotOf t i) = slotCore (slotOf s i)) ∧
    (s.device = .loading ∨ s.device = .faulted ∨ running s = false ∨ s.warning ≠ ⟨true, true⟩ →
      exec .pfailWithdraw s = .next s)

/-- HOLD is refused while a context is CLOSED, VERIFYING or STORING, and otherwise waits for its drain, the device serving on. As it
begins to wait, the hold flush starts: every dirty entry becomes flush-requested, or its h is on its way in a queued HIGHWATER and it is
clean; one without a cause stays flush-requested only where the queue is full (R88, R89). Every other entry stays as it is, and so do
the entries' order and number. With the drain met, as `DrainMet` lists its conditions, the device holds by command and HOLD is answered
OK; after a failed hold flush it is answered STORE_FAILED and the device serves on. Before the drain is met HOLD_DRAINED changes nothing,
and a device that comes to a command hold, by whatever command, has its drain met: no job, no queued job, no tamper work list, no room
waiter and no dirty or flush-requested entry (R178, R205). -/
def Obligations.HoldWaitsForItsDrain : Prop :=
  ∀ s : State, running s = true → s.device = .serving →
    (∀ body, s.port.exec = .handed .hold body →
      ((∃ i, (ctxOf s i).state = .closed ∨ (ctxOf s i).state = .verifying ∨ (ctxOf s i).state = .storing) →
        exec .hold s = .next (respond .renewalActive [] s)) ∧
      ((∀ i, (ctxOf s i).state ≠ .closed ∧ (ctxOf s i).state ≠ .verifying ∧ (ctxOf s i).state ≠ .storing) →
        ∃ t, exec .hold s = .next t ∧ t.port = { s.port with exec := .hold false } ∧ t.device = .serving ∧
          t.slots = s.slots ∧ t.renewal = s.renewal ∧ t.notices = s.notices ∧ t.array = s.array ∧
          t.cache.entries.map (fun e => (e.slot, e.gen)) = s.cache.entries.map (fun e => (e.slot, e.gen)) ∧
          (OneEntryEach s →
            (∀ e ∈ s.cache.entries, e.dirty = true → Flushing t e) ∧
            (∀ e ∈ s.cache.entries, e.dirty = false → e.flushReq = false → e ∈ t.cache.entries) ∧
            ∀ e ∈ t.cache.entries, e.flushReq = true → e.withhold = none → 8 ≤ t.writer.queue.length))) ∧
    (∀ flushFailed, s.port.exec = .hold flushFailed → DrainMet s →
      ∃ t, exec .holdDrained s = .next t ∧ t.port.exec = .free ∧
        (flushFailed = false → t.device = .holding .command ∧ t.port.retained = some ⟨.ok, s.port.overrun, []⟩) ∧
        (flushFailed = true → t.device = .serving ∧ t.port.retained = some ⟨.storeFailed, s.port.overrun, []⟩) ∧
        t.slots = s.slots ∧ t.notices = s.notices ∧ t.array = s.array ∧ t.renewal = s.renewal) ∧
    (¬DrainMet s → exec .holdDrained s = .next s) ∧
    ∀ c t, exec c s = .next t → t.device = .holding .command → DrainMet t ∧ exec .roomGiven s = .next s

/-! ### Frame commands and ACTIVATE -/

/-- A PROTECT takes its counter value under the READY entry of its generation. A value below the ceiling is taken: the entry's next
value rises by one, the frame protect job is asked for under the meter's title and that value as nonce, and the class kept for the
answer is the one that the recomputed wear shows (R43, R97, R101 to R104). At 4,294,967,295 the answer is KEY_SPENT (R103). At the
ceiling the command waits: on the RESERVE already pending, on one it queues for the lesser of ceiling plus step and 4,294,967,295, or
for room (R44, R47). A value taken from an ACTIVE entry with a clear flag that leaves step/4 or fewer queues that RESERVE without a
waiter; with a full queue the flag stays clear (R45). A RESERVE asked for while one of the cell is queued is coalesced into it (R177).
That a RESERVE is queued so in a power-fail hold too is the model's reading (log entry 34). -/
def Obligations.ProtectTakesACounterValue : Prop :=
  ∀ (body : List Byte) (q : ProtectReq) (slot : Fin 32) (c : CellId) (x : CellImg) (e : Entry) (n : Nat) (s : State),
    Handed .protect body s → s.device ≠ .faulted → parseProtect body = .ok q → lookup s q.party .unicast = .ok slot →
    (slotOf s slot).quarantined = false → (slotOf s slot).suspended = false →
    genWith (slotOf s slot) .current = some (c, x) → classOf x ≠ .spent →
    s.cache.bars[slot] = none → findEntry s slot x.params.generation = some e → e.filling = false → e.withhold = none →
    e.n = some n →
    let gen := x.params.generation
    let doing (t : State) (stage : ProtectStage) : Prop :=
      t.port.exec = .protect ⟨slot, c, gen, q.header, q.payload, stage⟩
    let next (t : State) (m : Nat) (flag : Bool) : Prop :=
      (findEntry t slot gen).map (fun e => (e.n, e.resvPending)) = some (some m, flag)
    let rests (t : State) : Prop := t.array = s.array ∧ t.clock = s.clock ∧ t.assocs = s.assocs ∧ t.renewal = s.renewal ∧
      ∀ i, slotCore (slotOf t i) = slotCore (slotOf s i)
    let ceiling := min (x.ceiling + x.params.counterStep) 4294967295
    let queuedNew (t : State) (port : Bool) : Prop :=
      t.writer.queue = s.writer.queue ++ [⟨.reserve slot c gen ceiling, none, port, false⟩]
    let coalesced (t : State) (port : Bool) : Prop := t.writer.queue.length = s.writer.queue.length ∧
      ∃ j ∈ t.writer.queue, (port = true → j.port = true) ∧ ∃ g v, j.job = .reserve slot c g v ∧ ceiling ≤ v
    let another := ∃ j ∈ s.writer.queue, isReserveFor slot c j = true
    (n = 4294967295 → ∃ t, exec .protect s = .next t ∧ t.port.exec = .free ∧
      t.port.retained = some ⟨.keySpent, s.port.overrun, []⟩ ∧ rests t ∧
      t.writer.queue.map (·.job) = s.writer.queue.map (·.job) ∧ (e.role = some .active → next t n e.resvPending)) ∧
    (n ≠ 4294967295 → n < x.ceiling → ∃ t cls, exec .protect s = .next t ∧ doing t (.frame n cls) ∧ rests t ∧
      (cellOf (slotOf t slot) c).map classOf = some cls ∧
      (e.role = some .active → cls = wearClass (wearFigure x.params (n + 1) (ageOf s x))) ∧
      (let job : EngineJob := .frameProtect e.key (be64 (systemTitle s) ++ be32 n) q.header q.payload
       t.engine.job = some ⟨.port, job, false⟩ ∨ t.engine.portLine = some job) ∧
      let early := e.role = some .active ∧ x.ceiling - (n + 1) ≤ x.params.counterStep / 4 ∧ x.ceiling < 4294967295 ∧
        e.resvPending = false
      (¬early → next t (n + 1) e.resvPending ∧ t.writer.queue = s.writer.queue) ∧
      (early → another → next t (n + 1) true ∧ coalesced t false) ∧
      (early → ¬another → s.writer.queue.length < 8 → next t (n + 1) true ∧ queuedNew t false) ∧
      (early → ¬another → 8 ≤ s.writer.queue.length → next t (n + 1) false ∧ t.writer.queue = s.writer.queue)) ∧
    (n < 4294967295 → x.ceiling ≤ n → ∃ t, exec .protect s = .next t ∧ rests t ∧ t.engine = s.engine ∧
      (e.resvPending = true → doing t .reserve ∧ next t n true ∧
        t.writer.queue.map (·.job) = s.writer.queue.map (·.job) ∧
        (∀ j ∈ t.writer.queue, isReserveFor slot c j = true → j.port = true) ∧
        ∀ r j, t.writer.job = some r → r.task = .queued j → isReserveFor slot c j = true → j.port = true) ∧
      (e.resvPending = false → another → doing t .reserve ∧ next t n true ∧ coalesced t true) ∧
      (e.resvPending = false → ¬another → s.writer.queue.length < 8 →
        doing t .reserve ∧ next t n true ∧ queuedNew t true) ∧
      (e.resvPending = false → ¬another → 8 ≤ s.writer.queue.length →
        doing t .room ∧ next t n false ∧ t.writer.queue = s.writer.queue))

/-- A value given out has the wear of its generation computed anew from the next value and the age; a changed class raises
WEAR_CLASS_CHANGED with the old class, the new one and the figure, an unchanged one raises nothing (R49, R56, R57). -/
def Obligations.WearClassChangesAreNotified : Prop :=
  ∀ (body : List Byte) (q : ProtectReq) (slot : Fin 32) (c : CellId) (x : CellImg) (e : Entry) (n : Nat) (s : State),
    Handed .protect body s → s.device ≠ .faulted → parseProtect body = .ok q → lookup s q.party .unicast = .ok slot →
    (slotOf s slot).quarantined = false → (slotOf s slot).suspended = false →
    genWith (slotOf s slot) .current = some (c, x) → classOf x ≠ .spent →
    s.cache.bars[slot] = none → findEntry s slot x.params.generation = some e → e.filling = false → e.withhold = none →
    e.role = some .active → e.n = some n → n < x.ceiling → n < 4294967295 →
    let w := wearFigure x.params (n + 1) (ageOf s x)
    ∃ t, exec .protect s = .next t ∧ (cellOf (slotOf t slot) c).bind (·.wear) = some w ∧
      (wearClass w ≠ classOf x →
        Notice.wearChanged slot x.params.generation (classOf x) (wearClass w) w ∈ t.notices) ∧
      (wearClass w = classOf x → t.notices = s.notices)

/-- A PROTECT whose generation has no entry begins a fill: in a free place of the six, or in that of the least recently taken entry
that is READY, unpinned and without a cause; a victim with a dirty or flush-requested h has its HIGHWATER queued first, and where
the queue is full the victim stays and the fill waits (R79, R80, R84, R85). That the HIGHWATER is queued so in a power-fail hold too is
the model's reading (log entry 34). -/
def Obligations.FillsEvictTheLeastRecentlyTaken : Prop :=
  ∀ (body : List Byte) (q : ProtectReq) (slot : Fin 32) (c : CellId) (x : CellImg) (s : State),
    Handed .protect body s → s.device ≠ .faulted → parseProtect body = .ok q → lookup s q.party .unicast = .ok slot →
    (slotOf s slot).quarantined = false → (slotOf s slot).suspended = false →
    genWith (slotOf s slot) .current = some (c, x) → classOf x ≠ .spent →
    s.cache.bars[slot] = none → findEntry s slot x.params.generation = none →
    (∀ w ∈ s.cache.waits, w.slot = slot → w.gen ≠ x.params.generation) →
    let filling := fillingEntry .port slot c x.params.generation
    let asked (t : State) : Prop := t.port.exec = .protect ⟨slot, c, x.params.generation, q.header, q.payload, .fill⟩ ∧
      t.slots = s.slots ∧ t.array = s.array
    let begun (t : State) : Prop := asked t ∧ (let job : EngineJob := .fill slot c x.params.generation
      t.engine.job = some ⟨.port, job, false⟩ ∨ t.engine.portLine = some job)
    (s.cache.entries.length < 6 → ∃ t, exec .protect s = .next t ∧ begun t ∧
      t.cache.entries = filling :: s.cache.entries ∧ t.writer.queue = s.writer.queue) ∧
    ∀ before v after, s.cache.entries = before ++ v :: after → 6 ≤ s.cache.entries.length →
      v.filling = false → v.pinPort = false → v.pinRenewal = false → v.withhold = none →
      (∀ e ∈ after, e.filling = true ∨ e.pinPort = true ∨ e.pinRenewal = true ∨ e.withhold ≠ none) →
      let rest := (before ++ v :: after).filter fun e => !(e.slot == v.slot && e.gen == v.gen)
      (v.dirty = false → v.flushReq = false → ∃ t, exec .protect s = .next t ∧ begun t ∧
        t.cache.entries = filling :: rest ∧ t.writer.queue = s.writer.queue) ∧
      (v.dirty = true ∨ v.flushReq = true → (∀ j ∈ s.writer.queue, isHighFor v.slot v.cell j = false) →
        (s.writer.queue.length < 8 → ∃ t, exec .protect s = .next t ∧ begun t ∧ t.cache.entries = filling :: rest ∧
          t.writer.queue = s.writer.queue ++ [⟨.highWater v.slot v.cell v.gen v.h, none, false, false⟩]) ∧
        (8 ≤ s.writer.queue.length → ∃ t, exec .protect s = .next t ∧ asked t ∧
          t.cache.entries = s.cache.entries ∧ t.writer.queue = s.writer.queue ∧
          t.cache.waits = s.cache.waits ++ [⟨slot, c, x.params.generation, true, false, .port⟩]))

/-- The refusals of PROTECT, UNPROTECT and ACTIVATE in their order: form, lookup, quarantine, suspension, for PROTECT and UNPROTECT a
missing generation, for ACTIVATE another staged one or none, and for PROTECT a spent one; each is answered and changes nothing else
(R65, R101, R107, R155). The cache then refuses the acquisition where the slot is barred by pending tamper work, with SLOT_ERASED or
SLOT_SUSPENDED by the policy of the bar, and else where the READY entry carries a cause other than RETIRED, with the status of that
cause (R79, R91, R94, R102, R108, R156): no entry is taken and nothing is asked of the engine or the Store Writer. -/
def Obligations.FrameCommandsAreRefusedInOrder : Prop :=
  ∀ (body : List Byte) (s : State),
    let cacheRefuses (slot : Fin 32) (gen : Nat) (code : Code) : Prop :=
      (s.cache.bars[slot] = some .erase ∧ code = .slotErased) ∨ (s.cache.bars[slot] = some .suspend ∧ code = .slotSuspended) ∨
      (s.cache.bars[slot] = none ∧ ∃ e w, findEntry s slot gen = some e ∧ e.filling = false ∧ e.withhold = some w ∧
        w ≠ .retired ∧ code = causeCode w)
    (∀ c, Handed .protect body s → parseProtect body = .error c → exec .protect s = .next (respond c [] s)) ∧
    (∀ c, Handed .unprotect body s → parseUnprotect body = .error c → exec .unprotect s = .next (respond c [] s)) ∧
    (∀ c, Handed .activate body s → parseActivate body = .error c →
      exec .activateCommand s = .next (respond c [] s)) ∧
    (∀ q, Handed .protect body s → parseProtect body = .ok q →
      (∀ c, lookup s q.party .unicast = .error c → exec .protect s = .next (respond c [] s)) ∧
      ∀ slot, lookup s q.party .unicast = .ok slot →
        ((slotOf s slot).quarantined = true → exec .protect s = .next (respond .slotQuarantined [] s)) ∧
        ((slotOf s slot).quarantined = false →
          ((slotOf s slot).suspended = true → exec .protect s = .next (respond .slotSuspended [] s)) ∧
          ((slotOf s slot).suspended = false →
            (genWith (slotOf s slot) .current = none → exec .protect s = .next (respond .noKey [] s)) ∧
            ∀ g, genWith (slotOf s slot) .current = some g →
              (classOf g.2 = .spent → exec .protect s = .next (respond .keySpent [] s)) ∧
              (classOf g.2 ≠ .spent → ∀ code, cacheRefuses slot g.2.params.generation code →
                exec .protect s = .next (respond code [] s))))) ∧
    (∀ q, Handed .unprotect body s → parseUnprotect body = .ok q →
      (∀ c, lookup s q.party q.role = .error c → exec .unprotect s = .next (respond c [] s)) ∧
      ∀ slot, lookup s q.party q.role = .ok slot →
        ((slotOf s slot).quarantined = true → exec .unprotect s = .next (respond .slotQuarantined [] s)) ∧
        ((slotOf s slot).quarantined = false →
          ((slotOf s slot).suspended = true → exec .unprotect s = .next (respond .slotSuspended [] s)) ∧
          ((slotOf s slot).suspended = false →
            (genWith (slotOf s slot) .current = none → exec .unprotect s = .next (respond .noKey [] s)) ∧
            ((∀ e ∈ s.cache.entries, e.pinPort = false) →
              ∀ g code, genWith (slotOf s slot) .current = some g → cacheRefuses slot g.2.params.generation code →
                ∃ t, exec .unprotect s = .next t ∧ t.port = (respond code [] s).port ∧ t.cache.entries = s.cache.entries ∧
                  t.cache.bars = s.cache.bars ∧ t.engine = s.engine ∧ t.renewal = s.renewal ∧ t.array = s.array ∧
                  t.slots = s.slots ∧ t.assocs = s.assocs ∧ t.clock = s.clock ∧ t.monitor = s.monitor ∧
                  t.notices = s.notices ∧ t.writer.queue.map (·.job) = s.writer.queue.map (·.job))))) ∧
    (∀ q, Handed .activate body s → parseActivate body = .ok q →
      (∀ c, lookup s q.party q.role = .error c → exec .activateCommand s = .next (respond c [] s)) ∧
      ∀ slot, lookup s q.party q.role = .ok slot →
        ((slotOf s slot).quarantined = true → exec .activateCommand s = .next (respond .slotQuarantined [] s)) ∧
        ((slotOf s slot).quarantined = false →
          ((slotOf s slot).suspended = true → exec .activateCommand s = .next (respond .slotSuspended [] s)) ∧
          ((slotOf s slot).suspended = false →
            (genNumber (slotOf s slot) .staged ≠ some q.gen → exec .activateCommand s = .next (respond .notStaged [] s)) ∧
            (genNumber (slotOf s slot) .staged = some q.gen → ∀ code, cacheRefuses slot q.gen code →
              exec .activateCommand s = .next (respond code [] s)))))

/-- A frame protect job ends: PROTECT is answered OK with generation, counter, class, as many bytes of ciphertext as the job has of
payload and a 12-byte tag, those that the named cipher gives for the job's inputs (log entry 6), under no cause and under RETIRED;
any other cause is its status (R97, R104, R105). -/
def Obligations.FrameProtectEndAnswersTheFrame : Prop :=
  ∀ (who : Requester) (key nonce header payload : List Byte) (orphan : Bool) (op : ProtectOp) (n : Nat)
      (cls : WearClass) (s : State),
    running s = true → s.engine.job = some ⟨who, .frameProtect key nonce header payload, orphan⟩ →
    s.port.exec = .protect op → op.stage = .frame n cls →
    ∃ t, exec .frameProtectEnd s = .next t ∧ t.port.exec = .free ∧ t.engine = { s.engine with job := none } ∧
      (causeOf s op.slot op.gen = none ∨ causeOf s op.slot op.gen = some .retired →
        ∃ cipher tag, Config.frames.protect key nonce header payload = (cipher, tag) ∧
          cipher.length = payload.length ∧ tag.length = 12 ∧
          t.port.retained = some ⟨.ok, s.port.overrun,
            be16 op.gen ++ be32 n ++ [wearByte cls, u8 payload.length] ++ cipher ++ tag⟩) ∧
      (∀ w, causeOf s op.slot op.gen = some w → w ≠ .retired →
        t.port.retained = some ⟨causeCode w, s.port.overrun, []⟩) ∧
      t.slots = s.slots ∧ t.array = s.array ∧ t.notices = s.notices

/-- UNPROTECT tries the generations of its list: the current one, then that of an OVERLAP (R107, R108). The counter is compared with
the live high-water of the READY entry. Above it the frame unprotect job is asked for, the overlap generation being left on the list.
At or below it the current generation is skipped as stale; its pin goes, and the overlap generation is tried in the same way. With no
generation left the answer is COUNTER_STALE, no key having been tried (R110). -/
def Obligations.UnprotectComparesWithTheHighWater : Prop :=
  ∀ (body : List Byte) (q : UnprotectReq) (slot : Fin 32) (c : CellId) (x : CellImg) (e : Entry) (s : State),
    Handed .unprotect body s → s.device ≠ .faulted → parseUnprotect body = .ok q → lookup s q.party q.role = .ok slot →
    (slotOf s slot).quarantined = false → (slotOf s slot).suspended = false →
    genWith (slotOf s slot) .current = some (c, x) →
    s.cache.bars[slot] = none → findEntry s slot x.params.generation = some e → e.filling = false → e.withhold = none →
    e.pinPort = false →
    let stale := ∃ t, exec .unprotect s = .next t ∧ t.port.exec = .free ∧
      t.port.retained = some ⟨.counterStale, s.port.overrun, []⟩ ∧ t.slots = s.slots ∧ t.array = s.array ∧
      t.engine = s.engine
    let tries (key : List Byte) (trial : Trial) (rest : List Trial) (skipped : Bool) : Prop :=
      ∃ t op, exec .unprotect s = .next t ∧ t.port.exec = .unprotect op ∧ op.stage = .frame ∧ op.slot = slot ∧
        op.trial = trial ∧ op.rest = rest ∧ op.stale = skipped ∧ op.tagFail = false ∧ op.counter = q.counter ∧
        (findEntry t slot trial.gen).map (·.pinPort) = some true ∧
        (trial.gen ≠ x.params.generation → (findEntry t slot x.params.generation).map (·.pinPort) = some false) ∧
        (let job : EngineJob := .frameUnprotect key (be64 q.party ++ be32 q.counter) q.header q.cipher q.tag
         t.engine.job = some ⟨.port, job, false⟩ ∨ t.engine.portLine = some job) ∧
        t.slots = s.slots ∧ t.array = s.array
    (phaseOf (slotOf s slot) ≠ .overlap →
      (q.counter ≤ e.h → stale) ∧
      (e.h < q.counter → tries e.key ⟨x.params.generation, .current⟩ [] false)) ∧
    ∀ k, phaseOf (slotOf s slot) = .overlap → genNumber (slotOf s slot) .overlap = some k →
      (e.h < q.counter → tries e.key ⟨x.params.generation, .current⟩ [⟨k, .overlap⟩] false) ∧
      ∀ other, q.counter ≤ e.h → findEntry s slot k = some other → other.filling = false → other.withhold = none →
        other.pinPort = false →
        (q.counter ≤ other.h → stale) ∧
        (other.h < q.counter → tries other.key ⟨k, .overlap⟩ [] true)

/-- A frame unprotect job passes for the ciphertext and tag that protecting its plaintext gives, and for no other (log entry 6). A
pass is an acceptance (R86, R109, R111): the entry's high-water becomes the counter; on a WRITE_BACK slot the entry is dirty and
the plaintext is answered; on a WRITE_THROUGH slot the command waits on a HIGHWATER of at least the counter, or for room. A fail
goes on to the next generation of the list under its READY entry, and from the last one is answered TAG_MISMATCH (R108, R110). A
cause other than RETIRED is answered with its status; under RETIRED a pass is answered with the plaintext. That such a cause answers
also after a fail is the model's choice (log entry 23), that in a power-fail hold a WRITE_THROUGH slot's HIGHWATER is queued as in
SERVING its reading (log entry 34), and that the outcome a job does not have changes nothing (log entry 1). -/
def Obligations.FrameUnprotectEndRaisesTheHighWater : Prop :=
  ∀ (who : Requester) (key nonce header cipher tag : List Byte) (orphan : Bool) (op : UnprotectOp) (e : Entry)
      (s : State),
    running s = true → s.engine.job = some ⟨who, .frameUnprotect key nonce header cipher tag, orphan⟩ →
    s.port.exec = .unprotect op → op.stage = .frame → findEntry s op.slot op.trial.gen = some e →
    let opened := Config.frames.recover key nonce header cipher tag
    let answer (plain : List Byte) : List Byte :=
      be16 op.trial.gen ++ [genRoleByte op.trial.role, u8 plain.length] ++ plain
    (∀ pass, opened.isSome ≠ pass → exec (.frameUnprotectEnd pass) s = .next s) ∧
    (∀ plain, opened = some plain →
      Config.frames.protect key nonce header plain = (cipher, tag) ∧ plain.length = cipher.length ∧
      (e.withhold = none → (slotOf s op.slot).mode = .writeBack →
        ∃ t, exec (.frameUnprotectEnd true) s = .next t ∧ t.port.exec = .free ∧
          t.port.retained = some ⟨.ok, s.port.overrun, answer plain⟩ ∧
          (findEntry t op.slot op.trial.gen).map (·.h) = some op.counter ∧
          (findEntry t op.slot op.trial.gen).map (·.dirty) = some true ∧ t.array = s.array ∧
          ∀ i, slotCore (slotOf t i) = slotCore (slotOf s i)) ∧
      (e.withhold = none → (slotOf s op.slot).mode = .writeThrough → s.device ≠ .faulted →
        ∃ t, exec (.frameUnprotectEnd true) s = .next t ∧ t.port.retained = s.port.retained ∧
          (findEntry t op.slot op.trial.gen).map (·.h) = some op.counter ∧ t.array = s.array ∧
          (s.writer.queue.length < 8 ∨ (∃ q ∈ s.writer.queue, isHighFor op.slot op.cell q = true) →
            t.port.exec = .unprotect { op with plain := plain, stage := .high } ∧
            (findEntry t op.slot op.trial.gen).map (·.dirty) = some false ∧
            ∃ q ∈ t.writer.queue, q.port = true ∧ ∃ g v, q.job = .highWater op.slot op.cell g v ∧ op.counter ≤ v) ∧
          (8 ≤ s.writer.queue.length → (∀ q ∈ s.writer.queue, isHighFor op.slot op.cell q = false) →
            t.port.exec = .unprotect { op with plain := plain, stage := .room })) ∧
      (e.withhold = some .retired → ∃ t, exec (.frameUnprotectEnd true) s = .next t ∧ t.port.exec = .free ∧
        t.port.retained = some ⟨.ok, s.port.overrun, answer plain⟩ ∧ t.array = s.array)) ∧
    (opened = none → e.withhold = none ∨ e.withhold = some .retired →
      (op.rest = [] → ∃ t, exec (.frameUnprotectEnd false) s = .next t ∧ t.port.exec = .free ∧
        t.port.retained = some ⟨.tagMismatch, s.port.overrun, []⟩ ∧ t.array = s.array ∧ t.slots = s.slots ∧
        (e.withhold = none → (findEntry t op.slot op.trial.gen).map (·.h) = some e.h)) ∧
      ∀ trial c next, op.rest = [trial] → cellHolding (slotOf s op.slot) trial.gen = some c →
        (slotOf s op.slot).quarantined = false → s.cache.bars[op.slot] = none →
        findEntry s op.slot trial.gen = some next → next.filling = false → next.withhold = none → next.pinPort = false →
        (next.h < op.counter → ∃ t, exec (.frameUnprotectEnd false) s = .next t ∧
          t.port.exec = .unprotect { op with tagFail := true, cell := c, trial := trial, rest := [] } ∧
          (let job : EngineJob :=
            .frameUnprotect next.key (be64 op.party ++ be32 op.counter) op.header op.cipher op.tag
           t.engine.job = some ⟨.port, job, false⟩ ∨ t.engine.portLine = some job) ∧
          t.slots = s.slots ∧ t.array = s.array) ∧
        (op.counter ≤ next.h → ∃ t, exec (.frameUnprotectEnd false) s = .next t ∧ t.port.exec = .free ∧
          t.port.retained = some ⟨.tagMismatch, s.port.overrun, []⟩ ∧ t.slots = s.slots ∧ t.array = s.array)) ∧
    ∀ w, e.withhold = some w → w ≠ .retired →
      ∃ t, exec (.frameUnprotectEnd opened.isSome) s = .next t ∧ t.port.exec = .free ∧
        t.port.retained = some ⟨causeCode w, s.port.overrun, []⟩ ∧ t.slots = s.slots ∧ t.array = s.array

/-- A frame accepted under the current generation of a slot in OVERLAP raises the slot's grace progress by one, not past the grace
count; the progress that reaches the count makes the overlap due by COUNT, by its mark or its job. An acceptance under another
generation, or outside OVERLAP, leaves it (R28, R109). It returns to 0 as an ACTIVATE completes and as a STAGE, OVERLAP_END or
REVOKE_SLOT has the slot leave OVERLAP (R28). That a mark by TIME takes the cause COUNT then is the model's choice (log entry 28). -/
def Obligations.GraceProgressCountsAcceptances : Prop :=
  (∀ (who : Requester) (key nonce header cipher tag plain : List Byte) (orphan : Bool) (op : UnprotectOp) (e : Entry)
      (s : State),
    running s = true → s.engine.job = some ⟨who, .frameUnprotect key nonce header cipher tag, orphan⟩ →
    s.port.exec = .unprotect op → op.stage = .frame → findEntry s op.slot op.trial.gen = some e → e.withhold = none →
    Config.frames.recover key nonce header cipher tag = some plain →
    let img := slotOf s op.slot
    ∃ t, exec (.frameUnprotectEnd true) s = .next t ∧
      (∀ i, i ≠ op.slot → (slotOf t i).graceProgress = (slotOf s i).graceProgress) ∧
      (phaseOf img ≠ .overlap ∨ genNumber img .current ≠ some op.trial.gen →
        (slotOf t op.slot).graceProgress = img.graceProgress) ∧
      ∀ c x, phaseOf img = .overlap → genWith img .current = some (c, x) → x.params.generation = op.trial.gen →
        (x.params.graceCount ≤ img.graceProgress → (slotOf t op.slot).graceProgress = img.graceProgress) ∧
        (img.graceProgress < x.params.graceCount →
          (slotOf t op.slot).graceProgress = img.graceProgress + 1 ∧
          (img.graceProgress + 1 = x.params.graceCount → ∃ k, genNumber img .overlap = some k ∧
            ((slotOf t op.slot).ovlDue = some (k, .count) ∨ ∃ q ∈ liveJobs t, ∃ cause, q.job = .overlapEnd op.slot k cause)))) ∧
  ∀ (r : Running) (w : ArrayWrite) (q : QJob) (s : State), running s = true → s.writer.job = some r →
    r.writes = [w] → r.task = .queued q →
    ∃ t, exec (.storeWriteReadBack .matched) s = .next t ∧
      (∀ slot gen g, q.job = .activate slot gen → genWith (slotOf s slot) .staged = some g →
        (slotOf t slot).graceProgress = 0) ∧
      (∀ slot b g f, q.job = .stage slot b g f → (slotOf t slot).graceProgress = 0) ∧
      (∀ slot gen cause g, q.job = .overlapEnd slot gen cause → genWith (slotOf s slot) .overlap = some g →
        (slotOf t slot).graceProgress = 0) ∧
      ∀ slot unbind, q.job = .revokeSlot slot unbind → (slotOf t slot).graceProgress = 0

/-- ACTIVATE of the staged generation under its READY VERIFY_ONLY entry asks for the token check over title and generation; with
no such staged generation it is answered NOT_STAGED (R155, R156, R209). -/
def Obligations.ActivateAsksForTheTokenCheck : Prop :=
  ∀ (body : List Byte) (q : ActivateReq) (slot : Fin 32) (s : State),
    Handed .activate body s → s.device ≠ .faulted → parseActivate body = .ok q → lookup s q.party q.role = .ok slot →
    (slotOf s slot).quarantined = false → (slotOf s slot).suspended = false →
    ((∀ g, genWith (slotOf s slot) .staged = some g → g.2.params.generation ≠ q.gen) →
      exec .activateCommand s = .next (respond .notStaged [] s)) ∧
    (∀ c x e, genWith (slotOf s slot) .staged = some (c, x) → x.params.generation = q.gen → s.cache.bars[slot] = none →
      findEntry s slot q.gen = some e → e.filling = false → e.withhold = none → e.role = some .verifyOnly →
      ∃ t, exec .activateCommand s = .next t ∧ t.port.exec = .activate ⟨slot, c, q.gen, q.token, .token⟩ ∧
        (let job : EngineJob := .token e.key (be64 (systemTitle s) ++ be16 q.gen) q.token
         t.engine.job = some ⟨.port, job, false⟩ ∨ t.engine.portLine = some job) ∧
        t.slots = s.slots ∧ t.array = s.array ∧ t.writer = s.writer)

/-- A token check passes where the token is the CMAC of its input. A passing one queues the ACTIVATE job with the command as its
requester while there is room and no warning; a failing one is answered TAG_MISMATCH, a passing one by the cause its entry carries,
NOT_STAGED where that is RETIRED, else NOT_STAGED where its generation is staged no more, else POWER_FAILING under the warning (R97,
R156, R157). Which of these answers comes first where several apply is the model's choice (log entry 24), and that the outcome a check
does not have changes nothing its reading (log entry 1). -/
def Obligations.TokenCheckEndQueuesTheActivate : Prop :=
  ∀ (who : Requester) (key message tag : List Byte) (orphan : Bool) (op : ActivateOp) (s : State),
    running s = true → s.engine.job = some ⟨who, .token key message tag, orphan⟩ → s.port.exec = .activate op →
    op.stage = .token →
    (tag ≠ cmac key message → exec (.tokenCheckEnd true) s = .next s ∧
      ∃ t, exec (.tokenCheckEnd false) s = .next t ∧ t.port.exec = .free ∧
        t.port.retained = some ⟨.tagMismatch, s.port.overrun, []⟩ ∧ t.slots = s.slots ∧
        t.writer.queue.map (·.job) = s.writer.queue.map (·.job)) ∧
    (tag = cmac key message → exec (.tokenCheckEnd false) s = .next s ∧
      let answers (c : Code) := ∃ t, exec (.tokenCheckEnd true) s = .next t ∧ t.port.exec = .free ∧
        t.port.retained = some ⟨c, s.port.overrun, []⟩ ∧ t.slots = s.slots ∧
        t.writer.queue.map (·.job) = s.writer.queue.map (·.job)
      (∀ w c, causeOf s op.slot op.gen = some w → (w, c) ∈ [(Withhold.retired, Code.notStaged), (.erased, .slotErased),
        (.suspended, .slotSuspended), (.quarantined, .slotQuarantined)] → answers c) ∧
      (causeOf s op.slot op.gen = none → genNumber (slotOf s op.slot) .staged ≠ some op.gen → answers .notStaged) ∧
      (causeOf s op.slot op.gen = none → genNumber (slotOf s op.slot) .staged = some op.gen →
        (s.warning.taken = true → answers .powerFailing) ∧
        (s.warning.taken = false → s.writer.queue.length < 8 → s.device ≠ .faulted →
          exec (.tokenCheckEnd true) s = .next { s with
            engine := { s.engine with job := none }
            writer := { s.writer with queue := s.writer.queue ++ [⟨.activate op.slot op.gen, none, true, false⟩] }
            port := { s.port with exec := .activate { op with stage := .store } } })))

/-! ### Engine and verification -/

/-- A free engine grants the one waiting request, and of two that of the requester without the last grant; a busy engine grants
none (R98). -/
def Obligations.EngineGrantAlternates : Prop :=
  ∀ s : State, running s = true →
    (∀ g, s.engine.job = some g → exec .engineGrant s = .next s) ∧
    (s.engine.job = none →
      (∀ j, s.engine.portLine = some j → s.engine.renewalLine = none ∨ s.engine.last = .renewal →
        exec .engineGrant s = .next { s with engine :=
          { s.engine with job := some ⟨.port, j, false⟩, portLine := none, last := .port } }) ∧
      (∀ j, s.engine.renewalLine = some j → s.engine.portLine = none ∨ s.engine.last = .port →
        exec .engineGrant s = .next { s with engine :=
          { s.engine with job := some ⟨.renewal, j, false⟩, renewalLine := none, last := .renewal } }) ∧
      (s.engine.portLine = none → s.engine.renewalLine = none → exec .engineGrant s = .next s))

/-- A fill passes where the stored body of its cell is valid and its sealed key opens (Table 5-1). A passing one makes its entry
READY before its holders are told: the key is the opened one, h is at or above the stored high-water, the dirty and flush-requested
flags are clear, and the entry of a current generation takes its start point; a failing one quarantines the slot and raises
SLOT_QUARANTINED (R42, R81, R82, R9). That the stored body is taken as it stands when the job ends is the model's choice (log
entry 56). -/
def Obligations.FillEndMakesReadyOrQuarantines : Prop :=
  ∀ (who : Requester) (slot : Fin 32) (c : CellId) (gen : Nat) (orphan : Bool) (e : Entry) (s : State),
    running s = true → s.engine.job = some ⟨who, .fill slot c gen, orphan⟩ → findEntry s slot gen = some e →
    e.filling = true → e.withhold = none → e.cell = c →
    (∀ key, storedKey s slot c = some key →
      (∃ b, validBody (storedCell s slot c).body = some b ∧ Config.rootSeal.close key = b.sealedKey) ∧
      ∃ u e', exec (.fillUnwrapEnd true) s =
          .next (portSettle (tellHolders e.pinPort e.pinRenewal portFilled renewalFilled u)) ∧
        findEntry u slot gen = some e' ∧ e'.filling = false ∧ e'.key = key ∧ e'.dirty = false ∧ e'.flushReq = false ∧
        (∀ x, cellOf (slotOf s slot) c = some x → x.highWater ≤ e'.h ∧
          (roleIn (slotOf s slot) c = some .current →
            e'.n = some (if x.unused then x.params.counterStart else x.ceiling))) ∧
        u.array = s.array ∧ ∀ i, slotCore (slotOf u i) = slotCore (slotOf s i)) ∧
    (storedKey s slot c = none →
      ∃ t, exec (.fillUnwrapEnd false) s = .next t ∧ (slotOf t slot).quarantined = true ∧
        NoticeKey.quarantined slot ∈ t.notices.map noticeKey ∧ t.array = s.array ∧
        ∀ i, slotCore (slotOf t i) = slotCore (slotOf s i))

/-- The free Renewal Engine takes the head of the verification queue in SERVING: a bundle that does not parse fails MALFORMED, an
unknown signer SIGNER_UNKNOWN, a signer without a usable AUTHORITY generation SIGNER_UNAVAILABLE, a sequence at or below the floor
STALE_BUNDLE, a kind or target beyond the signer's class NOT_AUTHORISED, an AUTHORITY slot under a tamper bar, or a READY AUTHORITY
entry with a cause, SIGNER_UNAVAILABLE (R137, R139 to R142). One that passes so far asks for its tag check under the READY entry, or
waits, VERIFYING: pinned on the entry while it is FILLING, joined to a fill that waits for room, or on the fill it begins (R79, R80,
R85). That fill takes a free place or the place of the least recently taken entry that is READY, unpinned and without a cause; a dirty
or flush-requested victim has its HIGHWATER queued, or raised where one is queued, and with a full queue the fill waits (R84, R85). -/
def Obligations.ContextTakenBeginsVerification : Prop :=
  ∀ (i : Fin 2) (rest : List (Fin 2)) (s : State), running s = true → s.device = .serving → s.renewal.verif = none →
    s.renewal.queue = i :: rest →
    let fails (c : Code) : Prop := ∃ t, exec .contextTaken s = .next t ∧ (ctxOf t i).state = .failed ∧
      (ctxOf t i).result.map (·.outcome) = some c ∧ NoticeKey.renewalFinished i ∈ t.notices.map noticeKey ∧
      i ∉ t.renewal.queue ∧ t.renewal.verif = none ∧ t.slots = s.slots ∧ t.array = s.array
    (parseBundle (ctxOf s i).buffer = none → fails .malformed) ∧
    ∀ b, parseBundle (ctxOf s i).buffer = some b →
      (findParty s b.signer = none → fails .signerUnknown) ∧
      ∀ index, findParty s b.signer = some index →
        (boundSlot s index .authority = none → fails .signerUnavailable) ∧
        ∀ slot, boundSlot s index .authority = some slot →
          (usableGen s slot = none → fails .signerUnavailable) ∧
          ∀ c gen, usableGen s slot = some (c, gen) →
            (b.sequence ≤ ((assocOf s index).floor).getD 0 → fails .staleBundle) ∧
            (((assocOf s index).floor).getD 0 < b.sequence →
              let cls := ((assocOf s index).ident.map (·.2)).getD .commissioning
              let verifies (stage : VerifStage) (p : State → Prop) : Prop := ∃ t v, exec .contextTaken s = .next t ∧
                t.renewal.verif = some v ∧ v.ctx = i ∧ v.bundle = b ∧ v.stage = stage ∧ v.authSlot = slot ∧
                v.signGen = gen ∧ (ctxOf t i).state = .verifying ∧ t.slots = s.slots ∧ t.array = s.array ∧ p t
              let asks (job : EngineJob) (t : State) : Prop :=
                t.engine.job = some ⟨.renewal, job, false⟩ ∨ t.engine.renewalLine = some job
              (authorised s cls b.body = false → fails .notAuthorised) ∧
              (authorised s cls b.body = true →
                (s.cache.bars[slot] ≠ none → fails .signerUnavailable) ∧
                (∀ e, s.cache.bars[slot] = none → findEntry s slot gen = some e →
                  (e.filling = false → e.withhold = none → verifies .tagCheck (asks (.bundleTag e.key b.covered b.tag))) ∧
                  (e.filling = false → e.withhold ≠ none → fails .signerUnavailable) ∧
                  (e.filling = true → verifies .authEntry fun t => t.engine = s.engine ∧
                    findEntry t slot gen = some { e with pinRenewal := true })) ∧
                (s.cache.bars[slot] = none → findEntry s slot gen = none →
                  let begun (entries : List Entry) (t : State) : Prop := asks (.fill slot c gen) t ∧
                    t.cache.entries = fillingEntry .renewal slot c gen :: entries
                  ((∃ w ∈ s.cache.waits, w.slot = slot ∧ w.gen = gen) → verifies .authEntry fun t =>
                    t.engine = s.engine ∧ t.cache.entries = s.cache.entries ∧
                    ∀ w ∈ t.cache.waits, w.slot = slot → w.gen = gen → w.renewal = true) ∧
                  ((∀ w ∈ s.cache.waits, w.slot = slot → w.gen ≠ gen) →
                    (s.cache.entries.length < 6 → verifies .authEntry fun t =>
                      begun s.cache.entries t ∧ t.writer.queue = s.writer.queue) ∧
                    ∀ before v after, s.cache.entries = before ++ v :: after → 6 ≤ s.cache.entries.length →
                      evictable v = true → (∀ e ∈ after, evictable e = false) →
                      let rest := s.cache.entries.filter fun e => !(e.slot == v.slot && e.gen == v.gen)
                      let high (j : QJob) : Bool := isHighFor v.slot v.cell j
                      (v.dirty = false → v.flushReq = false → verifies .authEntry fun t =>
                        begun rest t ∧ t.writer.queue = s.writer.queue) ∧
                      (v.dirty = true ∨ v.flushReq = true →
                        ((∃ j ∈ s.writer.queue, high j = true) → verifies .authEntry fun t =>
                          begun rest t ∧ t.writer.queue.length = s.writer.queue.length ∧
                          ∃ j ∈ t.writer.queue, ∃ g h, j.job = .highWater v.slot v.cell g h ∧ v.h ≤ h) ∧
                        ((∀ j ∈ s.writer.queue, high j = false) → s.writer.queue.length < 8 →
                          verifies .authEntry fun t => begun rest t ∧
                            t.writer.queue = s.writer.queue ++
                              [⟨.highWater v.slot v.cell v.gen v.h, none, false, false⟩]) ∧
                        ((∀ j ∈ s.writer.queue, high j = false) → 8 ≤ s.writer.queue.length →
                          verifies .authEntry fun t => t.engine = s.engine ∧ t.cache.entries = s.cache.entries ∧
                            t.writer.queue = s.writer.queue ∧
                            t.cache.waits = s.cache.waits ++ [⟨slot, c, gen, false, true, .renewal⟩]))))))

/-- A tag check passes where the tag is the CMAC of the bundle before it; a failing one fails the context with TAG_MISMATCH. After a
pass the kind checks of ENROL, REVOKE, RESUME and ARM fail the context with their outcomes in their order, or the receipt is asked
for under the signing key with the jobs of the kind planned (R142, R146, R147, R149). That SLOT_BOUND looks at every slot of the
resolved entry, those kept by LEAVE included, is the model's choice (log entry 36); SLOT_NOT_EMPTY is judged role by role, the
model's reading (log entry 48). That the outcome a check does not have changes nothing is the model's reading (log entry 1). -/
def Obligations.TagCheckEndGoesToTheKindChecks : Prop :=
  ∀ (who : Requester) (key message tag : List Byte) (v : Verif) (s : State), running s = true → s.device ≠ .faulted →
    s.engine.job = some ⟨who, .bundleTag key message tag, false⟩ → s.renewal.verif = some v → v.stage = .tagCheck →
    (ctxOf s v.ctx).dropPending = false →
    let fails (pass : Bool) (c : Code) : Prop := ∃ t, exec (.bundleTagCheckEnd pass) s = .next t ∧
      (ctxOf t v.ctx).state = .failed ∧ (ctxOf t v.ctx).result.map (·.outcome) = some c ∧ t.renewal.verif = none ∧
      NoticeKey.renewalFinished v.ctx ∈ t.notices.map noticeKey ∧ t.slots = s.slots ∧ t.array = s.array
    let plans (jobs : List StoreJob) : Prop := ∀ e, findEntry s v.authSlot v.signGen = some e → e.withhold = none →
      ∃ t, exec (.bundleTagCheckEnd true) s = .next t ∧
        t.renewal.verif = some { v with stage := .receipt, plan := jobs } ∧
        (let job : EngineJob := .receipt e.key (receiptMessage s v.bundle)
         t.engine.job = some ⟨.renewal, job, false⟩ ∨ t.engine.renewalLine = some job) ∧
        t.slots = s.slots ∧ t.array = s.array
    (tag ≠ cmac key message → exec (.bundleTagCheckEnd true) s = .next s ∧ fails false .tagMismatch) ∧
    (tag = cmac key message → exec (.bundleTagCheckEnd false) s = .next s ∧
      (∀ record, v.bundle.body = .arm record → plans [.armRecord record]) ∧
      (∀ target role, v.bundle.body = .revoke target role →
        (findParty s target = none → fails true .targetUnknown) ∧
        ∀ index, findParty s target = some index →
          (∀ r, role = some r → plans ((boundSlot s index r).toList.map fun i => .revokeSlot i false)) ∧
          (role = none → plans ((allRoles.filterMap (boundSlot s index)).map (fun i => .revokeSlot i true) ++
            [.association index .empty]))) ∧
      (∀ target roles, v.bundle.body = .resume target roles →
        (findParty s target = none → fails true .targetUnknown) ∧
        ∀ index, findParty s target = some index →
          plans (((allRoles.filter fun r => roleGet roles r).filterMap (boundSlot s index)).map .resume)) ∧
      ∀ index party cls choices, v.bundle.body = .enrol index party cls choices →
        let new := resolveEnrol s index choices
        let free := duplicateParty s index party = false
        let unbound := ∀ r, slotConflict s index new r = false
        (duplicateParty s index party = true → fails true .duplicateParty) ∧
        (free → (∃ r, slotConflict s index new r = true) → fails true .slotBound) ∧
        (free → unbound → slotNotEmpty s index new = true → fails true .slotNotEmpty) ∧
        (free → unbound → slotNotEmpty s index new = false → rolesAllowed cls new = false →
          fails true .roleNotAllowed) ∧
        (free → unbound → slotNotEmpty s index new = false → rolesAllowed cls new = true →
          plans (.association index (.enrol party cls choices) ::
            ((unbindingSlots s index new).map (fun i => .header i none .keep .writeBack) ++
             allRoles.filterMap fun r => bindJob index r (roleGet choices r)))))

/-- After its tag check an INSTALL is checked against its target (R143): an unknown target fails TARGET_UNKNOWN, an unbound role
ROLE_NOT_BOUND, a floor of 65,535 GENERATION_EXHAUSTED, a generation not above the floor and any staged one STALE_GENERATION. Then the
signer is looked up with role KEK (R66, R144): a signer not ACTIVE any more fails SIGNER_UNKNOWN, one without a usable KEK generation,
or with its KEK slot under a bar, UNWRAP_FAILED; under the READY KEK entry the key unwrap is asked for. That the lookup is by the
signer's identifier is the model's reading (log entry 50). -/
def Obligations.InstallIsCheckedAtItsTarget : Prop :=
  ∀ (who : Requester) (key message : List Byte) (v : Verif) (i : InstallBody) (s : State), running s = true →
    s.device ≠ .faulted → s.engine.job = some ⟨who, .bundleTag key message (cmac key message), false⟩ →
    s.renewal.verif = some v → v.stage = .tagCheck → (ctxOf s v.ctx).dropPending = false → v.bundle.body = .install i →
    let fails (c : Code) (p : RecFields → Prop) : Prop := ∃ t r, exec (.bundleTagCheckEnd true) s = .next t ∧
      (ctxOf t v.ctx).state = .failed ∧ (ctxOf t v.ctx).result = some r ∧ r.outcome = c ∧ p r.fields ∧
      t.renewal.verif = none ∧ NoticeKey.renewalFinished v.ctx ∈ t.notices.map noticeKey ∧ t.slots = s.slots ∧
      t.array = s.array
    let stale (slot : Fin 32) : Prop := i.generation ≤ (slotOf s slot).floor ∨
      ∃ k, genNumber (slotOf s slot) .staged = some k ∧ i.generation ≤ k
    (findParty s i.target = none → fails .targetUnknown fun _ => True) ∧
    ∀ index, findParty s i.target = some index →
      (boundSlot s index i.role = none → fails .roleNotBound fun _ => True) ∧
      ∀ slot, boundSlot s index i.role = some slot →
        let named (f : RecFields) : Prop := f.slotGen = some (slot, i.generation)
        ((slotOf s slot).floor = 65535 → fails .generationExhausted named) ∧
        ((slotOf s slot).floor ≠ 65535 → stale slot → fails .staleGeneration named) ∧
        ((slotOf s slot).floor ≠ 65535 → ¬stale slot →
          (findParty s v.bundle.signer = none → fails .signerUnknown named) ∧
          ∀ signer, findParty s v.bundle.signer = some signer →
            (boundSlot s signer .kek = none → fails .unwrapFailed named) ∧
            ∀ kek, boundSlot s signer .kek = some kek →
              (usableGen s kek = none ∨ s.cache.bars[kek] ≠ none → fails .unwrapFailed named) ∧
              ∀ c g e, usableGen s kek = some (c, g) → s.cache.bars[kek] = none → findEntry s kek g = some e →
                e.filling = false → e.withhold = none →
                ∃ t, exec (.bundleTagCheckEnd true) s = .next t ∧
                  t.renewal.verif = some { v with
                    stage := .keyUnwrap, kek := some (kek, g), target := some (slot, ⟨index, i.role⟩) } ∧
                  (ctxOf t v.ctx).fields.slotGen = some (slot, i.generation) ∧
                  (let job : EngineJob := .keyUnwrap e.key i.wrapped
                   t.engine.job = some ⟨.renewal, job, false⟩ ∨ t.engine.renewalLine = some job) ∧
                  t.slots = s.slots ∧ t.array = s.array)

/-- A key unwrap passes where the wrapped key is one that the KEK's wrapping gives (log entry 6). A failing one fails the context
with UNWRAP_FAILED; a passing one asks for the receipt under the new key, the plan being a STAGE of the clamped record, then for rule
IMMEDIATE an ACTIVATE (R97, R144, R145, R150). -/
def Obligations.KeyUnwrapEndPlansTheStage : Prop :=
  ∀ (who : Requester) (kek wrapped : List Byte) (v : Verif) (i : InstallBody) (slot : Fin 32) (b : Binding) (s : State),
    running s = true → s.device ≠ .faulted → s.engine.job = some ⟨who, .keyUnwrap kek wrapped, false⟩ →
    s.renewal.verif = some v → v.stage = .keyUnwrap → v.bundle.body = .install i → v.target = some (slot, b) →
    (ctxOf s v.ctx).dropPending = false →
    (Config.keyWrap.recover kek wrapped = none →
      ∃ t, exec (.keyUnwrapEnd false) s = .next t ∧ (ctxOf t v.ctx).state = .failed ∧
        (ctxOf t v.ctx).result.map (·.outcome) = some .unwrapFailed ∧ t.renewal.verif = none ∧ t.slots = s.slots ∧
        t.array = s.array) ∧
    ∀ key, Config.keyWrap.recover kek wrapped = some key →
      ∃ t, exec (.keyUnwrapEnd true) s = .next t ∧ Config.keyWrap.wrap kek key = wrapped ∧
        wrapped.length = key.length + 8 ∧
        t.renewal.verif = some { v with
          stage := .receipt
          plan := .stage slot b (installRecord i key) i.incomingFloor ::
            (if i.rule = .immediate then [.activate slot i.generation] else []) } ∧
        (let job : EngineJob := .receipt key (receiptMessage s v.bundle)
         t.engine.job = some ⟨.renewal, job, false⟩ ∨ t.engine.renewalLine = some job) ∧
        t.slots = s.slots ∧ t.array = s.array

/-- When the receipt has been computed the context is STORING with a BUNDLE_FLOOR job before its plan, the 16-byte receipt and its
success outcome, and the engine holds no verification (R149, R150). -/
def Obligations.ReceiptEndMakesTheContextStoring : Prop :=
  ∀ (who : Requester) (key message : List Byte) (v : Verif) (s : State), running s = true → s.device ≠ .faulted →
    s.engine.job = some ⟨who, .receipt key message, false⟩ → s.renewal.verif = some v → v.stage = .receipt →
    (ctxOf s v.ctx).dropPending = false →
    ∃ t, exec .receiptEnd s = .next t ∧ (ctxOf t v.ctx).state = .storing ∧
      (ctxOf t v.ctx).jobs.map (·.1) =
        .bundleFloor v.signerIndex v.bundle.signer v.signerClass v.bundle.sequence :: v.plan ∧
      (ctxOf t v.ctx).fields.receipt = some (cmac key message) ∧ (cmac key message).length = 16 ∧
      (ctxOf t v.ctx).success = successOf v.bundle.body ∧
      t.renewal.verif = none ∧ v.ctx ∈ t.renewal.storing ∧ t.array = s.array ∧ t.slots = s.slots

/-! ### The Store Writer -/

/-- The idle Store Writer takes the tamper work list first, its opening write and slot items in every device state and its closing
write in every one but FAULTED; then, in SERVING and HOLDING, a flush item, which writes its entry's h as it stands where it was made
from an entry, and is dropped where its generation has left its cell; then the queue's head in SERVING or in a command hold (R165,
R176, R182, R183).

Of a queued job `v` says what `TakeRules` spells: the reason for which its re-validation drops it, or its writes in the order of
Table 9-2, a tamper SUSPEND or ERASE writing as SUSPEND and REVOKE_SLOT do (R12 to R23, R69, R72, R171, R175, R179, R188). A job with
writes is in hand with them and the hour of the take, and nothing else changes. One that makes none, a RESERVE or HIGHWATER not above
the stored value, completes at once: the flag or the flags of its entry clear and its waiter goes on (R46, R51). A dropped job changes
no image and nothing stored; its STORING context fails with the reason, with RENEWAL_FINISHED and without a receipt, and its queued
jobs go (R153); a PROTECT that waits on it is answered GENERATION_RETIRED, or by the cause its entry carries, SLOT_QUARANTINED at a
QUARANTINED slot; an UNPROTECT is answered OK, also by RETIRED, or by another cause or the quarantine; an ACTIVATE command NOT_STAGED
(R12, R23, R44, R111). With nothing to take nothing changes. Log entries 9, 36, 48, 54, 60 and 65 say where `TakeRules` rests on the
model's choice. -/
def Obligations.JobTakeFollowsTheSources : Prop :=
  ∀ s : State, running s = true → s.writer.job = none → ∃ v : StoreJob → Verdict, TakeRules s v ∧
    (∀ w it rest, s.writer.tamper = some w → w.items = it :: rest → (it = .closing → s.device ≠ .faulted) →
      ∃ t, exec .jobTake s = .next t ∧ t.writer.tamper = some { w with items := rest } ∧ t.array = s.array ∧
        t.slots = s.slots ∧
        (it = .opening →
          t.writer.job = some ⟨.opening, [.tamper w.record], false, s.clock.hour, false, false⟩) ∧
        (∀ slot act, it = .slot slot act →
          ∃ ws, v (match act with | .suspend => .suspend slot | .erase => .revokeSlot slot false) = .write ws ∧
            t.writer.job = some ⟨.item slot act, ws, false, s.clock.hour, false, false⟩) ∧
        (it = .closing → let record := { w.record with pendingSet := w.failed }
          t.writer.job = some ⟨.closing record, [.tamper record], false, s.clock.hour, false, false⟩)) ∧
    (∀ it rest, s.writer.tamper = none → s.writer.flush = it :: rest → servingOrHolding s = true →
      let value := if it.fromEntry then ((findEntry s it.slot it.gen).map (·.h)).getD it.value else it.value
      ∃ t, exec .jobTake s = .next t ∧ t.writer.flush = rest ∧ t.writer.queue = s.writer.queue ∧ t.array = s.array ∧
        (it.fromEntry = true → ∀ e, findEntry s it.slot it.gen = some e →
          (findEntry t it.slot it.gen).map (fun e => (e.dirty, e.flushReq)) = some (false, false)) ∧
        ((∃ reason, v (.highWater it.slot it.cell it.gen value) = .drop reason) → t.writer.job = none) ∧
        (v (.highWater it.slot it.cell it.gen value) = .write [] → t.writer.job = none) ∧
        ∀ w ws, v (.highWater it.slot it.cell it.gen value) = .write (w :: ws) →
          t.writer.job = some ⟨.flush { it with value := value, fromEntry := false }, w :: ws, false, s.clock.hour, false,
            false⟩) ∧
    (∀ q rest, s.writer.tamper = none → s.writer.flush = [] → s.writer.queue = q :: rest →
      (s.device = .serving ∨ s.device = .holding .command) →
      let answered (t : State) (c : Code) (body : List Byte) : Prop :=
        t.port.exec = .free ∧ t.port.retained = some ⟨c, s.port.overrun, body⟩
      let unanswered (q : QJob) : Prop := q.port = false ∨ s.port.exec = .free
      (∀ w ws, v q.job = .write (w :: ws) → ∃ both : Bool,
        (both = true ↔ ∃ slot b g f, q.job = .stage slot b g f ∧ (slotOf s slot).quarantined = true) ∧
        exec .jobTake s = .next { s with writer := { s.writer with
          queue := rest, job := some ⟨.queued q, w :: ws, false, s.clock.hour, false, both⟩ } }) ∧
      (v q.job = .write [] → ∃ t, exec .jobTake s = .next t ∧ t.writer.job = none ∧ t.array = s.array ∧
        (∀ i, slotCore (slotOf t i) = slotCore (slotOf s i)) ∧ t.assocs = s.assocs ∧
        (unanswered q → t.writer.queue = rest) ∧
        (∀ slot c gen n e, q.job = .reserve slot c gen n → unanswered q → findEntry s slot gen = some e →
          findEntry t slot gen = some { e with resvPending := false }) ∧
        (∀ slot c gen n e, q.job = .highWater slot c gen n → unanswered q → findEntry s slot gen = some e →
          findEntry t slot gen = some (if e.h = n then { e with dirty := false, flushReq := false } else e)) ∧
        (∀ op slot c gen n x e k, q.port = true → q.job = .reserve slot c gen n → s.port.exec = .protect op →
          op.stage = .reserve → op.slot = slot → op.cell = c → op.gen = gen → cellOf (slotOf s slot) c = some x →
          findEntry s slot gen = some e → e.withhold = none → e.n = some k → x.wear ≠ some 1000 → k < x.ceiling →
          k < 4294967295 →
          ∃ cls, t.port.exec = .protect { op with stage := .frame k cls } ∧
            (findEntry t slot gen).bind (·.n) = some (k + 1)) ∧
        ∀ op slot c gen n, q.port = true → q.job = .highWater slot c gen n → s.port.exec = .unprotect op →
          op.stage = .high → (slotOf s op.slot).quarantined = false → causeOf s op.slot op.trial.gen = none →
          answered t .ok (be16 op.trial.gen ++ [genRoleByte op.trial.role, u8 op.plain.length] ++ op.plain)) ∧
      ∀ reason, v q.job = .drop reason → ∃ t, exec .jobTake s = .next t ∧ t.writer.job = none ∧ t.slots = s.slots ∧
        t.array = s.array ∧ t.assocs = s.assocs ∧ t.monitor = s.monitor ∧ t.device = s.device ∧
        (q.port = false → q.ctx = none → t = { s with writer := { s.writer with queue := rest } }) ∧
        (∀ i, q.ctx = some i → (ctxOf s i).state = .storing →
          (ctxOf t i).state = .failed ∧ (ctxOf t i).jobs = [] ∧
          (ctxOf t i).result = some ⟨reason, { (ctxOf s i).fields with receipt := none }⟩ ∧
          Notice.renewalFinished i reason ∈ t.notices ∧
          t.writer.queue.map (·.job) = (rest.filter fun j => j.ctx != some i).map (·.job)) ∧
        (∀ i, q.ctx ≠ some i ∨ (ctxOf s i).state ≠ .storing → ctxOf t i = ctxOf s i) ∧
        (∀ op, q.port = true → s.port.exec = .protect op → op.stage = .reserve →
          answered t (match causeOf s op.slot op.gen with
            | some w => causeCode w
            | none => if (slotOf s op.slot).quarantined then .slotQuarantined else .generationRetired) []) ∧
        (∀ op, q.port = true → s.port.exec = .unprotect op → op.stage = .high →
          let ok := answered t .ok (be16 op.trial.gen ++ [genRoleByte op.trial.role, u8 op.plain.length] ++ op.plain)
          match causeOf s op.slot op.trial.gen with
          | some .retired => ok
          | some w => answered t (causeCode w) []
          | none => if (slotOf s op.slot).quarantined = true then answered t .slotQuarantined [] else ok) ∧
        ∀ op, q.port = true → s.port.exec = .activate op → op.stage = .store → answered t .notStaged []) ∧
    (s.writer.tamper = none → s.writer.flush = [] → s.device ≠ .faulted →
      (s.writer.queue = [] ∨ s.device = .loading ∨ s.device = .holding .power) → exec .jobTake s = .next s) ∧
    (s.device = .faulted → (∀ w, s.writer.tamper = some w → w.items = [] ∨ ∃ rest, w.items = .closing :: rest) →
      ∃ t, exec .jobTake s = .next t ∧ t.writer.job = none ∧ t.writer.tamper = s.writer.tamper ∧ t.array = s.array ∧
        t.slots = s.slots)

/-- A STAGE is dropped with STALE_GENERATION unless its generation is above the floor and above any staged one, and then with
ROLE_NOT_BOUND unless the slot is bound as it names; a dropped job of a STORING context fails the context (R14, R153). -/
def Obligations.StageIsRevalidatedAtTheTake : Prop :=
  ∀ (q : QJob) (rest : List QJob) (slot : Fin 32) (b : Binding) (g : GenRecord) (f : Nat) (i : Fin 2) (s : State),
    running s = true → s.writer.job = none → s.writer.tamper = none → s.writer.flush = [] → s.device = .serving →
    s.writer.queue = q :: rest → q.job = .stage slot b g f → q.ctx = some i → q.port = false →
    (ctxOf s i).state = .storing →
    (g.params.generation ≤ (slotOf s slot).floor ∨
        (∃ k, genNumber (slotOf s slot) .staged = some k ∧ g.params.generation ≤ k) →
      ∃ t, exec .jobTake s = .next t ∧ (ctxOf t i).result.map (·.outcome) = some .staleGeneration ∧
        (ctxOf t i).state = .failed ∧ t.slots = s.slots ∧ t.array = s.array ∧ t.writer.job = none) ∧
    ((slotOf s slot).floor < g.params.generation →
        (∀ k, genNumber (slotOf s slot) .staged = some k → k < g.params.generation) →
      ((slotOf s slot).binding ≠ some b →
        ∃ t, exec .jobTake s = .next t ∧ (ctxOf t i).result.map (·.outcome) = some .roleNotBound ∧
          (ctxOf t i).state = .failed ∧ t.slots = s.slots ∧ t.array = s.array ∧ t.writer.job = none) ∧
      ((slotOf s slot).binding = some b →
        ∃ t r, exec .jobTake s = .next t ∧ t.writer.job = some r ∧ r.task = .queued q ∧ t.writer.queue = rest ∧
          t.slots = s.slots ∧ t.array = s.array))

/-- Room goes, in SERVING, to the first waiter in the order of `roomOrder` that can be served, and each receives what its definition
there says; where nobody can be served, and in every other device state, nothing changes (R178). A Port Executor command comes first: a
PROTECT gets its RESERVE and the reservation-pending flag (R44), a write-through UNPROTECT its HIGHWATER (R86), an ACTIVATE its job
(R157), and each waits on it from then on. Then the command's own fill and a Renewal Engine fill get a place, an evicted h going on its
way (R85); the flush-requested entries follow with their h (R88, R89), the jobs held by mark (R27, R188), the next job of the STORING
contexts (R151) and the HOUR job (R37). A RESERVE or HIGHWATER that finds one of its kind, slot and cell is coalesced into it and needs
no place (R177). That one ROOM_GIVEN serves one waiter, a coalescing counting as served, is the model's choice (log entry 14), and so
are the order of a slot's repairs (log entry 59) and that a request on a free line is granted at once (log entry 13). -/
def Obligations.RoomIsGivenInOrder : Prop :=
  ∀ s : State,
    (running s = true → s.device = .serving →
      (∀ before serves after, roomOrder = before ++ serves :: after → (∀ earlier ∈ before, ∀ t, ¬earlier s t) →
        (∃ t, serves s t) → ∃ t, exec .roomGiven s = .next t ∧ serves s t) ∧
      ((∀ serves ∈ roomOrder, ∀ t, ¬serves s t) → exec .roomGiven s = .next s)) ∧
    (s.device ≠ .serving → exec .roomGiven s = .next s)

/-- A write is read back: matched, the next write follows; mismatched once, the same write is made again; mismatched twice, the job
has failed. A job of a slot then leaves the slot QUARANTINED (R180, R181); an ASSOCIATION or BUNDLE_FLOOR leaves its entry DAMAGED
with origin WRITE and all else of it as before the job (R73, Table 9-3); HOUR skips its strip position (R38). The STORING context of a
failed job fails with STORE_FAILED (R153, R181). A write of the tamper record that fails so leaves no valid record and makes the
device FAULTED, and at once a command that waits on a queued job, for room or for the drain of its HOLD is answered FAULTED while any
other goes on (R165, R184, R205, R207); one of the arm record leaves its new copy unreadable, while another copy is in force (R171; log
entry 46). That the entry is DAMAGED where Table 7-4 calls it ACTIVE is the model's choice (log entry 53). -/
def Obligations.WritesAreReadBackAndRetried : Prop :=
  ∀ (r : Running) (w : ArrayWrite) (rest : List ArrayWrite) (s : State), running s = true →
    s.writer.job = some r → r.writes = w :: rest →
    (∃ t, exec (.storeWriteReadBack .matched) s = .next t ∧ t.array = putWrite true s.array w) ∧
    (s.device ≠ .faulted →
      (rest ≠ [] → exec (.storeWriteReadBack .matched) s = .next { s with
        array := putWrite true s.array w
        writer := { s.writer with job := some { r with writes := rest, retried := false } } }) ∧
      (∀ left, r.retried = false → exec (.storeWriteReadBack (.mismatched left)) s = .next { s with
        array := tornWrite left s.array w, writer := { s.writer with job := some { r with retried := true } } })) ∧
    ∀ left, r.retried = true →
      (∀ q slot, r.task = .queued q → jobSlot q.job = some slot →
        ∃ t, exec (.storeWriteReadBack (.mismatched left)) s = .next t ∧ (slotOf t slot).quarantined = true ∧
          NoticeKey.quarantined slot ∈ t.notices.map noticeKey ∧ t.writer.job = none ∧
          ∀ i, slotCore (slotOf t i) = slotCore (slotOf s i)) ∧
      (∀ q index, r.task = .queued q →
        (∃ form, q.job = .association index form) ∨ (∃ party cls v, q.job = .bundleFloor index party cls v) →
        ∃ t, exec (.storeWriteReadBack (.mismatched left)) s = .next t ∧ t.writer.job = none ∧ t.slots = s.slots ∧
          assocOf t index = { assocOf s index with state := .damaged .write } ∧
          ∀ i, i ≠ index → assocOf t i = assocOf s i) ∧
      (∀ q, r.task = .queued q → q.job = .hour →
        ∃ t, exec (.storeWriteReadBack (.mismatched left)) s = .next t ∧ t.writer.job = none ∧ t.slots = s.slots ∧
          t.assocs = s.assocs ∧ t.writer.nextStrip = s.writer.nextStrip + 1 ∧ (q.ctx = none → t.notices = s.notices)) ∧
      (∀ q i, r.task = .queued q → q.ctx = some i → s.device ≠ .faulted → (ctxOf s i).state = .storing →
        (∀ v, s.renewal.verif = some v → v.ctx ≠ i) →
        ∃ t, exec (.storeWriteReadBack (.mismatched left)) s = .next t ∧ (ctxOf t i).state = .failed ∧
          (ctxOf t i).result.map (·.outcome) = some .storeFailed ∧
          NoticeKey.renewalFinished i ∈ t.notices.map noticeKey) ∧
      (∀ record, w = .tamper record → (r.task = .opening ∨ ∃ x, r.task = .closing x) →
        let onJob := ∃ q ∈ s.writer.queue, q.port = true
        let forRoom := ∃ x ∈ s.cache.waits, x.port = true
        let waits :=
          (∃ op, s.port.exec = .protect op ∧ (op.stage = .room ∨ op.stage = .reserve ∧ onJob ∨ op.stage = .fill ∧ forRoom)) ∨
          (∃ op, s.port.exec = .unprotect op ∧ (op.stage = .room ∨ op.stage = .high ∧ onJob ∨ op.stage = .fill ∧ forRoom)) ∨
          (∃ op, s.port.exec = .activate op ∧ (op.stage = .room ∨ op.stage = .store ∧ onJob ∨ op.stage = .fill ∧ forRoom)) ∨
          ∃ flushFailed, s.port.exec = .hold flushFailed
        ∃ t, exec (.storeWriteReadBack (.mismatched left)) s = .next t ∧ t.device = .faulted ∧ t.array.tamper = none ∧
          t.writer.job = none ∧ t.slots = s.slots ∧
          (waits → t.port = (respond .faulted [] s).port) ∧ (¬waits → t.port = s.port)) ∧
      ∀ q record second copy, r.task = .queued q → q.job = .armRecord record → w = .arm second copy →
        s.monitor.armLost = false →
        ∃ t, exec (.storeWriteReadBack (.mismatched left)) s = .next t ∧ t.monitor = s.monitor ∧
          (if second then t.array.armSecond else t.array.armFirst) ≠ some copy ∧
          (if second then t.array.armFirst = s.array.armFirst else t.array.armSecond = s.array.armSecond) ∧
          t.writer.job = none

/-- As the last write of a job is matched the image changes by the job's rule, as `JobDone` spells it. SUSPEND and RESUME set and clear
the flag (R10, R21); STAGE raises the floor to its generation, holds it in its target cell with its unused mark and clears the
quarantine mark, emptying cell B of a slot its take found QUARANTINED (R15, R41); ACTIVATE stamps the staged generation with the hour of
its take, its wear 0, and keeps the previous current one as overlap or empties its cell by the grace fields (R7, R16, R17); OVERLAP_END
empties the overlap's cell (R18); REVOKE_SLOT empties both cells and keeps or clears the binding (R19); HEADER writes binding, policy
and mode (R22); RESERVE raises the ceiling (R46), HIGHWATER the high-water (R51), HOUR moves to the next strip position (R38);
ASSOCIATION empties or enrols its entry (R70, R71), BUNDLE_FLOOR sets the bundle floor (R72), ARM_RECORD puts its record in force, with
its copy and count (R160); a repair changes no image (R188). All else that the array says of the slot, of every other slot and of every
other entry stays. The notices are raised (R24). In the cache and the queue: a generation that leaves its cell, and every one of a
revoked slot, has its entries discarded and its counter jobs removed (R23, R93); an activation moves the entries' roles (R92); the flags
of an entry clear by its RESERVE or HIGHWATER (R46, R87); a slot that becomes WRITE_THROUGH has its dirty entries flushed (R88, R90).

The entries' roles at an activation that empties the previous generation's cell have `HoldersInOrder` as a premise, which holds in
every state that a run reaches: there the entries of the generation that leaves meet a cause, and those who hold them go on.

The requester is told: the last job of a STORING context makes it DONE with its success outcome and RENEWAL_FINISHED, an earlier one
leaves its list (R152); that the context of an ARM_RECORD is DONE also where the comparison that follows raises a tamper event is the
model's choice (log entry 25); a PROTECT that waits on its RESERVE judges its generation again and takes its value (R44, R46, R103); a
write-through UNPROTECT is answered OK, or by a cause other than RETIRED (R86, R111); an ACTIVATE command is answered OK with the
previous generation and whether it stays (R158). That a STAGE places its generation by the slot as its take found it, also where the
slot has become QUARANTINED since, is the model's choice (log entry 45), and so is that one found QUARANTINED raises no OVERLAP_ENDED
(log entry 51). -/
def Obligations.CompletedJobsChangeTheirImage : Prop :=
  ∀ (r : Running) (w : ArrayWrite) (q : QJob) (s : State), running s = true → s.writer.job = some r →
    r.writes = [w] → r.task = .queued q →
    ∃ t, exec (.storeWriteReadBack .matched) s = .next t ∧ JobDone r q s t ∧
      (∀ i j more, q.ctx = some i → s.device ≠ .faulted → (ctxOf s i).state = .storing →
        (ctxOf s i).jobs = (j, .queued) :: more → (∀ v, s.renewal.verif = some v → v.ctx ≠ i) →
        (more = [] → (ctxOf t i).state = .done ∧
          (ctxOf t i).result = some ⟨(ctxOf s i).success, (ctxOf s i).fields⟩ ∧
          Notice.renewalFinished i (ctxOf s i).success ∈ t.notices) ∧
        (more ≠ [] → (∀ record, q.job ≠ .armRecord record) →
          ctxOf t i = { ctxOf s i with jobs := more })) ∧
      let answered (c : Code) (body : List Byte) : Prop :=
        t.port.exec = .free ∧ t.port.retained = some ⟨c, s.port.overrun, body⟩
      (∀ op slot c gen v x e n, q.port = true → q.job = .reserve slot c gen v → s.port.exec = .protect op →
        op.stage = .reserve → op.slot = slot → op.cell = c → op.gen = gen → cellOf (slotOf s slot) c = some x →
        findEntry s slot gen = some e → e.withhold = none → e.n = some n →
        (x.wear = some 1000 ∨ n = 4294967295 → answered .keySpent []) ∧
        (x.wear ≠ some 1000 → n ≠ 4294967295 → n < max x.ceiling v →
          ∃ cls, t.port.exec = .protect { op with stage := .frame n cls } ∧
            (cellOf (slotOf t slot) c).map classOf = some cls ∧
            (findEntry t slot gen).bind (·.n) = some (n + 1) ∧
            let job : EngineJob := .frameProtect e.key (be64 (systemTitle s) ++ be32 n) op.header op.payload
            t.engine.job = some ⟨.port, job, false⟩ ∨ t.engine.portLine = some job)) ∧
      (∀ op slot c gen v, q.port = true → q.job = .highWater slot c gen v → s.port.exec = .unprotect op →
        op.stage = .high → (slotOf s op.slot).quarantined = false →
        (causeOf s op.slot op.trial.gen = none ∨ causeOf s op.slot op.trial.gen = some .retired →
          answered .ok (be16 op.trial.gen ++ [genRoleByte op.trial.role, u8 op.plain.length] ++ op.plain)) ∧
        ∀ w, causeOf s op.slot op.trial.gen = some w → w ≠ .retired → answered (causeCode w) []) ∧
      ∀ op slot gen c x, q.port = true → q.job = .activate slot gen → s.port.exec = .activate op → op.stage = .store →
        genWith (slotOf s slot) .staged = some (c, x) →
        answered .ok (u8 slot.val :: be16 gen ++ be16 ((genNumber (slotOf s slot) .current).getD 0) ++
          [yesNo ((genNumber (slotOf s slot) .current).isSome &&
            !(x.params.graceHours == 0 && x.params.graceCount == 0))])

/-- As the last write of a tamper slot item is matched its slot takes the effect, SUSPEND the suspended flag alone and ERASE that of a
REVOKE_SLOT that keeps the binding, its bar clears, and the list in hand notes the slot as done (R95, R164, R165); the closing write
ends a list without items left, one of the loader with its RESUMED notice (R165, R170); a flush item raises the stored high-water, and
its entry is clean where its h is the value written (R87, R183). A slot item or flush item whose write fails twice leaves its slot
QUARANTINED with its notice; of the slot item the bar clears and the list notes it for the closing write's pending set (R165, R181).
An item of an earlier list is noted in no list (R169); that its end clears the bar too is the model's reading (log entry 26). -/
def Obligations.TamperAndFlushItemsEnd : Prop :=
  ∀ (r : Running) (w : ArrayWrite) (s : State), running s = true → s.writer.job = some r → r.writes = [w] →
    (∀ q, r.task ≠ .queued q) →
    (∃ t, exec (.storeWriteReadBack .matched) s = .next t ∧ t.writer.job = none ∧ t.array = putWrite true s.array w ∧
      t.assocs = s.assocs ∧
      (∀ slot act, r.task = .item slot act →
        t.cache.bars = vset s.cache.bars slot none ∧
        t.writer.tamper = (if r.stale then s.writer.tamper else
          s.writer.tamper.map fun x => { x with completed := x.completed ++ [slot] }) ∧
        (act = .suspend → t.slots = vset s.slots slot { slotOf s slot with suspended := true }) ∧
        (act = .erase → (slotOf t slot).cellA = none ∧ (slotOf t slot).cellB = none ∧
          (slotOf t slot).quarantined = false ∧ (slotOf t slot).floor = (slotOf s slot).floor ∧
          headerOf (slotOf t slot) = headerOf (slotOf s slot) ∧
          ∀ i, i ≠ slot → slotCore (slotOf t i) = slotCore (slotOf s i))) ∧
      (∀ record x, r.task = .closing record → s.writer.tamper = some x → t.slots = s.slots ∧
        (x.items ≠ [] → t.writer.tamper = some x ∧ t.notices = s.notices) ∧
        (x.items = [] → t.writer.tamper = none ∧ (x.resumed = false → t.notices = s.notices) ∧
          (x.resumed = true → Notice.tamper .resumed x.record.origin x.record.levels x.record.pattern
            x.record.eraseCount x.record.suspendCount x.completed ∈ t.notices))) ∧
      ∀ it x, r.task = .flush it → cellOf (slotOf s it.slot) it.cell = some x →
        (cellOf (slotOf t it.slot) it.cell).map (·.highWater) = some (max x.highWater it.value) ∧
        (∀ i, i ≠ it.slot → slotOf t i = slotOf s i) ∧ t.notices = s.notices ∧
        ∀ e, s.device ≠ .faulted → findEntry s it.slot it.gen = some e → findEntry t it.slot it.gen =
          some (if e.h = it.value then { e with dirty := false, flushReq := false } else e)) ∧
    ∀ left, r.retried = true → ∃ t, exec (.storeWriteReadBack (.mismatched left)) s = .next t ∧ t.writer.job = none ∧
      (∀ slot act, r.task = .item slot act →
        (slotOf t slot).quarantined = true ∧ NoticeKey.quarantined slot ∈ t.notices.map noticeKey ∧
        t.cache.bars = vset s.cache.bars slot none ∧
        t.writer.tamper = (if r.stale then s.writer.tamper else
          s.writer.tamper.map fun x => { x with failed := x.failed ++ [(slot, act)] }) ∧
        ∀ i, slotCore (slotOf t i) = slotCore (slotOf s i)) ∧
      ∀ it, r.task = .flush it → (slotOf t it.slot).quarantined = true ∧
        NoticeKey.quarantined it.slot ∈ t.notices.map noticeKey ∧
        ∀ i, slotCore (slotOf t i) = slotCore (slotOf s i)

/-- A field in two positions loses nothing to a torn write that raises it: the reader then finds the old value or the new one
(R175). -/
def Obligations.TornWritesKeepTwoPositionFields : Prop :=
  ∀ (t : TwoPos) (old v : Nat) (whole : Bool), twoValue t = some old → old ≤ v →
    twoValue (setPos (writesSecond t) (ifWhole whole v) t) = some (if whole then v else old)

/-! ### Figures -/

/-- The clamps of an INSTALL: the step is 256 below 512 and 65,536 from 65,536 on, and between them the greatest power of two not above
the value; use limit, lifetime and grace hours are stored as Table 2-2 gives them, and the generation record takes exactly these, with
the counter start as carried; a bundle whose counter start is 4,294,967,295 does not parse (R40, R53). -/
def Obligations.InstallFieldsAreClamped : Prop :=
  (∀ v : Nat, (∃ k, 8 ≤ k ∧ k ≤ 16 ∧ clampStep v = 2 ^ k) ∧ (256 ≤ v → clampStep v ≤ v) ∧
    (v < 65536 → v < 2 * clampStep v) ∧ (v < 512 → clampStep v = 256) ∧ (65536 ≤ v → clampStep v = 65536)) ∧
  (∀ v : Nat, clampUse v = if v ≤ 4000000000 then v else 4000000000) ∧
  (∀ v : Nat, clampLife v =
    if v = 0 then 0 else if v ≤ 23 then 24 else if v ≤ 87600 then v else 87600) ∧
  (∀ v n : Nat, clampGrace v n =
    if v = 0 ∧ n = 0 then 0 else if v = 0 then 720 else if v ≤ 720 then v else 720) ∧
  (∀ (i : InstallBody) (key : List Byte),
    (installRecord i key).params.counterStart = i.counterStart ∧
    (installRecord i key).params.counterStep = clampStep i.counterStep ∧
    (installRecord i key).params.useLimit = clampUse i.useLimit ∧
    (installRecord i key).params.lifetime = clampLife i.lifetime ∧
    (installRecord i key).params.graceHours = clampGrace i.graceHours i.graceCount ∧
    (installRecord i key).params.graceCount = i.graceCount) ∧
  ∀ b : List Byte, fieldNat b 0 1 = 1 → fieldNat b 37 4 = 4294967295 → parseBundle b = none

/-- The wear figure lies between 0 and 1000; it is 1000, class SPENT, exactly when the generation is exhausted or a set limit is
reached within the rounding up (R48, R54, R55). -/
def Obligations.WearIsSpentAtItsLimits : Prop :=
  ∀ (p : GenParams) (use age : Nat),
    wearFigure p use age ≤ 1000 ∧
    (wearClass (wearFigure p use age) = .spent ↔ use = 4294967295 ∨
      (p.useLimit ≠ 0 ∧ 999 * p.useLimit < 1000 * (use - p.counterStart)) ∨
      (p.lifetime ≠ 0 ∧ 999 * p.lifetime < 1000 * age)) ∧
    (p.useLimit = 0 → p.lifetime = 0 → use ≠ 4294967295 → wearFigure p use age = 0)
end

