-- ==== Sys2Proof/Laws/Kept.lean ====
section
/-! SUPPORT. What the shared operations of the blocks can do, said once: `Kept r s` says what `s` keeps of an earlier state `r`.
Its lemmas for the plain updates and the operations of Machine/Ops.lean. -/

namespace Sys2Proof.Machine

/-- `s` keeps the commands that wait, the lines, the array, the clock and the loader's mark of `r`, FAULTED where it was, no
LOADING that was not, and the laws of the blocks. -/
structure Kept (r s : State) : Prop where
  pending : s.pending = r.pending
  pins : s.pins = r.pins
  array : s.array = r.array
  clock : s.clock = r.clock
  loadTamper : s.loadTamper = r.loadTamper
  faulted : r.device = .faulted → s.device = .faulted
  loading : s.device = .loading → r.device = .loading
  laws : BlockLaws r → BlockLaws s

variable {r s t : State}

theorem kept_refl (r : State) : Kept r r := ⟨rfl, rfl, rfl, rfl, rfl, id, id, id⟩

theorem Kept.trans (h : Kept r s) (k : Kept s t) : Kept r t :=
  ⟨k.pending.trans h.pending, k.pins.trans h.pins, k.array.trans h.array, k.clock.trans h.clock,
    k.loadTamper.trans h.loadTamper, fun x => k.faulted (h.faulted x), fun x => h.loading (k.loading x),
    fun x => k.laws (h.laws x)⟩

/-- A change of parts that no law speaks of. -/
theorem kept_parts {slots assocs engine port monitor warning} (h : Kept r s) :
    Kept r { s with
      slots := slots, assocs := assocs, engine := engine, port := port, monitor := monitor, warning := warning } :=
  ⟨h.pending, h.pins, h.array, h.clock, h.loadTamper, h.faulted, h.loading,
    fun x => ⟨(h.laws x).queue, (h.laws x).flush, (h.laws x).cache, (h.laws x).plans, (h.laws x).notices⟩⟩

theorem kept_slots (v) (h : Kept r s) : Kept r { s with slots := v } := kept_parts h
theorem kept_assocs (v) (h : Kept r s) : Kept r { s with assocs := v } := kept_parts h
theorem kept_engine (v) (h : Kept r s) : Kept r { s with engine := v } := kept_parts h
theorem kept_port (v) (h : Kept r s) : Kept r { s with port := v } := kept_parts h
theorem kept_monitor (v) (h : Kept r s) : Kept r { s with monitor := v } := kept_parts h
theorem kept_warning (v) (h : Kept r s) : Kept r { s with warning := v } := kept_parts h

theorem kept_device {d : DevState} (hf : s.device = .faulted → d = .faulted) (hl : d = .loading → s.device = .loading)
    (h : Kept r s) : Kept r { s with device := d } :=
  ⟨h.pending, h.pins, h.array, h.clock, h.loadTamper, fun x => hf (h.faulted x), fun x => h.loading (hl x),
    fun x => ⟨(h.laws x).queue, (h.laws x).flush, (h.laws x).cache, (h.laws x).plans, (h.laws x).notices⟩⟩

theorem kept_writer {w : Writer} (hw : BlockLaws s → QueueLaw w ∧ w.flush.length ≤ 4) (h : Kept r s) :
    Kept r { s with writer := w } :=
  ⟨h.pending, h.pins, h.array, h.clock, h.loadTamper, h.faulted, h.loading,
    fun x => ⟨(hw (h.laws x)).1, (hw (h.laws x)).2, (h.laws x).cache, (h.laws x).plans, (h.laws x).notices⟩⟩

theorem kept_cache {c : Cache} (hc : BlockLaws s → CacheLaw c) (h : Kept r s) : Kept r { s with cache := c } :=
  ⟨h.pending, h.pins, h.array, h.clock, h.loadTamper, h.faulted, h.loading,
    fun x => ⟨(h.laws x).queue, (h.laws x).flush, hc (h.laws x), (h.laws x).plans, (h.laws x).notices⟩⟩

theorem kept_renewal {p : Renewal} (hp : BlockLaws s → PlanLaw p) (h : Kept r s) : Kept r { s with renewal := p } :=
  ⟨h.pending, h.pins, h.array, h.clock, h.loadTamper, h.faulted, h.loading,
    fun x => ⟨(h.laws x).queue, (h.laws x).flush, (h.laws x).cache, hp (h.laws x), (h.laws x).notices⟩⟩

/-- A fold keeps what its step keeps. -/
theorem kept_foldl {α : Type} {f : State → α → State} (hf : ∀ s x, Kept s (f s x)) (l : List α) (h : Kept r s) :
    Kept r (l.foldl f s) := by
  induction l generalizing s with
  | nil => exact h
  | cons x l ih => exact ih (h.trans (hf s x))

/-! ### Slots, entries, notices -/

theorem kept_setSlot {i x} (h : Kept r s) : Kept r (setSlot s i x) := kept_slots _ h
theorem kept_setAssoc {i x} (h : Kept r s) : Kept r (setAssoc s i x) := kept_assocs _ h
theorem kept_setExec {e} (h : Kept r s) : Kept r (setExec e s) := kept_port _ h
theorem kept_respond {c b} (h : Kept r s) : Kept r (respond c b s) := kept_port _ h

theorem mem_keys_raiseIn (n : Notice) (ns : List Notice) (k : NoticeKey) :
    k ∈ (raiseIn n ns).map noticeKey ↔ k = noticeKey n ∨ k ∈ ns.map noticeKey := by
  induction ns with
  | nil => simp [raiseIn]
  | cons m rest ih =>
    unfold raiseIn
    split
    · rename_i e
      simp only [List.map_cons, List.mem_cons, e]
      tauto
    · simp only [List.map_cons, List.mem_cons, ih]
      tauto

/-- Raising a notice keeps one notice of a kind and subject (R199). -/
theorem noticeLaw_raiseIn {n : Notice} {ns : List Notice} (h : NoticeLaw ns) : NoticeLaw (raiseIn n ns) := by
  induction ns with
  | nil => simp [raiseIn, NoticeLaw]
  | cons m rest ih =>
    have h' := List.nodup_cons.1 (h : (noticeKey m :: rest.map noticeKey).Nodup)
    unfold raiseIn
    split
    · rename_i e
      exact List.nodup_cons.2 ⟨e ▸ h'.1, h'.2⟩
    · rename_i e
      refine List.nodup_cons.2 ⟨?_, ih h'.2⟩
      rw [mem_keys_raiseIn]
      rintro (k | k)
      · exact e k
      · exact h'.1 k

theorem kept_raise {n : Notice} (h : Kept r s) : Kept r (raise n s) :=
  ⟨h.pending, h.pins, h.array, h.clock, h.loadTamper, h.faulted, h.loading,
    fun x => ⟨(h.laws x).queue, (h.laws x).flush, (h.laws x).cache, (h.laws x).plans, noticeLaw_raiseIn (h.laws x).notices⟩⟩

/-! ### The writer -/

/-- A writer with another job in hand, tamper list or strip position. -/
theorem kept_writerRest {j w n p} (h : Kept r s) :
    Kept r { s with writer := { s.writer with job := j, tamper := w, nextStrip := n, stripPending := p } } :=
  kept_writer (fun x => ⟨⟨x.queue.length, x.queue.once⟩, x.flush⟩) h

theorem kept_job (j) (h : Kept r s) : Kept r { s with writer := { s.writer with job := j } } := kept_writerRest h
theorem kept_tamper (w) (h : Kept r s) : Kept r { s with writer := { s.writer with tamper := w } } := kept_writerRest h
theorem kept_nextStrip (n) (h : Kept r s) : Kept r { s with writer := { s.writer with nextStrip := n } } :=
  kept_writerRest h
theorem kept_stripPending (p) (h : Kept r s) : Kept r { s with writer := { s.writer with stripPending := p } } :=
  kept_writerRest h

/-- A queue that has lost jobs or none. -/
theorem queueLaw_sublist {w v : Writer} (h : v.queue.Sublist w.queue) (hw : QueueLaw w) : QueueLaw v :=
  ⟨h.length_le.trans hw.length, (h.filterMap _).nodup hw.once⟩

/-- A queue of the same length with the same counter jobs. -/
theorem queueLaw_same {w v : Writer} (hl : v.queue.length = w.queue.length)
    (hk : counterKeys v.queue = counterKeys w.queue) (hw : QueueLaw w) : QueueLaw v :=
  ⟨hl ▸ hw.length, hk ▸ hw.once⟩

/-- Changing jobs without changing which counter jobs they are. -/
theorem counterKeys_map {f : QJob → QJob} (hf : ∀ q, counterKeyOf (f q).job = counterKeyOf q.job) (q : List QJob) :
    counterKeys (q.map f) = counterKeys q := by
  simp only [counterKeys, List.filterMap_map]
  exact congrArg (List.filterMap · q) (funext hf)

theorem kept_setQueue {q : List QJob} (hq : q.Sublist s.writer.queue) (h : Kept r s) : Kept r (setQueue q s) :=
  kept_writer (fun x => ⟨queueLaw_sublist hq x.queue, x.flush⟩) h

theorem kept_filterQueue {p : QJob → Bool} (h : Kept r s) : Kept r (setQueue (s.writer.queue.filter p) s) :=
  kept_setQueue (List.filter_sublist) h

theorem kept_mapQueue {f : QJob → QJob} {j} (hf : ∀ q, counterKeyOf (f q).job = counterKeyOf q.job) (h : Kept r s) :
    Kept r { s with writer := { s.writer with queue := s.writer.queue.map f, job := j } } :=
  kept_writer (fun x => ⟨queueLaw_same (w := s.writer) (List.length_map ..) (counterKeys_map hf _) x.queue, x.flush⟩) h

/-- A job joins a queue with room that holds no counter job of its cell (R177). -/
theorem kept_enqueue {q : QJob} (hr : hasRoom s = true)
    (hq : ∀ k, counterKeyOf q.job = some k → k ∉ counterKeys s.writer.queue) (h : Kept r s) : Kept r (enqueue q s) := by
  refine kept_writer (fun x => ⟨⟨?_, ?_⟩, x.flush⟩) h
  · simp only [hasRoom, Bool.and_eq_true, decide_eq_true_eq] at hr
    simp only [List.length_append, List.length_singleton]
    omega
  · simp only [counterKeys, List.filterMap_append, List.filterMap_cons, List.filterMap_nil]
    cases hk : counterKeyOf q.job with
    | none => simpa [counterKeys] using x.queue.once
    | some k =>
      refine List.Nodup.append x.queue.once (List.nodup_singleton k) ?_
      simpa [counterKeys] using hq k hk

theorem kept_enqueuePlain {j : StoreJob} {c p f} (hr : hasRoom s = true) (hj : counterKeyOf j = none) (h : Kept r s) :
    Kept r (enqueue ⟨j, c, p, f⟩ s) :=
  kept_enqueue hr (fun k e => by simp [hj] at e) h

/-! ### The cache -/

/-- A cache that has lost entries and fills or none, in any order. -/
theorem cacheLaw_subperm {c d : Cache} (hl : d.entries.length ≤ c.entries.length)
    (hk : (cacheKeys d).Subperm (cacheKeys c)) (h : CacheLaw c) : CacheLaw d :=
  let ⟨_, hp, hs⟩ := hk
  ⟨hl.trans h.length, hp.nodup_iff.1 (hs.nodup h.once)⟩

theorem keys_sublist {c d : Cache} (he : (d.entries.map fun e => (e.slot, e.gen)).Sublist (c.entries.map fun e => (e.slot, e.gen)))
    (hw : (d.waits.map fun w => (w.slot, w.gen)).Sublist (c.waits.map fun w => (w.slot, w.gen))) :
    (cacheKeys d).Subperm (cacheKeys c) := (he.append hw).subperm

theorem kept_bars (b) (h : Kept r s) : Kept r { s with cache := { s.cache with bars := b } } :=
  kept_cache (fun x => ⟨x.cache.length, x.cache.once⟩) h

/-- Entries that keep their slots and generations, some of them gone. -/
theorem kept_entries {es : List Entry}
    (he : (es.map fun e => (e.slot, e.gen)).Sublist (s.cache.entries.map fun e => (e.slot, e.gen))) (h : Kept r s) :
    Kept r { s with cache := { s.cache with entries := es } } :=
  kept_cache (fun x => cacheLaw_subperm (by simpa using he.length_le) (keys_sublist (c := s.cache) he (List.Sublist.refl _)) x.cache) h

/-- Waiting fills that keep their slots and generations, some of them gone. -/
theorem kept_waits {ws : List WaitFill}
    (hw : (ws.map fun w => (w.slot, w.gen)).Sublist (s.cache.waits.map fun w => (w.slot, w.gen))) (h : Kept r s) :
    Kept r { s with cache := { s.cache with waits := ws } } :=
  kept_cache (fun x => cacheLaw_subperm (c := s.cache) (d := { s.cache with waits := ws }) (Nat.le_refl _)
    (keys_sublist (List.Sublist.refl _) hw) x.cache) h

theorem map_keys_sublist {es : List Entry} {f : Entry → Entry} (hf : ∀ e, (f e).slot = e.slot ∧ (f e).gen = e.gen) :
    ((es.map f).map fun e => (e.slot, e.gen)).Sublist (es.map fun e => (e.slot, e.gen)) := by
  rw [List.map_map]
  have : (fun e : Entry => (e.slot, e.gen)) ∘ f = fun e => (e.slot, e.gen) :=
    funext fun e => by simp [(hf e).1, (hf e).2]
  rw [this]

theorem filterMap_keys_sublist {es : List Entry} {f : Entry → Option Entry}
    (hf : ∀ e x, f e = some x → x.slot = e.slot ∧ x.gen = e.gen) :
    ((es.filterMap f).map fun e => (e.slot, e.gen)).Sublist (es.map fun e => (e.slot, e.gen)) := by
  induction es with
  | nil => simp
  | cons e es ih =>
    cases hx : f e with
    | none => simpa [hx] using ih.cons _
    | some x => simpa [hx, (hf e x hx).1, (hf e x hx).2] using ih.cons_cons (e.slot, e.gen)

theorem kept_mapEntries {f : Entry → Entry} (hf : ∀ e, (f e).slot = e.slot ∧ (f e).gen = e.gen) (h : Kept r s) :
    Kept r { s with cache := { s.cache with entries := s.cache.entries.map f } } :=
  kept_entries (map_keys_sublist hf) h

theorem kept_updEntry {i g f} (hf : ∀ e, (f e).slot = e.slot ∧ (f e).gen = e.gen) (h : Kept r s) :
    Kept r (updEntry i g f s) :=
  kept_mapEntries (fun e => by split <;> simp [hf]) h

theorem kept_withEntries {es : List Entry}
    (he : (es.map fun e => (e.slot, e.gen)).Sublist (s.cache.entries.map fun e => (e.slot, e.gen))) (h : Kept r s) :
    Kept r (withEntries es s) :=
  kept_writer (s := { s with cache := { s.cache with entries := es } })
    (fun x => ⟨⟨x.queue.length, x.queue.once⟩, by simpa using x.flush⟩) (kept_entries he h)

theorem kept_releasePins {q : Requester} (h : Kept r s) : Kept r (releasePins q s) := by
  refine kept_withEntries (filterMap_keys_sublist fun e x hx => ?_) h
  unfold releaseEntry at hx
  dsimp only at hx
  repeat' split at hx
  all_goals first | (cases hx; exact ⟨rfl, rfl⟩) | cases hx

theorem addCause_keys (w : Withhold) (e : Entry) : (addCause w e).slot = e.slot ∧ (addCause w e).gen = e.gen := by
  unfold addCause
  repeat' split
  all_goals exact ⟨rfl, rfl⟩

theorem kept_giveCause {w p} (h : Kept r s) : Kept r (giveCause w p s) := by
  refine kept_withEntries (filterMap_keys_sublist fun e x hx => ?_) h
  repeat' split at hx
  all_goals first | (cases hx; first | exact ⟨rfl, rfl⟩ | exact addCause_keys w e) | cases hx

theorem kept_removeEntry {i g} (h : Kept r s) : Kept r (removeEntry i g s) :=
  kept_withEntries ((List.filter_sublist).map _) h

/-! ### Engine and answers -/

theorem kept_setLine {q j} (h : Kept r s) : Kept r (setLine q j s) := by cases q <;> exact kept_engine _ h
theorem kept_grantTo {q j} (h : Kept r s) : Kept r (grantTo q j s) := kept_engine _ (kept_setLine h)
theorem kept_place {q j} (h : Kept r s) : Kept r (place q j s) := by
  unfold place; split
  · exact kept_grantTo h
  · exact kept_setLine h
theorem kept_engineFree (h : Kept r s) : Kept r (engineFree s) := kept_engine _ h

theorem kept_portLetsGo (h : Kept r s) : Kept r (portLetsGo s) := by
  refine kept_waits (s := { s with writer := { s.writer with
    queue := s.writer.queue.map unwaited, job := s.writer.job.map fun q => { q with task := unwaitedTask q.task } } }) ?_
    (kept_mapQueue (fun _ => rfl) h)
  rw [List.map_map]
  exact (List.filter_sublist).map _

theorem kept_finish {c b} (h : Kept r s) : Kept r (finish c b s) :=
  kept_respond (kept_releasePins (kept_portLetsGo h))

end Sys2Proof.Machine
end

