-- ==== Sys2Proof/Laws/KeptTable.lean ====
section
/-! SUPPORT. What the operations of the Key Table, of the Store Writer's queue and of the cache keep. -/

namespace Sys2Proof.Machine

variable {r s t : State}

/-! ### Wear -/

theorem kept_setWear {slot : Fin 32} {c : CellId} (h : Kept r s) : Kept r (setWear slot c s) := by
  unfold setWear
  repeat' with_reducible first
    | exact h | refine kept_setSlot ?_ | split

theorem kept_recomputeWear {slot : Fin 32} {c : CellId} (h : Kept r s) : Kept r (recomputeWear slot c s) := by
  unfold recomputeWear; dsimp -proj only
  repeat' with_reducible first
    | exact h | refine kept_raise ?_ | refine kept_setWear ?_ | split

theorem kept_hourWear {slot : Fin 32} (h : Kept r s) : Kept r (hourWear s slot) := by
  unfold hourWear
  repeat' with_reducible first
    | exact h | refine kept_recomputeWear ?_ | split

theorem kept_loadWear {slot : Fin 32} (h : Kept r s) : Kept r (loadWear s slot) := by
  unfold loadWear
  repeat' with_reducible first
    | exact h | refine kept_setWear ?_

/-! ### The queue -/

/-- A counter job asked for: coalesced, or at the tail of a queue with room that holds none of its kind, slot and cell (R177). -/
theorem kept_requestCounter {same : QJob → Bool} {job : StoreJob} {v : Nat} {port hold : Bool}
    (hn : ∀ q, same q = false → counterKeyOf job ≠ counterKeyOf q.job ∨ counterKeyOf job = none)
    (e : requestCounter same job v port hold s = some t) (h : Kept r s) : Kept r t := by
  unfold requestCounter at e
  split at e
  · cases e
    refine kept_writer (fun x => ⟨queueLaw_same (w := s.writer) (List.length_map ..) (counterKeys_map (fun q => ?_) _)
      x.queue, x.flush⟩) h
    split
    · cases hj : q.job <;> simp [coalesce, raiseValue, counterKeyOf, hj]
    · rfl
  · rename_i hq
    split at e
    · rename_i hr
      cases e
      refine kept_enqueue hr (fun k hk hm => ?_) h
      obtain ⟨q, hq', hk'⟩ := List.mem_filterMap.1 hm
      have hs : same q = false := by
        by_contra hc
        exact hq (List.any_eq_true.2 ⟨q, hq', by simpa using hc⟩)
      rcases hn q hs with hne | hno
      · exact hne (by rw [hk']; exact hk)
      · rw [show counterKeyOf job = some k from hk] at hno; cases hno
    · cases e

theorem kept_requestHigh {slot : Fin 32} {c : CellId} {gen v : Nat} {port hold : Bool}
    (e : requestHigh slot c gen v port hold s = some t) (h : Kept r s) : Kept r t := by
  refine kept_requestCounter (fun q hq => Or.inl fun hk => ?_) e h
  unfold isHighFor at hq
  cases hj : q.job <;> simp_all [counterKeyOf]

theorem kept_requestReserve {slot : Fin 32} {c : CellId} {gen v : Nat} {port : Bool}
    (e : requestReserve slot c gen v port s = some t) (h : Kept r s) : Kept r t := by
  refine kept_requestCounter (fun q hq => Or.inl fun hk => ?_) e h
  unfold isReserveFor at hq
  cases hj : q.job <;> simp_all [counterKeyOf]

/-- A job that a slot's marks call for is no counter job. -/
theorem markedJob_plain {slot : Fin 32} {x : StoreJob × SlotImg} (e : markedJob s slot = some x) :
    counterKeyOf x.1 = none := by
  unfold markedJob at e
  dsimp only at e
  repeat' split at e
  all_goals first | (cases e; rfl) | (cases e; done) | skip
  all_goals (rename_i e'; repeat' split at e'
             all_goals first | (cases e'; cases e; rfl) | cases e')

theorem kept_queueMarked {slot : Fin 32} (h : Kept r s) : Kept r (queueMarked s slot) := by
  unfold queueMarked
  split
  · exact h
  · split
    · rename_i hm hr
      exact kept_enqueuePlain (s := setSlot s slot _) hr (markedJob_plain hm) (kept_setSlot h)
    · exact h

theorem kept_queueMarks {slot : Fin 32} (h : Kept r s) : Kept r (queueMarks s slot) := by
  unfold queueMarks
  repeat' with_reducible first
    | exact h | refine kept_queueMarked ?_ | split

theorem kept_markActivation {slot : Fin 32} (h : Kept r s) : Kept r (markActivation s slot) := by
  unfold markActivation; dsimp -proj only
  repeat' with_reducible first
    | exact h | refine kept_setSlot ?_ | split

theorem kept_markOverlap {slot : Fin 32} (h : Kept r s) : Kept r (markOverlap s slot) := by
  unfold markOverlap; dsimp -proj only
  repeat' with_reducible first
    | exact h | refine kept_setSlot ?_ | split

theorem kept_examineSlot {slot : Fin 32} (h : Kept r s) : Kept r (examineSlot s slot) := by
  unfold examineSlot
  repeat' with_reducible first
    | exact h | refine kept_queueMarks ?_ | refine kept_markActivation ?_ | refine kept_markOverlap ?_

theorem kept_graceAccept {slot : Fin 32} {gen : Nat} (h : Kept r s) : Kept r (graceAccept slot gen s) := by
  unfold graceAccept; dsimp -proj only
  repeat' with_reducible first
    | exact h | refine kept_setSlot ?_ | refine kept_queueMarks ?_ | split

theorem kept_requestHour (h : Kept r s) : Kept r (requestHour s) := by
  unfold requestHour
  split
  · split
    · exact h
    · split
      · rename_i hr
        exact kept_stripPending _ (kept_enqueuePlain hr rfl h)
      · exact kept_stripPending _ h
  · exact kept_stripPending _ h

/-! ### The cache -/

theorem findEntry_none {slot : Fin 32} {gen : Nat} (e : findEntry s slot gen = none) (w : WaitFill → Bool)
    (hw : ∀ x ∈ s.cache.waits, x.slot = slot → x.gen = gen → w x = true) (ha : s.cache.waits.any w = false) :
    (slot, gen) ∉ cacheKeys s.cache := by
  intro hm
  simp only [cacheKeys, List.mem_append, List.mem_map, Prod.mk.injEq] at hm
  rcases hm with ⟨x, hx, h1, h2⟩ | ⟨x, hx, h1, h2⟩
  · have := List.find?_eq_none.1 e x hx
    simp [h1, h2] at this
  · have := List.any_eq_false.1 ha x hx
    exact this (hw x hx h1 h2)

/-- What making a place leaves: the same waits, entries lost, and under the laws a free place (R80, R84). -/
theorem makePlace_spec (e : makePlace s = some t) (h : Kept r s) :
    Kept r t ∧ t.cache.waits = s.cache.waits ∧ t.cache.entries.Sublist s.cache.entries ∧
      (s.cache.entries.length ≤ 6 → t.cache.entries.length < 6) := by
  have gone : ∀ u v, u.cache = s.cache → victim s = some v →
      (removeEntry v.slot v.gen u).cache.entries.length < s.cache.entries.length := by
    intro u v hu hv
    have hm : v ∈ s.cache.entries := List.mem_reverse.1 (List.mem_of_find?_eq_some hv)
    show (u.cache.entries.filter fun e => !isEntry v.slot v.gen e).length < _
    rw [hu]
    refine lt_of_le_of_ne (List.length_filter_le ..) fun hc => ?_
    have := List.length_filter_eq_length_iff.1 hc v hm
    simp [isEntry] at this
  unfold makePlace at e
  split at e
  · cases e
    exact ⟨h, rfl, List.Sublist.refl _, fun _ => by assumption⟩
  · split at e
    · cases e
    · rename_i v hv
      split at e
      · obtain ⟨u, hu, rfl⟩ := Option.map_eq_some_iff.1 e
        have hc : u.cache = s.cache := by
          simp only [requestHigh, requestCounter] at hu
          repeat' split at hu
          all_goals cases hu
          all_goals rfl
        have hl := gone u v hc hv
        refine ⟨kept_removeEntry (kept_requestHigh hu h), ?_, ?_, fun x => by omega⟩
        · show u.cache.waits = _
          rw [hc]
        · show (u.cache.entries.filter _).Sublist _
          rw [hc]
          exact List.filter_sublist
      · cases e
        have hl := gone s v rfl hv
        exact ⟨kept_removeEntry h, rfl, List.filter_sublist, fun x => by omega⟩

/-- An entry placed in a free place, its key new among those of the cache. -/
theorem kept_placeFilling {line : Requester} {e : Entry} (hl : BlockLaws r → s.cache.entries.length < 6)
    (hk : BlockLaws r → (e.slot, e.gen) ∉ cacheKeys s.cache) (h : Kept r s) : Kept r (placeFilling line e s) :=
  kept_place ⟨h.pending, h.pins, h.array, h.clock, h.loadTamper, h.faulted, h.loading, fun x =>
    ⟨(h.laws x).queue, (h.laws x).flush, ⟨hl x, List.nodup_cons.2 ⟨hk x, (h.laws x).cache.once⟩⟩, (h.laws x).plans,
      (h.laws x).notices⟩⟩

theorem keys_subset {c d : Cache} (he : d.entries.Sublist c.entries) (hw : d.waits.Sublist c.waits)
    {k : Fin 32 × Nat} (h : k ∉ cacheKeys c) : k ∉ cacheKeys d := fun hm =>
  h (((he.map _).append (hw.map _)).subset hm)

theorem kept_beginFill {q : Requester} {slot : Fin 32} {c : CellId} {gen : Nat}
    (hk : (slot, gen) ∉ cacheKeys s.cache) (h : Kept r s) : Kept r (beginFill q slot c gen s) := by
  unfold beginFill
  split
  · rename_i e
    obtain ⟨h', hw, he, hl⟩ := makePlace_spec e (kept_refl s)
    exact h.trans (kept_placeFilling (fun x => hl x.cache.length)
      (fun _ => keys_subset he (hw ▸ List.Sublist.refl _) hk) h')
  · refine kept_cache (fun x => ⟨x.cache.length, ?_⟩) h
    simp only [cacheKeys, List.map_append, List.map_cons, List.map_nil, ← List.append_assoc]
    exact List.Nodup.append x.cache.once (List.nodup_singleton _) (by simpa [cacheKeys] using hk)

theorem pin_keys (q : Requester) (e : Entry) : (pin q e).slot = e.slot ∧ (pin q e).gen = e.gen := by cases q <;> exact ⟨rfl, rfl⟩

/-- A hit moves an entry of the cache to the most recent end (R79). -/
theorem kept_takeHit {q : Requester} {e : Entry} (he : e ∈ s.cache.entries) (h : Kept r s) : Kept r (takeHit q e s) := by
  have hp := List.perm_cons_erase he
  have hs : ((s.cache.entries.filter fun x => !isEntry e.slot e.gen x)).Sublist (s.cache.entries.erase e) := by
    have hf : (s.cache.entries.erase e).filter (fun x => !isEntry e.slot e.gen x) =
        s.cache.entries.filter fun x => !isEntry e.slot e.gen x := by
      clear hp
      generalize s.cache.entries = l
      induction l with
      | nil => rfl
      | cons a l ih =>
        by_cases ha : a = e
        · subst ha; simp [isEntry]
        · rw [List.erase_cons_tail (by simpa using ha)]
          simp only [List.filter_cons, ih]
    exact hf ▸ List.filter_sublist
  refine kept_cache (fun x => cacheLaw_subperm (c := s.cache) ?_ ?_ x.cache) h
  · rw [hp.length_eq]
    exact Nat.succ_le_succ hs.length_le
  · have hc : ((e :: s.cache.entries.filter fun x => !isEntry e.slot e.gen x).map fun x => (x.slot, x.gen)).Subperm
        (s.cache.entries.map fun x => (x.slot, x.gen)) :=
      ((hs.cons_cons e).map _).subperm.trans (hp.symm.map _).subperm
    simp only [cacheKeys, List.map_cons, pin_keys]
    exact hc.append (List.Subperm.refl _)

theorem joinWait_keys (q : Requester) (w : WaitFill) : (joinWait q w).slot = w.slot ∧ (joinWait q w).gen = w.gen := by
  cases q <;> exact ⟨rfl, rfl⟩

theorem kept_askCache {q : Requester} {slot : Fin 32} {c : CellId} {gen : Nat} {a : Ask}
    (e : askCache q slot c gen s = (a, t)) (h : Kept r s) : Kept r t := by
  have h2 : t = (askCache q slot c gen s).2 := by rw [e]
  rw [h2]
  clear e h2
  unfold askCache
  split
  · exact h
  · split
    · exact h
    · split
      · rename_i e he
        split
        · exact kept_updEntry (pin_keys q) h
        · split
          · exact h
          · exact kept_takeHit (List.mem_of_find?_eq_some he) h
      · rename_i he
        split
        · refine kept_waits (Eq.subst (motive := fun l => List.Sublist l _) (Eq.symm ?_) (List.Sublist.refl _)) h
          rw [List.map_map]
          refine List.map_congr_left fun w _ => ?_
          simp only [Function.comp]
          split
          · simp [joinWait_keys]
          · rfl
        · rename_i hw
          exact kept_beginFill (findEntry_none he (isWait slot gen) (fun x _ h1 h2 => by simp [isWait, h1, h2]) (by simpa using hw)) h

theorem kept_clearUnused {slot : Fin 32} {c : CellId} (h : Kept r s) : Kept r (clearUnused slot c s) := by
  unfold clearUnused; dsimp -proj only
  repeat' with_reducible first
    | exact h | refine kept_setSlot ?_

theorem readyEntry_keys (u : State) (key : List Byte) (e : Entry) :
    (readyEntry u key e).slot = e.slot ∧ (readyEntry u key e).gen = e.gen := by
  unfold readyEntry
  dsimp only
  split <;> exact ⟨rfl, rfl⟩

theorem kept_makeReady {key : List Byte} {e : Entry} (h : Kept r s) : Kept r (makeReady key e s) := by
  unfold makeReady
  dsimp -proj only
  split
  · exact kept_clearUnused (kept_updEntry (readyEntry_keys s key) h)
  · exact kept_updEntry (readyEntry_keys s key) h

theorem kept_markFlush {p : Entry → Bool} (h : Kept r s) : Kept r (markFlush p s) :=
  kept_mapEntries (fun e => by split <;> exact ⟨rfl, rfl⟩) h

theorem kept_flushOne {e : Entry} (he : flushOne s e = some t) (h : Kept r s) : Kept r t := by
  unfold flushOne at he
  split at he
  · obtain ⟨u, hu, rfl⟩ := Option.map_eq_some_iff.1 he
    exact kept_updEntry (fun _ => ⟨rfl, rfl⟩) (kept_requestHigh hu h)
  · cases he

theorem kept_flushRequests (h : Kept r s) : Kept r (flushRequests s) := by
  unfold flushRequests
  split
  · refine kept_foldl (fun u e => ?_) _ h
    cases he : flushOne u e with
    | none => exact kept_refl u
    | some t => exact kept_flushOne he (kept_refl u)
  · exact h

end Sys2Proof.Machine
end

