-- ==== Sys2Proof/Laws/KeptFrame.lean ====
section
/-! SUPPORT. What PROTECT, UNPROTECT and ACTIVATE keep at each of their stages. -/

namespace Sys2Proof.Machine

variable {r s t : State}

/-! ### PROTECT -/

theorem kept_joinReserve {slot : Fin 32} {c : CellId} (h : Kept r s) : Kept r (joinReserve slot c s) :=
  kept_mapQueue (fun q => by split <;> rfl) h

theorem kept_setPending {slot : Fin 32} {gen : Nat} {b : Bool} (h : Kept r s) :
    Kept r (setPending slot gen b s) := by
  unfold setPending
  repeat' with_reducible first
    | exact h | refine kept_updEntry (fun _ => ⟨rfl, rfl⟩) ?_

theorem kept_protectReserve {op : ProtectOp} {e : Entry} {x : CellImg} (h : Kept r s) :
    Kept r (protectReserve op e x s) := by
  unfold protectReserve
  repeat' with_reducible first
    | exact h | refine kept_setExec ?_ | refine kept_requestReserve ‹_› ?_ | refine kept_joinReserve ?_
    | refine kept_setPending ?_ | split

theorem kept_earlyReserve {op : ProtectOp} (h : Kept r s) : Kept r (earlyReserve op s) := by
  unfold earlyReserve
  repeat' with_reducible first
    | exact h | refine kept_requestReserve ‹_› ?_ | refine kept_setPending ?_ | split

theorem kept_giveValue {op : ProtectOp} {key : List Byte} {n : Nat} (h : Kept r s) :
    Kept r (giveValue op key n s) := by
  unfold giveValue; dsimp -proj only
  repeat' with_reducible first
    | exact h | refine kept_place ?_ | refine kept_setExec ?_ | refine kept_updEntry (fun _ => ⟨rfl, rfl⟩) ?_
    | refine kept_recomputeWear ?_ | refine kept_earlyReserve ?_

theorem kept_takeValue {op : ProtectOp} (h : Kept r s) : Kept r (takeValue op s) := by
  unfold takeValue
  repeat' with_reducible first
    | exact h | refine kept_finish ?_ | refine kept_protectReserve ?_ | refine kept_giveValue ?_ | split

theorem kept_protectReady {op : ProtectOp} (h : Kept r s) : Kept r (protectReady op s) := by
  unfold protectReady
  repeat' with_reducible first
    | exact h | refine kept_finish ?_ | refine kept_takeValue ?_ | split

theorem kept_runProtect {q : ProtectReq} (h : Kept r s) : Kept r (runProtect q s) := by
  unfold runProtect; dsimp -proj only
  repeat' with_reducible first
    | exact h | refine kept_respond ?_ | refine kept_setExec ?_ | refine kept_askCache ‹_› ?_
    | refine kept_protectReady ?_ | split

theorem kept_protectEnd {op : ProtectOp} {counter : Nat} {cls : WearClass} {cipher tag : List Byte} (h : Kept r s) :
    Kept r (protectEnd op counter cls cipher tag s) := by
  unfold protectEnd
  repeat' with_reducible first
    | exact h | refine kept_finish ?_ | split

theorem kept_protectGone {op : ProtectOp} (h : Kept r s) : Kept r (protectGone op s) := by
  unfold protectGone
  repeat' with_reducible first
    | exact h | refine kept_finish ?_ | split

/-! ### UNPROTECT -/

theorem kept_placeUnprotect {op : UnprotectOp} {key : List Byte} (h : Kept r s) :
    Kept r (placeUnprotect op key s) := by
  unfold placeUnprotect
  repeat' with_reducible first
    | exact h | refine kept_place ?_ | refine kept_setExec ?_

theorem kept_runTrials {op : UnprotectOp} {ts : List Trial} (h : Kept r s) : Kept r (runTrials op ts s) := by
  induction ts generalizing op s with
  | nil => exact kept_finish h
  | cons t rest ih =>
    unfold runTrials; dsimp -proj only
    repeat' with_reducible first
      | exact h | refine ih ?_ | refine kept_askCache ‹_› ?_ | refine kept_finish ?_ | refine kept_placeUnprotect ?_
      | refine kept_releasePins ?_ | refine kept_setExec ?_ | split

theorem kept_unprotectReady {op : UnprotectOp} (h : Kept r s) : Kept r (unprotectReady op s) := by
  unfold unprotectReady
  repeat' with_reducible first
    | exact h | refine kept_placeUnprotect ?_ | refine kept_runTrials ?_ | split

theorem kept_runUnprotect {q : UnprotectReq} (h : Kept r s) : Kept r (runUnprotect q s) := by
  unfold runUnprotect
  repeat' with_reducible first
    | exact h | refine kept_respond ?_ | refine kept_runTrials ?_ | split

theorem kept_waitThrough {op : UnprotectOp} (h : Kept r s) : Kept r (waitThrough op s) := by
  unfold waitThrough
  repeat' with_reducible first
    | exact h | refine kept_setExec ?_ | refine kept_updEntry (fun _ => ⟨rfl, rfl⟩) ?_

theorem kept_requestThrough {op : UnprotectOp} (h : Kept r s) : Kept r (requestThrough op s) := by
  unfold requestThrough
  repeat' with_reducible first
    | exact h | refine kept_setExec ?_ | refine kept_waitThrough ?_ | refine kept_requestHigh ‹_› ?_ | split

theorem kept_acceptFrame {op : UnprotectOp} (h : Kept r s) : Kept r (acceptFrame op s) := by
  unfold acceptFrame
  repeat' with_reducible first
    | exact h | refine kept_finish ?_ | refine kept_updEntry (fun _ => ⟨rfl, rfl⟩) ?_
    | refine kept_graceAccept ?_ | refine kept_requestThrough ?_ | split

theorem kept_unprotectEnd {op : UnprotectOp} {plain : Option (List Byte)} (h : Kept r s) :
    Kept r (unprotectEnd op plain s) := by
  unfold unprotectEnd
  repeat' with_reducible first
    | exact h | refine kept_finish ?_ | refine kept_runTrials ?_ | refine kept_acceptFrame ?_ | split

theorem kept_unprotectHighEnd {op : UnprotectOp} (h : Kept r s) : Kept r (unprotectHighEnd op s) := by
  unfold unprotectHighEnd
  repeat' with_reducible first
    | exact h | refine kept_finish ?_ | split

/-! ### ACTIVATE -/

theorem kept_activateReady {op : ActivateOp} (h : Kept r s) : Kept r (activateReady op s) := by
  unfold activateReady
  repeat' with_reducible first
    | exact h | refine kept_finish ?_ | refine kept_place ?_ | refine kept_setExec ?_ | split

theorem kept_runActivate {q : ActivateReq} (h : Kept r s) : Kept r (runActivate q s) := by
  unfold runActivate; dsimp -proj only
  repeat' with_reducible first
    | exact h | refine kept_respond ?_ | refine kept_setExec ?_ | refine kept_askCache ‹_› ?_
    | refine kept_activateReady ?_ | split

theorem kept_requestActivate {op : ActivateOp} (h : Kept r s) : Kept r (requestActivate op s) := by
  unfold requestActivate
  split
  · rename_i hr
    exact kept_setExec (kept_enqueuePlain hr rfl h)
  · exact kept_setExec h

theorem kept_tokenEnd {op : ActivateOp} {pass : Bool} (h : Kept r s) : Kept r (tokenEnd op pass s) := by
  unfold tokenEnd
  repeat' with_reducible first
    | exact h | refine kept_finish ?_ | refine kept_requestActivate ?_ | split

/-! ### What reaches a command in flight -/

theorem kept_portFilled (h : Kept r s) : Kept r (portFilled s) := by
  unfold portFilled
  repeat' with_reducible first
    | exact h | refine kept_protectReady ?_ | refine kept_unprotectReady ?_ | refine kept_activateReady ?_
    | split

theorem kept_portRefused {c : Code} (h : Kept r s) : Kept r (portRefused c s) := by
  unfold portRefused
  repeat' with_reducible first
    | exact h | refine kept_finish ?_ | refine kept_runTrials ?_ | split

theorem kept_withdrawPort (h : Kept r s) : Kept r (withdrawPort s) := by
  unfold withdrawPort
  repeat' with_reducible first
    | exact h | refine kept_setLine ?_

theorem kept_protectCause {op : ProtectOp} {w : Withhold} (h : Kept r s) : Kept r (protectCause op w s) := by
  unfold protectCause
  repeat' with_reducible first
    | exact h | refine kept_finish ?_ | refine kept_withdrawPort ?_ | split

theorem kept_unprotectCause {op : UnprotectOp} {w : Withhold} (h : Kept r s) : Kept r (unprotectCause op w s) := by
  unfold unprotectCause
  repeat' with_reducible first
    | exact h | refine kept_finish ?_ | refine kept_runTrials ?_ | refine kept_withdrawPort ?_ | split

theorem kept_activateCaused {op : ActivateOp} {w : Withhold} (h : Kept r s) : Kept r (activateCaused op w s) := by
  unfold activateCaused
  repeat' with_reducible first
    | exact h | refine kept_finish ?_ | refine kept_withdrawPort ?_ | split

theorem kept_portReact (h : Kept r s) : Kept r (portReact s) := by
  unfold portReact
  repeat' with_reducible first
    | exact h | refine kept_protectCause ?_ | refine kept_unprotectCause ?_ | refine kept_activateCaused ?_
    | split

theorem kept_portJobGone (h : Kept r s) : Kept r (portJobGone s) := by
  unfold portJobGone
  repeat' with_reducible first
    | exact h | refine kept_finish ?_ | refine kept_protectGone ?_ | refine kept_unprotectHighEnd ?_ | split

theorem kept_portJobFailed (h : Kept r s) : Kept r (portJobFailed s) := by
  unfold portJobFailed
  repeat' with_reducible first
    | exact h | refine kept_finish ?_ | split

theorem kept_portCounterDone (h : Kept r s) : Kept r (portCounterDone s) := by
  unfold portCounterDone
  repeat' with_reducible first
    | exact h | refine kept_takeValue ?_ | refine kept_protectGone ?_ | refine kept_unprotectHighEnd ?_ | split

theorem kept_portRoom (e : portRoom s = some t) (h : Kept r s) : Kept r t := by
  unfold portRoom at e
  split at e
  · split at e
    · split at e
      · cases e
      · obtain ⟨u, hu, rfl⟩ := Option.map_eq_some_iff.1 e
        exact kept_setExec (kept_setPending (kept_requestReserve hu h))
    · cases e
  · split at e
    · obtain ⟨u, hu, rfl⟩ := Option.map_eq_some_iff.1 e
      exact kept_waitThrough (kept_requestHigh hu h)
    · cases e
  · split at e
    · cases e
      exact kept_requestActivate h
    · cases e
  all_goals cases e

theorem kept_portSettle (h : Kept r s) : Kept r (portSettle s) := by
  unfold portSettle
  repeat' with_reducible first
    | exact h | refine kept_finish ?_ | split

end Sys2Proof.Machine
end

