-- ==== Sys2Proof/Laws/KeptRenewal.lean ====
section
/-! SUPPORT. What the operations of the intake contexts and of the Renewal Engine keep. -/

namespace Sys2Proof.Machine

variable {r s t : State}

/-! ### Contexts -/

theorem vget_vset {α : Type} {n : Nat} (v : Vector α n) (i j : Fin n) (x : α) :
    (vset v i x)[j] = if i = j then x else v[j] := by
  show (v.set i.val x i.isLt)[j.val] = _
  rw [Vector.getElem_set]
  simp [Fin.ext_iff]

theorem kept_setCtx {i : Fin 2} {x : Ctx} (hx : BlockLaws r → PlanLaw s.renewal → NoCounter (x.jobs.map (·.1)))
    (h : Kept r s) : Kept r (setCtx s i x) := by
  refine ⟨h.pending, h.pins, h.array, h.clock, h.loadTamper, h.faulted, h.loading, fun y => ⟨(h.laws y).queue,
    (h.laws y).flush, (h.laws y).cache, ⟨fun j => ?_, (h.laws y).plans.verif⟩, (h.laws y).notices⟩⟩
  show NoCounter (((vset s.renewal.ctxs i x)[j]).jobs.map (·.1))
  rw [vget_vset]
  split
  · exact hx y (h.laws y).plans
  · exact (h.laws y).plans.ctxs j

/-- The jobs of a context are unchanged. -/
theorem kept_setCtxSame {i : Fin 2} {x : Ctx} (hx : x.jobs = (ctxOf s i).jobs) (h : Kept r s) : Kept r (setCtx s i x) :=
  kept_setCtx (fun _ y => by rw [hx]; exact y.ctxs i) h

theorem noCounter_nil : NoCounter [] := fun _ hm => by cases hm

/-- The lists of contexts, the verification in hand kept or gone. -/
theorem kept_renewalLists {q st} (h : Kept r s) :
    Kept r { s with renewal := { s.renewal with queue := q, storing := st } } :=
  kept_renewal (fun y => ⟨y.plans.ctxs, y.plans.verif⟩) h

theorem kept_ctxFail {i : Fin 2} {c : Code} (h : Kept r s) : Kept r (ctxFail i c s) :=
  kept_raise (kept_setCtx (fun _ _ => noCounter_nil) h)

theorem kept_ctxIdle {i : Fin 2} (h : Kept r s) : Kept r (ctxIdle i s) := kept_setCtx (fun _ _ => noCounter_nil) h

theorem kept_leaveQueue {i : Fin 2} (h : Kept r s) : Kept r (leaveQueue i s) := kept_renewalLists h

theorem kept_leaveStoring {i : Fin 2} (h : Kept r s) : Kept r (leaveStoring i s) := kept_renewalLists h

theorem kept_unlinkJobs {i : Fin 2} (h : Kept r s) : Kept r (unlinkJobs i s) := kept_job _ h

theorem kept_removeCtxJobs {i : Fin 2} (h : Kept r s) : Kept r (removeCtxJobs i s) := kept_filterQueue h

theorem kept_failStoring {i : Fin 2} {c : Code} (h : Kept r s) : Kept r (failStoring i c s) := by
  unfold failStoring
  repeat' with_reducible first
    | exact h | refine kept_ctxFail ?_ | refine kept_leaveStoring ?_ | refine kept_unlinkJobs ?_
    | refine kept_removeCtxJobs ?_

theorem kept_ctxDone {i : Fin 2} (h : Kept r s) : Kept r (ctxDone i s) :=
  kept_raise (kept_setCtx (fun _ _ => noCounter_nil) (kept_leaveStoring h))

/-- A job that ends leaves the list, and no other does. -/
theorem endFirst_sublist (l : List (StoreJob × JobMark)) : (endFirst l).Sublist l := by
  fun_induction endFirst l with
  | case1 => exact .refl _
  | case2 j rest => exact List.sublist_cons_self ..
  | case3 x rest _ ih => exact ih.cons_cons x

theorem queueFirst_jobs (l : List (StoreJob × JobMark)) : (queueFirst l).map (·.1) = l.map (·.1) := by
  fun_induction queueFirst l <;> simp_all

theorem kept_ctxJobDone {i : Fin 2} (h : Kept r s) : Kept r (ctxJobDone i s) := by
  have hj : BlockLaws r → PlanLaw s.renewal → NoCounter ((endFirst (ctxOf s i).jobs).map (·.1)) := fun _ y j hm =>
    y.ctxs i j (((endFirst_sublist _).map _).subset hm)
  unfold ctxJobDone; dsimp -proj only
  repeat' with_reducible first
    | exact h | refine kept_ctxDone ?_ | refine kept_setCtx hj ?_ | split

theorem kept_ctxJobFailed {i : Fin 2} {c : Code} (h : Kept r s) : Kept r (ctxJobFailed i c s) := by
  unfold ctxJobFailed
  repeat' with_reducible first
    | exact h | refine kept_failStoring ?_ | split

/-! ### A verification ends -/

theorem kept_withdrawFill {slot : Fin 32} {c : CellId} {gen : Nat} (h : Kept r s) :
    Kept r (withdrawFill slot c gen s) := by
  unfold withdrawFill
  repeat' with_reducible first
    | exact h | refine kept_removeEntry ?_ | refine kept_setLine ?_ | split

theorem kept_withdrawRenewal (h : Kept r s) : Kept r (withdrawRenewal s) := by
  unfold withdrawRenewal
  repeat' with_reducible first
    | exact h | refine kept_setLine ?_ | refine kept_withdrawFill ?_ | split

theorem kept_orphanRenewal (h : Kept r s) : Kept r (orphanRenewal s) := by
  unfold orphanRenewal
  repeat' split
  all_goals first | with_reducible exact h | exact kept_engine _ h

theorem kept_leaveWaits (h : Kept r s) : Kept r (leaveWaits s) := by
  refine kept_waits ?_ h
  rw [List.map_map]
  exact (List.filter_sublist).map _

theorem kept_endVerif (h : Kept r s) : Kept r (endVerif s) := by
  unfold endVerif; dsimp -proj only
  have hs := kept_releasePins (q := .renewal) (kept_leaveWaits (kept_orphanRenewal (kept_withdrawRenewal h)))
  exact kept_renewal (fun y => ⟨y.plans.ctxs, fun _ e => by cases e⟩) hs

theorem kept_failVerif {c : Code} (h : Kept r s) : Kept r (failVerif c s) := by
  unfold failVerif
  repeat' with_reducible first
    | exact h | refine kept_ctxFail ?_ | refine kept_endVerif ?_ | split

theorem kept_dropVerif (h : Kept r s) : Kept r (dropVerif s) := by
  unfold dropVerif
  repeat' with_reducible first
    | exact h | refine kept_ctxIdle ?_ | refine kept_endVerif ?_ | split

theorem kept_setVerif {v : Verif} (hv : BlockLaws r → NoCounter v.plan) (h : Kept r s) : Kept r (setVerif v s) :=
  ⟨h.pending, h.pins, h.array, h.clock, h.loadTamper, h.faulted, h.loading, fun y =>
    ⟨(h.laws y).queue, (h.laws y).flush, (h.laws y).cache,
      ⟨(h.laws y).plans.ctxs, fun _ e => by cases e; exact hv y⟩, (h.laws y).notices⟩⟩

/-! ### The job lists hold no counter job (Table 7-3) -/

theorem noCounter_map {α : Type} {f : α → StoreJob} (hf : ∀ x, counterKeyOf (f x) = none) (l : List α) :
    NoCounter (l.map f) := fun j hm => by
  obtain ⟨x, _, rfl⟩ := List.mem_map.1 hm
  exact hf x

theorem noCounter_append {a b : List StoreJob} (ha : NoCounter a) (hb : NoCounter b) : NoCounter (a ++ b) :=
  fun j hm => (List.mem_append.1 hm).elim (ha j) (hb j)

theorem noCounter_cons {j : StoreJob} {l : List StoreJob} (hj : counterKeyOf j = none) (hl : NoCounter l) :
    NoCounter (j :: l) := fun k hm => (List.mem_cons.1 hm).elim (fun e => e ▸ hj) (hl k)

theorem noCounter_enrolJobs (s : State) (index : Fin 8) (party : Id64) (cls : PartyClass) (choices : Roles RoleChoice) :
    NoCounter (enrolJobs s index party cls choices) := by
  refine noCounter_cons rfl (noCounter_append (noCounter_map (fun _ => rfl) _) fun j hm => ?_)
  obtain ⟨q, _, hq⟩ := List.mem_filterMap.1 hm
  unfold bindJob at hq
  split at hq <;> cases hq
  rfl

theorem noCounter_revokeJobs (s : State) (index : Fin 8) (role : Option Role) :
    NoCounter (revokeJobs s index role) := by
  unfold revokeJobs
  split
  · exact noCounter_map (fun _ => rfl) _
  · exact noCounter_append (noCounter_map (fun _ => rfl) _) (noCounter_cons rfl noCounter_nil)

theorem noCounter_installJobs (slot : Fin 32) (b : Binding) (i : InstallBody) (key : List Byte) :
    NoCounter (installJobs slot b i key) := by
  refine noCounter_cons rfl ?_
  split
  · exact noCounter_cons rfl noCounter_nil
  · exact noCounter_nil

/-! ### The verification order -/

theorem kept_placeTagCheck {v : Verif}
    (hv : BlockLaws r → NoCounter v.plan) (h : Kept r s) : Kept r (placeTagCheck v s) := by
  unfold placeTagCheck
  repeat' with_reducible first
    | exact h | refine kept_place ?_ | refine kept_failVerif ?_ | refine kept_setVerif hv ?_ | split

theorem kept_placeInstallReceipt {v : Verif} {plan : List StoreJob} {key : List Byte} (hp : NoCounter plan)
    (h : Kept r s) : Kept r (placeInstallReceipt v plan key s) :=
  kept_place (kept_setVerif (fun _ => hp) h)

theorem kept_placeReceipt {v : Verif} {plan : List StoreJob} (hp : NoCounter plan) (h : Kept r s) :
    Kept r (placeReceipt v plan s) := by
  unfold placeReceipt
  repeat' with_reducible first
    | exact h | refine kept_failVerif ?_ | refine kept_place ?_ | refine kept_setVerif (fun _ => hp) ?_ | split

theorem kept_placeKeyUnwrap {v : Verif} {i : InstallBody}
    (hv : BlockLaws r → NoCounter v.plan) (h : Kept r s) : Kept r (placeKeyUnwrap v i s) := by
  unfold placeKeyUnwrap
  repeat' with_reducible first
    | exact h | refine kept_place ?_ | refine kept_failVerif ?_ | refine kept_setVerif hv ?_ | split

theorem kept_installKek {v : Verif} {i : InstallBody}
    (hv : BlockLaws r → NoCounter v.plan) (h : Kept r s) : Kept r (installKek v i s) := by
  unfold installKek; dsimp -proj only
  repeat' with_reducible first
    | exact h | refine kept_askCache ‹_› ?_ | refine kept_failVerif ?_ | refine kept_setVerif hv ?_
    | refine kept_placeKeyUnwrap hv ?_ | split

theorem kept_recordTarget {i : Fin 2} {slot : Fin 32} {gen : Nat} (h : Kept r s) : Kept r (recordTarget i slot gen s) :=
  kept_setCtxSame rfl h

theorem kept_checkInstall {v : Verif} {i : InstallBody}
    (hv : BlockLaws r → NoCounter v.plan) (h : Kept r s) : Kept r (checkInstall v i s) := by
  unfold checkInstall; dsimp -proj only
  repeat' with_reducible first
    | exact h | refine kept_failVerif ?_ | refine kept_installKek hv ?_ | refine kept_recordTarget ?_ | split

theorem kept_kindChecks {v : Verif} (hv : BlockLaws r → NoCounter v.plan) (h : Kept r s) : Kept r (kindChecks v s) := by
  unfold kindChecks
  repeat' with_reducible first
    | exact h | refine kept_failVerif ?_ | refine kept_checkInstall hv ?_
    | refine kept_placeReceipt (noCounter_enrolJobs ..) ?_ | refine kept_placeReceipt (noCounter_revokeJobs ..) ?_
    | refine kept_placeReceipt (noCounter_map (fun _ => rfl) _) ?_
    | refine kept_placeReceipt (noCounter_cons rfl noCounter_nil) ?_ | split

theorem kept_verifyFrom {v : Verif} {c : CellId}
    (hv : BlockLaws r → NoCounter v.plan) (h : Kept r s) : Kept r (verifyFrom v c s) := by
  unfold verifyFrom
  repeat' with_reducible first
    | exact h | refine kept_askCache ‹_› ?_ | refine kept_ctxFail ?_ | refine kept_failVerif ?_
    | refine kept_setVerif hv ?_ | refine kept_placeTagCheck hv ?_ | split

theorem kept_verifySigner {i : Fin 2} {b : Bundle} (h : Kept r s) : Kept r (verifySigner i b s) := by
  unfold verifySigner
  repeat' with_reducible first
    | exact h | refine kept_ctxFail ?_ | refine kept_verifyFrom (fun _ => noCounter_nil) ?_ | split

theorem kept_beginVerification {i : Fin 2} (h : Kept r s) : Kept r (beginVerification i s) := by
  have hs : Kept r (setCtx (leaveQueue i s) i
      { ctxOf s i with state := .verifying, fields := parseFields (ctxOf s i).buffer }) :=
    kept_setCtxSame rfl (kept_leaveQueue h)
  unfold beginVerification; dsimp -proj only
  split
  · exact kept_ctxFail hs
  · exact kept_verifySigner hs

theorem kept_unwrapEnd {v : Verif} {key : Option (List Byte)} (h : Kept r s) :
    Kept r (unwrapEnd v key s) := by
  unfold unwrapEnd
  repeat' with_reducible first
    | exact h | refine kept_failVerif ?_ | refine kept_placeInstallReceipt (noCounter_installJobs ..) ?_ | split

theorem firstUnqueued_plain {i : Fin 2} {j : StoreJob} (e : firstUnqueued (ctxOf s i) = some j) (h : PlanLaw s.renewal) :
    counterKeyOf j = none := by
  obtain ⟨x, hx, rfl⟩ := Option.map_eq_some_iff.1 e
  exact h.ctxs i x.1 (List.mem_map.2 ⟨x, List.mem_of_find?_eq_some hx, rfl⟩)

theorem kept_queueStoring (e : queueStoring s = some t) (h : Kept r s) : Kept r t := by
  unfold queueStoring at e
  split at e
  · cases e
  · split at e
    · cases e
    · rename_i i _ _ j hj
      split at e
      · rename_i hr
        cases e
        refine kept_setCtx (fun _ y => ?_) ?_
        · rw [queueFirst_jobs]
          exact y.ctxs i
        · by_cases hp : PlanLaw s.renewal
          · exact kept_enqueuePlain hr (firstUnqueued_plain hj hp) h
          · exact ⟨h.pending, h.pins, h.array, h.clock, h.loadTamper, h.faulted, h.loading,
              fun y => absurd (h.laws y).plans hp⟩
      · cases e

theorem kept_queueAllStoring {n : Nat} (h : Kept r s) : Kept r (queueAllStoring n s) := by
  induction n generalizing s with
  | zero => exact h
  | succ n ih =>
    unfold queueAllStoring
    repeat' with_reducible first
      | exact h | refine ih ?_ | refine kept_queueStoring ‹_› ?_ | split

theorem kept_becomeStoring {v : Verif} {receipt : List Byte} (hv : BlockLaws r → NoCounter v.plan) (h : Kept r s) :
    Kept r (becomeStoring v receipt s) := by
  unfold becomeStoring; dsimp -proj only
  refine kept_queueAllStoring (kept_renewal (fun y => ⟨y.plans.ctxs, y.plans.verif⟩)
    (kept_setCtx (fun y _ => ?_) (kept_endVerif h)))
  rw [List.map_map]
  exact noCounter_cons rfl (by simpa [Function.comp_def] using hv y)

/-! ### What reaches a verification -/

theorem kept_renewalFilled (h : Kept r s) : Kept r (renewalFilled s) := by
  unfold renewalFilled
  split
  · exact h
  · rename_i v hv
    have hp : BlockLaws r → NoCounter v.plan := fun y => (h.laws y).plans.verif v hv
    repeat' with_reducible first
      | exact h | refine kept_dropVerif ?_ | refine kept_placeTagCheck hp ?_ | refine kept_placeKeyUnwrap hp ?_ | split

theorem kept_renewalRefused (h : Kept r s) : Kept r (renewalRefused s) := by
  unfold renewalRefused
  repeat' with_reducible first
    | exact h | refine kept_failVerif ?_ | refine kept_dropVerif ?_ | split

theorem kept_renewalReact (h : Kept r s) : Kept r (renewalReact s) := by
  unfold renewalReact
  repeat' with_reducible first
    | exact h | refine kept_failVerif ?_ | split

end Sys2Proof.Machine
end

