-- ==== Sys2Proof/Laws/KeptReact.lean ====
section
/-! SUPPORT. What withhold causes, ended fills, room given and a tamper event keep. -/

namespace Sys2Proof.Machine

variable {r s t : State}

/-! ### Causes and fills -/

theorem kept_tellBoth {p q : State → State} (hp : ∀ u, Kept r u → Kept r (p u)) (hq : ∀ u, Kept r u → Kept r (q u))
    (h : Kept r s) : Kept r (tellBoth p q s) := by
  unfold tellBoth
  split
  · exact hp _ (hq _ h)
  · exact hq _ (hp _ h)

theorem kept_tellHolders {a b : Bool} {p q : State → State} (hp : ∀ u, Kept r u → Kept r (p u))
    (hq : ∀ u, Kept r u → Kept r (q u)) (h : Kept r s) : Kept r (tellHolders a b p q s) := by
  refine kept_tellBoth (fun u hu => ?_) (fun u hu => ?_) h
  · split
    · exact hp u hu
    · exact hu
  · split
    · exact hq u hu
    · exact hu

/-- The holders of a fill are told that it ended without an entry (R82). -/
theorem kept_tellRefused {a b : Bool} {c : Code} (h : Kept r s) :
    Kept r (tellHolders a b (portRefused c) renewalRefused s) :=
  kept_tellHolders (fun _ => kept_portRefused) (fun _ => kept_renewalRefused) h

theorem kept_dropFillRequest {e : Entry} (h : Kept r s) : Kept r (dropFillRequest e s) := by
  unfold dropFillRequest; dsimp -proj only
  repeat' with_reducible first
    | exact h | refine kept_setLine ?_ | split

theorem kept_withdrawCaused {e : Entry} (h : Kept r s) : Kept r (withdrawCaused s e) := by
  unfold withdrawCaused
  repeat' with_reducible first
    | exact h | refine kept_tellRefused ?_ | refine kept_removeEntry ?_ | refine kept_dropFillRequest ?_ | split

theorem kept_endWaits {w : Withhold} {p : Fin 32 → Nat → Bool} (h : Kept r s) : Kept r (endWaits w p s) :=
  kept_tellRefused (kept_waits ((List.filter_sublist).map _) h)

theorem kept_causes {w : Withhold} {p : Fin 32 → Nat → Bool} (h : Kept r s) : Kept r (causes w p s) :=
  kept_renewalReact (kept_portReact (kept_foldl (fun _ _ => kept_withdrawCaused (kept_refl _)) _
    (kept_endWaits (kept_giveCause h))))

theorem kept_quarantineSlot {slot : Fin 32} (h : Kept r s) : Kept r (quarantineSlot slot s) := by
  unfold quarantineSlot
  repeat' with_reducible first
    | exact h | refine kept_raise ?_ | refine kept_setSlot ?_ | refine kept_causes ?_

theorem kept_removeCounterJobs {p : QJob → Bool} (h : Kept r s) : Kept r (removeCounterJobs p s) := by
  unfold removeCounterJobs; dsimp -proj only
  split
  · exact kept_portJobGone (kept_filterQueue h)
  · exact kept_filterQueue h

theorem kept_genLeaves {slot : Fin 32} {c : CellId} {gen : Nat} (h : Kept r s) :
    Kept r (genLeaves slot c gen s) := by
  unfold genLeaves
  repeat' with_reducible first
    | exact h | refine kept_causes ?_ | refine kept_removeCounterJobs ?_

theorem kept_slotErased {slot : Fin 32} (h : Kept r s) : Kept r (slotErased slot s) := by
  unfold slotErased
  repeat' with_reducible first
    | exact h | refine kept_causes ?_ | refine kept_removeCounterJobs ?_

theorem kept_fillEnd {e : Entry} {key : Option (List Byte)} (h : Kept r s) : Kept r (fillEnd e key s) := by
  unfold fillEnd
  split
  · exact kept_tellRefused (kept_removeEntry h)
  · split
    · exact kept_tellHolders (fun _ => kept_portFilled) (fun _ => kept_renewalFilled) (kept_makeReady h)
    · exact kept_tellRefused (kept_quarantineSlot (kept_removeEntry h))

/-! ### Room -/

theorem kept_serveWait {w : WaitFill} (hw : w ∈ s.cache.waits) (e : serveWait s w = some t) (h : Kept r s) :
    Kept r t := by
  obtain ⟨u, hu, rfl⟩ := Option.map_eq_some_iff.1 e
  obtain ⟨k, hws, hes, hl⟩ := makePlace_spec hu (kept_refl s)
  refine h.trans (kept_placeFilling (fun x => hl x.cache.length) (fun x hm => ?_)
    (kept_waits ((List.filter_sublist).map _) k))
  have hd := List.nodup_append.1 x.cache.once
  simp only [cacheKeys, List.mem_append, List.mem_map] at hm
  rcases hm with ⟨y, hy, hk⟩ | ⟨y, hy, hk⟩
  · exact hd.2.2 (w.slot, w.gen) (List.mem_map.2 ⟨y, hes.subset hy, hk⟩) (w.slot, w.gen)
      (List.mem_map.2 ⟨w, hw, rfl⟩) rfl
  · have hf := (List.mem_filter.1 hy).2
    simp only [isWait, Prod.mk.injEq] at hf hk
    simp [hk.1, hk.2, fillingEntry] at hf

theorem kept_serveWaits {p : WaitFill → Bool} (e : serveWaits p s = some t) (h : Kept r s) : Kept r t := by
  unfold serveWaits at e
  split at e
  · cases e
  · rename_i w hw
    exact kept_serveWait (List.mem_of_find?_eq_some hw) e h

theorem kept_serveFlush (e : serveFlush s = some t) (h : Kept r s) : Kept r t := by
  obtain ⟨x, _, hx⟩ := List.exists_of_findSome?_eq_some e
  exact kept_flushOne hx h

theorem kept_serveMarks (e : serveMarks s = some t) (h : Kept r s) : Kept r t := by
  unfold serveMarks at e
  split at e
  · rename_i hr
    obtain ⟨i, _, hi⟩ := List.exists_of_findSome?_eq_some e
    obtain ⟨x, hx, rfl⟩ := Option.map_eq_some_iff.1 hi
    exact kept_enqueuePlain (s := setSlot s i x.2) hr (markedJob_plain hx) (kept_setSlot h)
  · cases e

theorem kept_serveHour (e : serveHour s = some t) (h : Kept r s) : Kept r t := by
  unfold serveHour at e
  split at e
  · split at e
    · cases e
      exact kept_stripPending _ h
    · split at e
      · cases e
        exact kept_requestHour h
      · cases e
  · cases e

theorem orElse_some {α : Type} {a b : Option α} {x : α} (e : (a.orElse fun _ => b) = some x) : a = some x ∨ b = some x := by
  cases a with
  | none => exact .inr e
  | some y => exact .inl e

theorem kept_giveOne (e : giveOne s = some t) (h : Kept r s) : Kept r t := by
  unfold giveOne at e
  rcases orElse_some e with e | e
  · exact kept_portRoom e h
  rcases orElse_some e with e | e
  · exact kept_serveWaits e h
  rcases orElse_some e with e | e
  · exact kept_serveWaits e h
  rcases orElse_some e with e | e
  · exact kept_serveFlush e h
  rcases orElse_some e with e | e
  · exact kept_serveMarks e h
  rcases orElse_some e with e | e
  · exact kept_queueStoring e h
  · exact kept_serveHour e h

theorem kept_giveAll {n : Nat} (h : Kept r s) : Kept r (giveAll n s) := by
  induction n generalizing s with
  | zero => exact h
  | succ n ih =>
    unfold giveAll
    split
    · exact h
    · exact ih (kept_giveOne ‹_› h)

/-- The device returns to SERVING from a hold: FAULTED is not left by it (R184, R204, R206). -/
theorem kept_resumeServing (hd : s.device ≠ .faulted) (h : Kept r s) : Kept r (resumeServing s) :=
  kept_giveAll (kept_foldl (fun _ _ => kept_markOverlap (kept_markActivation (kept_refl _))) _
    (kept_device (fun x => absurd x hd) (fun x => by cases x) h))

/-! ### The tamper event -/

theorem kept_handList {record : TamperRecord} {items : List (Fin 32 × TamperAct)} (h : Kept r s) :
    Kept r (handList record items s) := kept_writerRest h

theorem kept_setBars {items : List (Fin 32 × TamperAct)} (h : Kept r s) : Kept r (setBars items s) := kept_bars _ h

theorem kept_tamperCtx {i : Fin 2} (h : Kept r s) : Kept r (tamperCtx s i) := by
  unfold tamperCtx
  repeat' with_reducible first
    | exact h | refine kept_ctxFail ?_ | refine kept_leaveQueue ?_ | refine kept_failStoring ?_
    | refine kept_failVerif ?_ | refine kept_dropVerif ?_ | split

theorem kept_portVoided (h : Kept r s) : Kept r (portVoided s) := by
  unfold portVoided
  repeat' with_reducible first
    | exact h | refine kept_finish ?_ | split

theorem hasItem_eq_false {items : List (Fin 32 × TamperAct)} {i : Fin 32} {a : TamperAct} :
    hasItem items i a = false ↔ (i, a) ∉ items := by
  rw [← Bool.not_eq_true]; simp [hasItem]

@[simp] theorem resumeSlot_eq_some {j : StoreJob} {i : Fin 32} : resumeSlot j = some i ↔ j = .resume i := by
  cases j <;> simp [resumeSlot]

/-- What stays in the queue at a tamper event: no job of a context, none naming a slot to be erased, no RESUME of a slot to be
suspended (R20, R21, R166). -/
theorem voided_eq_false {items : List (Fin 32 × TamperAct)} {q : QJob} : voided items q = false ↔
    q.ctx = none ∧ (∀ i, jobSlot q.job = some i → (i, .erase) ∉ items) ∧
      ∀ i, q.job = .resume i → (i, .suspend) ∉ items := by
  simp only [voided, Bool.or_eq_false_iff, Option.isSome_eq_false_iff, Option.isNone_iff_eq_none, Option.any_eq_false,
    hasItem_eq_false, resumeSlot_eq_some, and_assoc]

/-- Every job left in the queue was there before and is not void; the waiting command's mark on it may be gone (R166). -/
theorem mem_voidJobs {items : List (Fin 32 × TamperAct)} {q : QJob} (h : q ∈ (voidJobs items s).writer.queue) :
    ∃ q' ∈ s.writer.queue, voided items q' = false ∧ q'.job = q.job ∧ q'.ctx = q.ctx := by
  unfold voidJobs at h; dsimp -proj only at h
  split at h
  · unfold portVoided finish respond releasePins portLetsGo withEntries setQueue at h
    repeat' split at h
    all_goals first
      | simp only [List.mem_map, List.mem_filter] at h
        obtain ⟨q', ⟨hq, hv⟩, rfl⟩ := h
        exact ⟨q', hq, by simpa using hv, rfl, rfl⟩
      | simp only [List.mem_filter] at h
        exact ⟨q, h.1, by simpa using h.2, rfl, rfl⟩
  · simp only [setQueue, List.mem_filter] at h
    exact ⟨q, h.1, by simpa using h.2, rfl, rfl⟩

theorem kept_voidJobs {items : List (Fin 32 × TamperAct)} (h : Kept r s) : Kept r (voidJobs items s) := by
  unfold voidJobs; dsimp -proj only
  split
  · exact kept_portVoided (kept_filterQueue h)
  · exact kept_filterQueue h

theorem kept_tamperEvent {origin : Origin} (h : Kept r s) : Kept r (tamperEvent origin s) := by
  unfold tamperEvent; dsimp -proj only
  exact kept_voidJobs (kept_causes (kept_causes (kept_tamperCtx (kept_tamperCtx (kept_raise
    (kept_setBars (kept_handList h)))))))

theorem kept_compareNow {origin : Origin} (h : Kept r s) : Kept r (compareNow origin s) := by
  unfold compareNow
  repeat' with_reducible first
    | exact h | refine kept_tamperEvent ?_ | split | refine kept_monitor _ ?_

theorem kept_compareLive (h : Kept r s) : Kept r (compareLive s) := by
  unfold compareLive
  repeat' with_reducible first
    | exact h | refine kept_compareNow ?_ | split

end Sys2Proof.Machine
end

