-- ==== Sys2Proof/Laws/KeptStore.lean ====
section
/-! SUPPORT. What the ends of store jobs and the take of the next one keep. -/

namespace Sys2Proof.Machine

variable {r s t : State}

/-! ### Completions -/

theorem kept_dropJob {q : QJob} {c : Code} (h : Kept r s) : Kept r (dropJob q c s) := by
  unfold dropJob; dsimp -proj only
  repeat' with_reducible first
    | exact h | refine kept_portJobGone ?_ | refine kept_ctxJobFailed ?_ | split

theorem kept_updSlot {slot : Fin 32} {f : SlotImg → SlotImg} (h : Kept r s) : Kept r (updSlot slot f s) := by
  unfold updSlot
  repeat' with_reducible first
    | exact h | refine kept_setSlot ?_

theorem kept_stageDisplaced {slot : Fin 32} {c : CellId} {before : SlotImg} (h : Kept r s) :
    Kept r (stageDisplaced slot c before s) := by
  unfold stageDisplaced; dsimp -proj only
  repeat' with_reducible first
    | exact h | refine kept_raise ?_ | refine kept_genLeaves ?_ | split

theorem kept_doneStage {slot : Fin 32} {b : GenRecord} {inFloor : Nat} {bothCells : Bool} (h : Kept r s) :
    Kept r (doneStage slot b inFloor bothCells s) := by
  unfold doneStage; dsimp -proj only
  repeat' with_reducible first
    | exact h | refine kept_removeCounterJobs ?_ | refine kept_updSlot ?_ | refine kept_stageDisplaced ?_
    | split

theorem kept_raiseVerifyOnly {slot : Fin 32} {c : CellId} {gen : Nat} (h : Kept r s) :
    Kept r (raiseVerifyOnly slot c gen s) := by
  unfold raiseVerifyOnly
  repeat' with_reducible first
    | exact h | refine kept_clearUnused ?_ | refine kept_updEntry (fun _ => ⟨rfl, rfl⟩) ?_ | split

theorem acceptOnlyEntry_keys (held : Bool) (e : Entry) :
    (acceptOnlyEntry held e).slot = e.slot ∧ (acceptOnlyEntry held e).gen = e.gen := by
  unfold acceptOnlyEntry
  repeat' split
  all_goals exact ⟨rfl, rfl⟩

theorem kept_activatePrevious {slot : Fin 32} {kept : Bool} {previous : Option (CellId × CellImg)} (h : Kept r s) :
    Kept r (activatePrevious slot kept previous s) := by
  unfold activatePrevious; dsimp -proj only
  repeat' with_reducible first
    | exact h | refine kept_updEntry (acceptOnlyEntry_keys _) ?_ | refine kept_genLeaves ?_ | split

theorem kept_doneActivate {slot : Fin 32} {gen hour : Nat} {port : Bool} (h : Kept r s) :
    Kept r (doneActivate slot gen hour port s) := by
  unfold doneActivate; dsimp -proj only
  repeat' with_reducible first
    | exact h | refine kept_finish ?_ | refine kept_raise ?_ | refine kept_updSlot ?_
    | refine kept_raiseVerifyOnly ?_ | refine kept_activatePrevious ?_ | split

theorem kept_doneOverlapEnd {slot : Fin 32} {gen : Nat} {cause : OvlCause} (h : Kept r s) :
    Kept r (doneOverlapEnd slot gen cause s) := by
  unfold doneOverlapEnd
  repeat' with_reducible first
    | exact h | refine kept_raise ?_ | refine kept_genLeaves ?_ | refine kept_updSlot ?_ | split

theorem kept_doneRevoke {slot : Fin 32} {unbind : Bool} (h : Kept r s) : Kept r (doneRevoke slot unbind s) := by
  unfold doneRevoke
  repeat' with_reducible first
    | exact h | refine kept_setSlot ?_ | refine kept_slotErased ?_

theorem kept_doneSuspend {slot : Fin 32} {flag : Bool} (h : Kept r s) : Kept r (doneSuspend slot flag s) := by
  unfold doneSuspend
  repeat' with_reducible first
    | exact h | refine kept_setSlot ?_

theorem kept_doneHeader {slot : Fin 32} {binding : Option Binding} {p : Policy} {m : CounterMode} (h : Kept r s) :
    Kept r (doneHeader slot binding p m s) := by
  unfold doneHeader; dsimp -proj only
  repeat' with_reducible first
    | exact h | refine kept_setSlot ?_ | refine kept_markFlush ?_ | refine kept_flushRequests ?_ | split

theorem kept_doneReserve {slot : Fin 32} {c : CellId} {gen v : Nat} (h : Kept r s) :
    Kept r (doneReserve slot c gen v s) := by
  unfold doneReserve; dsimp -proj only
  repeat' with_reducible first
    | exact h | refine kept_setSlot ?_ | refine kept_setPending ?_

theorem kept_doneHigh {slot : Fin 32} {c : CellId} {gen v : Nat} (h : Kept r s) : Kept r (doneHigh slot c gen v s) :=
  kept_updEntry (fun e => by split <;> exact ⟨rfl, rfl⟩) (kept_setSlot h)

theorem kept_advanceStrip (h : Kept r s) : Kept r (advanceStrip s) := kept_nextStrip _ h

theorem kept_doneAssociation {index : Fin 8} {form : AssocForm} (h : Kept r s) :
    Kept r (doneAssociation index form s) := by
  unfold doneAssociation; dsimp -proj only
  repeat' with_reducible first
    | exact h | refine kept_setAssoc ?_ | split

theorem kept_doneBundleFloor {index : Fin 8} {v : Nat} (h : Kept r s) : Kept r (doneBundleFloor index v s) := by
  unfold doneBundleFloor
  repeat' with_reducible first
    | exact h | refine kept_setAssoc ?_

theorem kept_doneArm {x : ArmRecord} (h : Kept r s) : Kept r (doneArm x s) := kept_monitor _ h

theorem kept_doneEffect {q : QJob} {hour : Nat} {bothCells : Bool} (h : Kept r s) :
    Kept r (doneEffect q hour bothCells s) := by
  unfold doneEffect
  repeat' with_reducible first
    | exact h | refine kept_doneStage ?_ | refine kept_doneActivate ?_ | refine kept_doneOverlapEnd ?_
    | refine kept_doneRevoke ?_ | refine kept_doneSuspend ?_ | refine kept_doneHeader ?_
    | refine kept_doneReserve ?_ | refine kept_doneHigh ?_ | refine kept_advanceStrip ?_
    | refine kept_doneAssociation ?_ | refine kept_doneBundleFloor ?_ | refine kept_doneArm ?_ | split

theorem kept_completeJob {q : QJob} {hour : Nat} {bothCells : Bool} (h : Kept r s) :
    Kept r (completeJob q hour bothCells s) := by
  unfold completeJob; dsimp -proj only
  repeat' with_reducible first
    | exact h | refine kept_portCounterDone ?_ | refine kept_ctxJobDone ?_ | refine kept_compareLive ?_
    | refine kept_doneEffect ?_ | split

/-! ### Tamper items and failures -/

theorem kept_clearBar {slot : Fin 32} (h : Kept r s) : Kept r (clearBar slot s) := kept_bars _ h

theorem kept_noteItem {stale : Bool} {f : TamperWork → TamperWork} (h : Kept r s) : Kept r (noteItem stale f s) := by
  unfold noteItem
  split
  · exact h
  · exact kept_tamper _ h

theorem kept_completeItem {slot : Fin 32} {act : TamperAct} {stale : Bool} (h : Kept r s) :
    Kept r (completeItem slot act stale s) := by
  unfold completeItem; dsimp -proj only
  repeat' with_reducible first
    | exact h | refine kept_doneRevoke ?_ | refine kept_doneSuspend ?_ | refine kept_clearBar ?_
    | refine kept_noteItem ?_ | split

theorem kept_completeClosing (h : Kept r s) : Kept r (completeClosing s) := by
  unfold completeClosing; dsimp -proj only
  repeat' split
  all_goals first | with_reducible exact h | exact kept_raise (kept_tamper _ h) | exact kept_tamper _ h

theorem kept_completeTask {q : Running} (h : Kept r s) : Kept r (completeTask q s) := by
  unfold completeTask
  repeat' with_reducible first
    | exact h | refine kept_doneHigh ?_ | refine kept_completeJob ?_ | refine kept_completeItem ?_
    | refine kept_completeClosing ?_ | split

theorem kept_enterFaulted (h : Kept r s) : Kept r (enterFaulted s) := by
  have hd : Kept r { s with device := .faulted } := kept_device (fun _ => rfl) (fun x => by cases x) h
  unfold enterFaulted; dsimp -proj only
  refine kept_portSettle ?_
  split
  · exact kept_raise hd
  · exact hd

theorem kept_noteHoldFlush {q : QJob} (h : Kept r s) : Kept r (noteHoldFlush q s) := by
  unfold noteHoldFlush
  repeat' with_reducible first
    | exact h | refine kept_setExec ?_ | split

theorem kept_damageEntry {index : Fin 8} (h : Kept r s) : Kept r (damageEntry index s) := by
  unfold damageEntry
  repeat' with_reducible first
    | exact h | refine kept_setAssoc ?_

theorem kept_failEffect {j : StoreJob} (h : Kept r s) : Kept r (failEffect j s) := by
  unfold failEffect
  repeat' with_reducible first
    | exact h | refine kept_quarantineSlot ?_ | refine kept_advanceStrip ?_ | refine kept_damageEntry ?_ | split

theorem kept_failJob {q : QJob} (h : Kept r s) : Kept r (failJob q s) := by
  unfold failJob; dsimp -proj only
  repeat' with_reducible first
    | exact h | refine kept_portJobFailed ?_ | refine kept_ctxJobFailed ?_ | refine kept_noteHoldFlush ?_
    | refine kept_failEffect ?_ | split

theorem kept_failTask {q : Running} (h : Kept r s) : Kept r (failTask q s) := by
  unfold failTask
  repeat' with_reducible first
    | exact h | refine kept_quarantineSlot ?_ | refine kept_clearBar ?_ | refine kept_noteItem ?_
    | refine kept_enterFaulted ?_ | refine kept_failJob ?_ | split

/-! ### Taking a job, and a write that ends -/

theorem kept_startTask {x : Task} {ws : List ArrayWrite} (h : Kept r s) : Kept r (startTask x ws s) := by
  unfold startTask; dsimp -proj only
  split
  · exact kept_completeTask h
  · exact kept_job _ h

theorem kept_takeItem {w : TamperWork} (h : Kept r s) : Kept r (takeItem w s) := by
  unfold takeItem; dsimp -proj only
  repeat' split
  all_goals first | with_reducible exact h | exact kept_startTask (kept_tamper _ h)

theorem kept_takeFlush {it : FlushItem} {rest : List FlushItem} (hf : s.writer.flush = it :: rest) (h : Kept r s) :
    Kept r (takeFlush it rest s) := by
  have hs : Kept r { s with writer := { s.writer with flush := rest } } :=
    kept_writer (fun x => ⟨⟨x.queue.length, x.queue.once⟩, by
      have := x.flush
      rw [hf] at this
      simp only [List.length_cons] at this
      show rest.length ≤ 4
      omega⟩) h
  unfold takeFlush; dsimp -proj only
  repeat' with_reducible first
    | exact hs | refine kept_startTask ?_ | refine kept_updEntry (fun _ => ⟨rfl, rfl⟩) ?_ | split

theorem kept_takeQueued {q : QJob} {rest : List QJob} (hq : s.writer.queue = q :: rest) (h : Kept r s) :
    Kept r (takeQueued q rest s) := by
  have hs : Kept r (setQueue rest s) := kept_setQueue (hq ▸ List.sublist_cons_self q rest) h
  unfold takeQueued; dsimp -proj only
  split
  · exact kept_dropJob hs
  · exact kept_startTask hs

theorem kept_takeNext (h : Kept r s) : Kept r (takeNext s) := by
  unfold takeNext
  repeat' with_reducible first
    | exact h | refine kept_takeItem ?_ | refine kept_takeFlush ‹_› ?_ | refine kept_takeQueued ‹_› ?_ | split

theorem kept_nextWrite {x : Running} {rest : List ArrayWrite} (h : Kept r s) : Kept r (nextWrite x rest s) := by
  unfold nextWrite
  split
  · exact kept_completeTask (kept_job _ h)
  · exact kept_job _ h

/-- A write that ends: the array is what it left, and all else is kept (R180). -/
theorem kept_writeEnd {x : Running} {w : ArrayWrite} {rest : List ArrayWrite} {b : ReadBack} :
    ∃ a, Kept { s with array := a } (writeEnd x w rest b s) := by
  unfold writeEnd
  split
  · exact ⟨_, kept_nextWrite (kept_refl _)⟩
  · rename_i left
    dsimp -proj only
    split
    · exact ⟨failedWrite s.monitor.armLost (tornWrite left s.array w) w, kept_failTask (kept_job _ (kept_refl _))⟩
    · exact ⟨tornWrite left s.array w, kept_job _ (kept_refl _)⟩

end Sys2Proof.Machine
end

