-- ==== Sys2Proof/Laws/KeptCommands.lean ====
section
/-! SUPPORT. What the commands and events keep. -/

namespace Sys2Proof.Machine

variable {r s t : State}

/-! ### The end of loading and the power-fail warning -/

theorem kept_loadMarks {slot : Fin 32} (h : Kept r s) : Kept r (loadMarks s slot) := by
  unfold loadMarks; dsimp -proj only
  repeat' with_reducible first
    | exact h | refine kept_setSlot ?_ | split

/-- A fold leaves the device state as its step does. -/
theorem foldl_device {α : Type} {f : State → α → State} (hf : ∀ u x, (f u x).device = u.device) (l : List α) :
    (l.foldl f s).device = s.device := by
  induction l generalizing s with
  | nil => rfl
  | cons x l ih => exact (ih (s := f s x)).trans (hf s x)

theorem setWear_device (i : Fin 32) (c : CellId) (u : State) : (setWear i c u).device = u.device := by
  unfold setWear
  repeat' split
  all_goals rfl

theorem loadMarks_device (u : State) (i : Fin 32) : (loadMarks u i).device = u.device := by
  unfold loadMarks; dsimp only
  split <;> rfl

/-- The device leaves LOADING (R191). -/
theorem kept_leaveLoading (hd : s.device = .loading) (h : Kept r s) : Kept r (leaveLoading s) := by
  have hu : (allSlots.foldl loadWear (allSlots.foldl loadMarks s)).device = .loading :=
    (foldl_device (fun u i => (setWear_device i .b _).trans (setWear_device i .a u)) _).trans
      ((foldl_device loadMarks_device _).trans hd)
  have hk : Kept r (allSlots.foldl loadWear (allSlots.foldl loadMarks s)) :=
    kept_foldl (fun _ _ => kept_loadWear (kept_refl _)) _ (kept_foldl (fun _ _ => kept_loadMarks (kept_refl _)) _ h)
  have hv : ∀ u, leaveState u ≠ .loading := fun u => by unfold leaveState; split <;> intro x <;> cases x
  unfold leaveLoading; dsimp -proj only
  generalize allSlots.foldl loadWear (allSlots.foldl loadMarks s) = u at hu hk ⊢
  have hs := kept_warning ⟨u.pins.pfail, false⟩
    (kept_device (d := leaveState u) (fun x => by rw [hu] at x; cases x) (fun x => absurd x (hv u)) hk)
  split
  · exact kept_giveAll (kept_raise hs)
  · exact kept_raise hs

theorem selectHighs_spec (k : Nat) (q : List QJob) :
    (selectHighs k q).1.length ≤ k ∧ (selectHighs k q).2.Sublist q := by
  induction q generalizing k with
  | nil => cases k <;> simp [selectHighs]
  | cons j rest ih =>
    cases k with
    | zero => simp [selectHighs]
    | succ k =>
      unfold selectHighs
      split
      · have := ih k
        exact ⟨Nat.succ_le_succ this.1, this.2.cons j⟩
      · have := ih (k + 1)
        exact ⟨this.1, this.2.cons_cons j⟩

theorem addEntry_length (e : Entry) (items : List FlushItem) (h : items.length ≤ 4) : (addEntry e items).1.length ≤ 4 := by
  unfold addEntry
  repeat' split
  · simpa using h
  · rename_i hl
    simp only [List.length_append, List.length_singleton]
    omega
  · exact h

theorem addEntries_spec (es : List Entry) (items : List FlushItem) (h : items.length ≤ 4) :
    (addEntries es items).1.length ≤ 4 ∧
      (addEntries es items).2.map (fun e => (e.slot, e.gen)) = es.map fun e => (e.slot, e.gen) := by
  induction es generalizing items with
  | nil => exact ⟨h, rfl⟩
  | cons e rest ih =>
    unfold addEntries
    split
    · have := ih _ (addEntry_length e items h)
      refine ⟨this.1, ?_⟩
      simp only [List.map_cons, this.2]
      split <;> rfl
    · have := ih items h
      exact ⟨this.1, by simp only [List.map_cons, this.2]⟩

/-- The budget is fixed: the flush list holds at most 4 items (R182). -/
theorem kept_fixBudget (h : Kept r s) : Kept r (fixBudget s) := by
  unfold fixBudget
  split
  · have hq := selectHighs_spec 4 s.writer.queue
    have he := addEntries_spec s.cache.entries _ hq.1
    exact kept_entries (s := { s with writer := { s.writer with
        flush := (addEntries s.cache.entries (selectHighs 4 s.writer.queue).1).1
        queue := (selectHighs 4 s.writer.queue).2 } }) (he.2 ▸ List.Sublist.refl _)
      (kept_writer (fun x => ⟨queueLaw_sublist (w := s.writer) hq.2 x.queue, he.1⟩) h)
  · exact h

theorem kept_dropAtWarning {q : QJob} (h : Kept r s) : Kept r (dropAtWarning s q) := by
  unfold dropAtWarning; dsimp -proj only
  repeat' split
  all_goals first
    | with_reducible exact h | exact kept_setPending h | exact kept_updSlot h | exact kept_setSlot h
    | exact kept_stripPending _ h | exact kept_updEntry (fun e => by split <;> exact ⟨rfl, rfl⟩) h

theorem kept_dropQueue (h : Kept r s) : Kept r (dropQueue s) :=
  kept_foldl (fun _ _ => kept_dropAtWarning (kept_refl _)) _ (kept_setQueue (List.nil_sublist _) h)

theorem kept_powerFailCtx {i : Fin 2} (h : Kept r s) : Kept r (powerFailCtx s i) := by
  unfold powerFailCtx
  repeat' with_reducible first
    | exact h | refine kept_ctxFail ?_ | refine kept_leaveQueue ?_ | refine kept_failStoring ?_
    | refine kept_failVerif ?_ | refine kept_dropVerif ?_ | split

theorem kept_dirtyWaiter {op : UnprotectOp} (h : Kept r s) : Kept r (dirtyWaiter op s) := by
  unfold dirtyWaiter
  repeat' with_reducible first
    | exact h | refine kept_updEntry (fun _ => ⟨rfl, rfl⟩) ?_

theorem kept_portAtWarning (h : Kept r s) : Kept r (portAtWarning s) := by
  unfold portAtWarning; dsimp -proj only
  repeat' with_reducible first
    | exact h | refine kept_finish ?_ | refine kept_dirtyWaiter ?_ | refine kept_setPending ?_ | split

/-- The warning is taken outside FAULTED (R202, R203). -/
theorem kept_warningTaken (hd : s.device ≠ .faulted) (h : Kept r s) : Kept r (warningTaken s) := by
  unfold warningTaken; dsimp -proj only
  exact kept_portAtWarning (kept_dropQueue (kept_powerFailCtx (kept_powerFailCtx (kept_fixBudget
    (kept_device (fun x => absurd x hd) (fun x => by cases x) h)))))

/-! ### Time and inputs -/

/-- The hour-boundary event: the clock apart, all is kept (R34). -/
theorem kept_hourBoundary : Kept { s with clock := ⟨0, s.clock.hour + 1⟩ } (hourBoundary s) := by
  unfold hourBoundary; dsimp -proj only
  exact kept_requestHour (kept_foldl (fun _ _ => kept_examineSlot (kept_refl _)) _ (kept_flushRequests (kept_markFlush
    (kept_foldl (fun _ _ => kept_hourWear (kept_refl _)) _ (kept_refl _)))))

theorem kept_tick (h : Kept r s) : Kept r (tick s) := by
  unfold tick
  split
  · exact kept_setCtx (fun y _ => (h.laws y).plans.ctxs 1) (kept_setCtxSame rfl h)
  · exact h

theorem kept_settleInputs {ending : InputSet} (h : Kept r s) : Kept r (settleInputs ending s) := kept_monitor _ h

/-! ### The port -/

theorem kept_endTransfer (h : Kept r s) : Kept r (endTransfer s) := kept_port _ h

theorem kept_beginWrite (h : Kept r s) : Kept r (beginWrite s) := by
  unfold beginWrite
  split <;> exact kept_port _ h

theorem kept_beginTransfer {d : Byte} (h : Kept r s) : Kept r (beginTransfer d s) := by
  unfold beginTransfer
  repeat' split
  all_goals first | exact kept_beginWrite h | exact kept_port _ h

theorem kept_withTransfer {d : Byte} (h : Kept r s) : Kept r (withTransfer d s) := by
  unfold withTransfer
  repeat' with_reducible first
    | exact h | refine kept_beginTransfer ?_ | split

theorem kept_handOver {c : Cmd} {body : List Byte} (h : Kept r s) : Kept r (handOver c body s) := kept_setExec h

theorem kept_judgeRequest {c : Cmd} {body : List Byte} (h : Kept r s) : Kept r (judgeRequest c body s) := by
  unfold judgeRequest
  split
  · exact kept_handOver h
  · split
    · exact kept_respond h
    · rename_i hd
      refine kept_handOver ?_
      split
      · exact h
      · exact kept_resumeServing (fun x => by rw [x] at hd; cases hd) h

theorem kept_judgeFrame {bytes : List Byte} (h : Kept r s) : Kept r (judgeFrame bytes s) := by
  unfold judgeFrame; dsimp -proj only
  split
  · exact kept_respond (kept_port _ h)
  · exact kept_judgeRequest (kept_port _ h)

theorem kept_endWrite {bytes : List Byte} (h : Kept r s) : Kept r (endWrite bytes s) := by
  unfold endWrite
  repeat' with_reducible first
    | exact h | refine kept_endTransfer ?_ | refine kept_judgeFrame ?_ | split

theorem kept_endRead {count : Nat} (h : Kept r s) : Kept r (endRead count s) := by
  unfold endRead; dsimp -proj only
  repeat' split
  all_goals first | with_reducible exact h | exact kept_port _ (kept_endTransfer h)

theorem kept_endInvalid {count : Nat} (h : Kept r s) : Kept r (endInvalid count s) := by
  unfold endInvalid; dsimp -proj only
  repeat' split
  all_goals first | with_reducible exact h | exact kept_port _ (kept_endTransfer h)

/-! ### Queries -/

theorem kept_readNotices (h : Kept r s) : Kept r (readNotices s) :=
  kept_respond ⟨h.pending, h.pins, h.array, h.clock, h.loadTamper, h.faulted, h.loading, fun x =>
    ⟨(h.laws x).queue, (h.laws x).flush, (h.laws x).cache, (h.laws x).plans,
      ((List.drop_sublist 16 _).map _).nodup (h.laws x).notices⟩⟩

theorem kept_slotQuery {body : List Byte} (h : Kept r s) : Kept r (slotQuery body s) := by
  unfold slotQuery; dsimp -proj only
  repeat' with_reducible first
    | exact h | refine kept_respond ?_ | split

theorem kept_setCursor {c : Option (Fin 32)} (h : Kept r s) : Kept r (setCursor c s) := kept_port _ h

theorem kept_directoryFirst (h : Kept r s) : Kept r (directoryFirst s) := by
  unfold directoryFirst
  repeat' with_reducible first
    | exact h | refine kept_respond ?_ | refine kept_setCursor ?_ | split

theorem kept_directoryNext (h : Kept r s) : Kept r (directoryNext s) := by
  unfold directoryNext
  repeat' with_reducible first
    | exact h | refine kept_respond ?_ | refine kept_setCursor ?_ | split

theorem kept_associationQuery {body : List Byte} (h : Kept r s) : Kept r (associationQuery body s) := by
  unfold associationQuery; dsimp -proj only
  repeat' with_reducible first
    | exact h | refine kept_respond ?_ | split

/-! ### Intake -/

theorem kept_onContext {body : List Byte} {run : Fin 2 → State → State} (hr : ∀ i, Kept r (run i s)) (h : Kept r s) :
    Kept r (onContext body run s) := by
  unfold onContext; dsimp -proj only
  repeat' with_reducible first
    | exact kept_respond h | exact hr _ | split

theorem kept_report {c : Code} {i : Fin 2} (h : Kept r s) : Kept r (report c i s) := by
  unfold report
  repeat' with_reducible first
    | exact h | refine kept_respond ?_

theorem kept_renewOpen {total : Nat} {i : Fin 2} (h : Kept r s) : Kept r (renewOpen total i s) := by
  unfold renewOpen
  repeat' split
  all_goals refine kept_report ?_
  all_goals first | with_reducible exact h | exact kept_setCtx (fun _ _ => noCounter_nil) h

theorem kept_renewPart {seq : Nat} {data : List Byte} {i : Fin 2} (h : Kept r s) : Kept r (renewPart seq data i s) := by
  have hs : ∀ x : Ctx, x.jobs = (ctxOf s i).jobs → Kept r (setCtx s i x) := fun _ hx => kept_setCtxSame hx h
  unfold renewPart; dsimp -proj only
  repeat' split
  all_goals refine kept_report ?_
  all_goals first | exact h | exact kept_ctxFail h | exact hs _ rfl

theorem kept_renewClose {i : Fin 2} (h : Kept r s) : Kept r (renewClose i s) := by
  have hs : ∀ x : Ctx, x.jobs = (ctxOf s i).jobs → Kept r (setCtx s i x) := fun _ hx => kept_setCtxSame hx h
  unfold renewClose; dsimp -proj only
  repeat' split
  all_goals refine kept_report ?_
  all_goals first | exact h | exact kept_ctxFail h | exact kept_renewalLists (hs _ rfl)

theorem kept_renewResult {i : Fin 2} (h : Kept r s) : Kept r (renewResult i s) := by
  unfold renewResult
  repeat' with_reducible first
    | exact h | refine kept_respond ?_ | refine kept_ctxIdle ?_ | split

theorem kept_dropVerifying {i : Fin 2} (h : Kept r s) : Kept r (dropVerifying i s) := by
  have hs : Kept r (setCtx s i { ctxOf s i with dropPending := true }) := kept_setCtxSame rfl h
  unfold dropVerifying; dsimp -proj only
  split
  · exact hs
  · exact kept_dropVerif hs

theorem kept_renewDrop {i : Fin 2} (h : Kept r s) : Kept r (renewDrop i s) := by
  unfold renewDrop
  repeat' with_reducible first
    | exact h | refine kept_respond ?_ | refine kept_ctxIdle ?_ | refine kept_leaveQueue ?_
    | refine kept_dropVerifying ?_ | split

/-! ### Commands that wait, and the ends of engine jobs -/

theorem kept_protectBodyRun {body : List Byte} (h : Kept r s) : Kept r (protectBodyRun body s) := by
  unfold protectBodyRun
  repeat' with_reducible first
    | exact h | refine kept_respond ?_ | refine kept_runProtect ?_ | split

theorem kept_unprotectBodyRun {body : List Byte} (h : Kept r s) : Kept r (unprotectBodyRun body s) := by
  unfold unprotectBodyRun
  repeat' with_reducible first
    | exact h | refine kept_respond ?_ | refine kept_runUnprotect ?_ | split

theorem kept_activateBodyRun {body : List Byte} (h : Kept r s) : Kept r (activateBodyRun body s) := by
  unfold activateBodyRun
  repeat' with_reducible first
    | exact h | refine kept_respond ?_ | refine kept_runActivate ?_ | split

theorem kept_runHold (h : Kept r s) : Kept r (runHold s) := by
  unfold runHold
  repeat' with_reducible first
    | exact h | refine kept_respond ?_ | refine kept_setExec ?_ | refine kept_markFlush ?_
    | refine kept_flushRequests ?_ | split

theorem kept_holdDrained {flushFailed : Bool} (hd : s.device ≠ .faulted) (h : Kept r s) :
    Kept r (holdDrained flushFailed s) := by
  unfold holdDrained
  split
  · exact kept_finish h
  · exact kept_finish (kept_device (fun x => absurd x hd) (fun x => by cases x) h)

theorem kept_grantNext (h : Kept r s) : Kept r (grantNext s) := by
  unfold grantNext
  repeat' with_reducible first
    | exact h | refine kept_grantTo ?_ | split

theorem kept_endFill {slot : Fin 32} {c : CellId} {gen : Nat} (h : Kept r s) :
    Kept r (endFill slot c gen s) := by
  unfold endFill; dsimp -proj only
  repeat' with_reducible first
    | exact kept_engineFree h | refine kept_fillEnd ?_ | split

theorem kept_endFrameProtect {cipher tag : List Byte} (h : Kept r s) : Kept r (endFrameProtect cipher tag s) := by
  unfold endFrameProtect
  repeat' with_reducible first
    | exact h | refine kept_protectEnd ?_ | split

theorem kept_endFrameUnprotect {plain : Option (List Byte)} (h : Kept r s) :
    Kept r (endFrameUnprotect plain s) := by
  unfold endFrameUnprotect
  repeat' with_reducible first
    | exact h | refine kept_unprotectEnd ?_ | split

theorem kept_endToken {pass : Bool} (h : Kept r s) : Kept r (endToken pass s) := by
  unfold endToken
  repeat' with_reducible first
    | exact h | refine kept_tokenEnd ?_ | split

theorem kept_renewalJobEnd {orphan : Bool} {stage : VerifStage} {go : Verif → State → State}
    (hg : ∀ v, (BlockLaws r → NoCounter v.plan) → Kept r (go v s)) (h : Kept r s) :
    Kept r (renewalJobEnd orphan stage go s) := by
  unfold renewalJobEnd
  split
  · exact h
  · rename_i v hv
    repeat' with_reducible first
      | exact h | exact hg v (fun y => (h.laws y).plans.verif v hv) | refine kept_dropVerif ?_ | split

theorem kept_tagEnd {v : Verif} {pass : Bool} (hv : BlockLaws r → NoCounter v.plan) (h : Kept r s) :
    Kept r (tagEnd v pass s) := by
  unfold tagEnd
  split
  · exact kept_kindChecks hv h
  · exact kept_failVerif h

end Sys2Proof.Machine
end

