-- ==== Sys2Proof/Laws/State.lean ====
section
/-! SUPPORT. One lemma for each field of the state and each shared update: what the update makes of the field. -/

namespace Sys2Proof.Machine

variable {s : State}

/-! ### Vectors -/

@[simp] theorem vset_self {α : Type} {n : Nat} (v : Vector α n) (i : Fin n) (x : α) : (vset v i x)[i] = x := by
  simp [vset]

theorem vset_other {α : Type} {n : Nat} (v : Vector α n) (i j : Fin n) (x : α) (h : j ≠ i) : (vset v i x)[j] = v[j] := by
  have hv : i.val ≠ j.val := fun e => h (Fin.ext e.symm)
  simp [vset, Vector.getElem_set_ne, hv]

@[simp] theorem slotOf_setSlot {i : Fin 32} {x : SlotImg} : slotOf (setSlot s i x) i = x := vset_self _ _ _

theorem slotOf_setSlot_other {i j : Fin 32} {x : SlotImg} (h : j ≠ i) : slotOf (setSlot s i x) j = slotOf s j :=
  vset_other _ _ _ _ h

@[simp] theorem assocOf_setAssoc {i : Fin 8} {x : AssocImg} : assocOf (setAssoc s i x) i = x := vset_self _ _ _

theorem assocOf_setAssoc_other {i j : Fin 8} {x : AssocImg} (h : j ≠ i) : assocOf (setAssoc s i x) j = assocOf s j :=
  vset_other _ _ _ _ h

@[simp] theorem ctxOf_setCtx {i : Fin 2} {x : Ctx} : ctxOf (setCtx s i x) i = x := vset_self _ _ _

theorem ctxOf_setCtx_other {i j : Fin 2} {x : Ctx} (h : j ≠ i) : ctxOf (setCtx s i x) j = ctxOf s j :=
  vset_other _ _ _ _ h

/-! ### setSlot -/

@[simp] theorem setSlot_pending {i : Fin 32} {x : SlotImg} : (setSlot s i x).pending = s.pending := rfl
@[simp] theorem setSlot_pins {i : Fin 32} {x : SlotImg} : (setSlot s i x).pins = s.pins := rfl
@[simp] theorem setSlot_array {i : Fin 32} {x : SlotImg} : (setSlot s i x).array = s.array := rfl
@[simp] theorem setSlot_device {i : Fin 32} {x : SlotImg} : (setSlot s i x).device = s.device := rfl
@[simp] theorem setSlot_warning {i : Fin 32} {x : SlotImg} : (setSlot s i x).warning = s.warning := rfl
@[simp] theorem setSlot_clock {i : Fin 32} {x : SlotImg} : (setSlot s i x).clock = s.clock := rfl
@[simp] theorem setSlot_slots {i : Fin 32} {x : SlotImg} : (setSlot s i x).slots = vset s.slots i x := rfl
@[simp] theorem setSlot_assocs {i : Fin 32} {x : SlotImg} : (setSlot s i x).assocs = s.assocs := rfl
@[simp] theorem setSlot_cache {i : Fin 32} {x : SlotImg} : (setSlot s i x).cache = s.cache := rfl
@[simp] theorem setSlot_engine {i : Fin 32} {x : SlotImg} : (setSlot s i x).engine = s.engine := rfl
@[simp] theorem setSlot_port {i : Fin 32} {x : SlotImg} : (setSlot s i x).port = s.port := rfl
@[simp] theorem setSlot_renewal {i : Fin 32} {x : SlotImg} : (setSlot s i x).renewal = s.renewal := rfl
@[simp] theorem setSlot_monitor {i : Fin 32} {x : SlotImg} : (setSlot s i x).monitor = s.monitor := rfl
@[simp] theorem setSlot_writer {i : Fin 32} {x : SlotImg} : (setSlot s i x).writer = s.writer := rfl
@[simp] theorem setSlot_notices {i : Fin 32} {x : SlotImg} : (setSlot s i x).notices = s.notices := rfl
@[simp] theorem setSlot_loadTamper {i : Fin 32} {x : SlotImg} : (setSlot s i x).loadTamper = s.loadTamper := rfl

/-! ### setAssoc -/

@[simp] theorem setAssoc_pending {i : Fin 8} {x : AssocImg} : (setAssoc s i x).pending = s.pending := rfl
@[simp] theorem setAssoc_pins {i : Fin 8} {x : AssocImg} : (setAssoc s i x).pins = s.pins := rfl
@[simp] theorem setAssoc_array {i : Fin 8} {x : AssocImg} : (setAssoc s i x).array = s.array := rfl
@[simp] theorem setAssoc_device {i : Fin 8} {x : AssocImg} : (setAssoc s i x).device = s.device := rfl
@[simp] theorem setAssoc_warning {i : Fin 8} {x : AssocImg} : (setAssoc s i x).warning = s.warning := rfl
@[simp] theorem setAssoc_clock {i : Fin 8} {x : AssocImg} : (setAssoc s i x).clock = s.clock := rfl
@[simp] theorem setAssoc_slots {i : Fin 8} {x : AssocImg} : (setAssoc s i x).slots = s.slots := rfl
@[simp] theorem setAssoc_assocs {i : Fin 8} {x : AssocImg} : (setAssoc s i x).assocs = vset s.assocs i x := rfl
@[simp] theorem setAssoc_cache {i : Fin 8} {x : AssocImg} : (setAssoc s i x).cache = s.cache := rfl
@[simp] theorem setAssoc_engine {i : Fin 8} {x : AssocImg} : (setAssoc s i x).engine = s.engine := rfl
@[simp] theorem setAssoc_port {i : Fin 8} {x : AssocImg} : (setAssoc s i x).port = s.port := rfl
@[simp] theorem setAssoc_renewal {i : Fin 8} {x : AssocImg} : (setAssoc s i x).renewal = s.renewal := rfl
@[simp] theorem setAssoc_monitor {i : Fin 8} {x : AssocImg} : (setAssoc s i x).monitor = s.monitor := rfl
@[simp] theorem setAssoc_writer {i : Fin 8} {x : AssocImg} : (setAssoc s i x).writer = s.writer := rfl
@[simp] theorem setAssoc_notices {i : Fin 8} {x : AssocImg} : (setAssoc s i x).notices = s.notices := rfl
@[simp] theorem setAssoc_loadTamper {i : Fin 8} {x : AssocImg} : (setAssoc s i x).loadTamper = s.loadTamper := rfl

/-! ### setCtx -/

@[simp] theorem setCtx_pending {i : Fin 2} {x : Ctx} : (setCtx s i x).pending = s.pending := rfl
@[simp] theorem setCtx_pins {i : Fin 2} {x : Ctx} : (setCtx s i x).pins = s.pins := rfl
@[simp] theorem setCtx_array {i : Fin 2} {x : Ctx} : (setCtx s i x).array = s.array := rfl
@[simp] theorem setCtx_device {i : Fin 2} {x : Ctx} : (setCtx s i x).device = s.device := rfl
@[simp] theorem setCtx_warning {i : Fin 2} {x : Ctx} : (setCtx s i x).warning = s.warning := rfl
@[simp] theorem setCtx_clock {i : Fin 2} {x : Ctx} : (setCtx s i x).clock = s.clock := rfl
@[simp] theorem setCtx_slots {i : Fin 2} {x : Ctx} : (setCtx s i x).slots = s.slots := rfl
@[simp] theorem setCtx_assocs {i : Fin 2} {x : Ctx} : (setCtx s i x).assocs = s.assocs := rfl
@[simp] theorem setCtx_cache {i : Fin 2} {x : Ctx} : (setCtx s i x).cache = s.cache := rfl
@[simp] theorem setCtx_engine {i : Fin 2} {x : Ctx} : (setCtx s i x).engine = s.engine := rfl
@[simp] theorem setCtx_port {i : Fin 2} {x : Ctx} : (setCtx s i x).port = s.port := rfl
@[simp] theorem setCtx_renewal {i : Fin 2} {x : Ctx} :
    (setCtx s i x).renewal = { s.renewal with ctxs := vset s.renewal.ctxs i x } := rfl
@[simp] theorem setCtx_monitor {i : Fin 2} {x : Ctx} : (setCtx s i x).monitor = s.monitor := rfl
@[simp] theorem setCtx_writer {i : Fin 2} {x : Ctx} : (setCtx s i x).writer = s.writer := rfl
@[simp] theorem setCtx_notices {i : Fin 2} {x : Ctx} : (setCtx s i x).notices = s.notices := rfl
@[simp] theorem setCtx_loadTamper {i : Fin 2} {x : Ctx} : (setCtx s i x).loadTamper = s.loadTamper := rfl

/-! ### raise -/

@[simp] theorem raise_pending {n : Notice} : (raise n s).pending = s.pending := rfl
@[simp] theorem raise_pins {n : Notice} : (raise n s).pins = s.pins := rfl
@[simp] theorem raise_array {n : Notice} : (raise n s).array = s.array := rfl
@[simp] theorem raise_device {n : Notice} : (raise n s).device = s.device := rfl
@[simp] theorem raise_warning {n : Notice} : (raise n s).warning = s.warning := rfl
@[simp] theorem raise_clock {n : Notice} : (raise n s).clock = s.clock := rfl
@[simp] theorem raise_slots {n : Notice} : (raise n s).slots = s.slots := rfl
@[simp] theorem raise_assocs {n : Notice} : (raise n s).assocs = s.assocs := rfl
@[simp] theorem raise_cache {n : Notice} : (raise n s).cache = s.cache := rfl
@[simp] theorem raise_engine {n : Notice} : (raise n s).engine = s.engine := rfl
@[simp] theorem raise_port {n : Notice} : (raise n s).port = s.port := rfl
@[simp] theorem raise_renewal {n : Notice} : (raise n s).renewal = s.renewal := rfl
@[simp] theorem raise_monitor {n : Notice} : (raise n s).monitor = s.monitor := rfl
@[simp] theorem raise_writer {n : Notice} : (raise n s).writer = s.writer := rfl
@[simp] theorem raise_notices {n : Notice} : (raise n s).notices = raiseIn n s.notices := rfl
@[simp] theorem raise_loadTamper {n : Notice} : (raise n s).loadTamper = s.loadTamper := rfl

/-! ### updEntry -/

@[simp] theorem updEntry_pending {i : Fin 32} {g : Nat} {f : Entry → Entry} :
    (updEntry i g f s).pending = s.pending := rfl
@[simp] theorem updEntry_pins {i : Fin 32} {g : Nat} {f : Entry → Entry} : (updEntry i g f s).pins = s.pins := rfl
@[simp] theorem updEntry_array {i : Fin 32} {g : Nat} {f : Entry → Entry} : (updEntry i g f s).array = s.array := rfl
@[simp] theorem updEntry_device {i : Fin 32} {g : Nat} {f : Entry → Entry} : (updEntry i g f s).device = s.device := rfl
@[simp] theorem updEntry_warning {i : Fin 32} {g : Nat} {f : Entry → Entry} :
    (updEntry i g f s).warning = s.warning := rfl
@[simp] theorem updEntry_clock {i : Fin 32} {g : Nat} {f : Entry → Entry} : (updEntry i g f s).clock = s.clock := rfl
@[simp] theorem updEntry_slots {i : Fin 32} {g : Nat} {f : Entry → Entry} : (updEntry i g f s).slots = s.slots := rfl
@[simp] theorem updEntry_assocs {i : Fin 32} {g : Nat} {f : Entry → Entry} : (updEntry i g f s).assocs = s.assocs := rfl
@[simp] theorem updEntry_engine {i : Fin 32} {g : Nat} {f : Entry → Entry} : (updEntry i g f s).engine = s.engine := rfl
@[simp] theorem updEntry_port {i : Fin 32} {g : Nat} {f : Entry → Entry} : (updEntry i g f s).port = s.port := rfl
@[simp] theorem updEntry_renewal {i : Fin 32} {g : Nat} {f : Entry → Entry} :
    (updEntry i g f s).renewal = s.renewal := rfl
@[simp] theorem updEntry_monitor {i : Fin 32} {g : Nat} {f : Entry → Entry} :
    (updEntry i g f s).monitor = s.monitor := rfl
@[simp] theorem updEntry_writer {i : Fin 32} {g : Nat} {f : Entry → Entry} : (updEntry i g f s).writer = s.writer := rfl
@[simp] theorem updEntry_notices {i : Fin 32} {g : Nat} {f : Entry → Entry} :
    (updEntry i g f s).notices = s.notices := rfl
@[simp] theorem updEntry_loadTamper {i : Fin 32} {g : Nat} {f : Entry → Entry} :
    (updEntry i g f s).loadTamper = s.loadTamper := rfl

/-! ### withEntries -/

@[simp] theorem withEntries_pending {es : List Entry} : (withEntries es s).pending = s.pending := rfl
@[simp] theorem withEntries_pins {es : List Entry} : (withEntries es s).pins = s.pins := rfl
@[simp] theorem withEntries_array {es : List Entry} : (withEntries es s).array = s.array := rfl
@[simp] theorem withEntries_device {es : List Entry} : (withEntries es s).device = s.device := rfl
@[simp] theorem withEntries_warning {es : List Entry} : (withEntries es s).warning = s.warning := rfl
@[simp] theorem withEntries_clock {es : List Entry} : (withEntries es s).clock = s.clock := rfl
@[simp] theorem withEntries_slots {es : List Entry} : (withEntries es s).slots = s.slots := rfl
@[simp] theorem withEntries_assocs {es : List Entry} : (withEntries es s).assocs = s.assocs := rfl
@[simp] theorem withEntries_cache {es : List Entry} : (withEntries es s).cache = { s.cache with entries := es } := rfl
@[simp] theorem withEntries_engine {es : List Entry} : (withEntries es s).engine = s.engine := rfl
@[simp] theorem withEntries_port {es : List Entry} : (withEntries es s).port = s.port := rfl
@[simp] theorem withEntries_renewal {es : List Entry} : (withEntries es s).renewal = s.renewal := rfl
@[simp] theorem withEntries_monitor {es : List Entry} : (withEntries es s).monitor = s.monitor := rfl
@[simp] theorem withEntries_notices {es : List Entry} : (withEntries es s).notices = s.notices := rfl
@[simp] theorem withEntries_loadTamper {es : List Entry} : (withEntries es s).loadTamper = s.loadTamper := rfl

/-! ### engineFree -/

@[simp] theorem engineFree_pending : (engineFree s).pending = s.pending := rfl
@[simp] theorem engineFree_pins : (engineFree s).pins = s.pins := rfl
@[simp] theorem engineFree_array : (engineFree s).array = s.array := rfl
@[simp] theorem engineFree_device : (engineFree s).device = s.device := rfl
@[simp] theorem engineFree_warning : (engineFree s).warning = s.warning := rfl
@[simp] theorem engineFree_clock : (engineFree s).clock = s.clock := rfl
@[simp] theorem engineFree_slots : (engineFree s).slots = s.slots := rfl
@[simp] theorem engineFree_assocs : (engineFree s).assocs = s.assocs := rfl
@[simp] theorem engineFree_cache : (engineFree s).cache = s.cache := rfl
@[simp] theorem engineFree_engine : (engineFree s).engine = { s.engine with job := none } := rfl
@[simp] theorem engineFree_port : (engineFree s).port = s.port := rfl
@[simp] theorem engineFree_renewal : (engineFree s).renewal = s.renewal := rfl
@[simp] theorem engineFree_monitor : (engineFree s).monitor = s.monitor := rfl
@[simp] theorem engineFree_writer : (engineFree s).writer = s.writer := rfl
@[simp] theorem engineFree_notices : (engineFree s).notices = s.notices := rfl
@[simp] theorem engineFree_loadTamper : (engineFree s).loadTamper = s.loadTamper := rfl

/-! ### respond -/

@[simp] theorem respond_pending {c : Code} {b : List Byte} : (respond c b s).pending = s.pending := rfl
@[simp] theorem respond_pins {c : Code} {b : List Byte} : (respond c b s).pins = s.pins := rfl
@[simp] theorem respond_array {c : Code} {b : List Byte} : (respond c b s).array = s.array := rfl
@[simp] theorem respond_device {c : Code} {b : List Byte} : (respond c b s).device = s.device := rfl
@[simp] theorem respond_warning {c : Code} {b : List Byte} : (respond c b s).warning = s.warning := rfl
@[simp] theorem respond_clock {c : Code} {b : List Byte} : (respond c b s).clock = s.clock := rfl
@[simp] theorem respond_slots {c : Code} {b : List Byte} : (respond c b s).slots = s.slots := rfl
@[simp] theorem respond_assocs {c : Code} {b : List Byte} : (respond c b s).assocs = s.assocs := rfl
@[simp] theorem respond_cache {c : Code} {b : List Byte} : (respond c b s).cache = s.cache := rfl
@[simp] theorem respond_engine {c : Code} {b : List Byte} : (respond c b s).engine = s.engine := rfl
@[simp] theorem respond_port {c : Code} {b : List Byte} :
    (respond c b s).port = { s.port with exec := .free, retained := some ⟨c, s.port.overrun, b⟩ } := rfl
@[simp] theorem respond_renewal {c : Code} {b : List Byte} : (respond c b s).renewal = s.renewal := rfl
@[simp] theorem respond_monitor {c : Code} {b : List Byte} : (respond c b s).monitor = s.monitor := rfl
@[simp] theorem respond_writer {c : Code} {b : List Byte} : (respond c b s).writer = s.writer := rfl
@[simp] theorem respond_notices {c : Code} {b : List Byte} : (respond c b s).notices = s.notices := rfl
@[simp] theorem respond_loadTamper {c : Code} {b : List Byte} : (respond c b s).loadTamper = s.loadTamper := rfl

/-! ### setExec -/

@[simp] theorem setExec_pending {e : Executor} : (setExec e s).pending = s.pending := rfl
@[simp] theorem setExec_pins {e : Executor} : (setExec e s).pins = s.pins := rfl
@[simp] theorem setExec_array {e : Executor} : (setExec e s).array = s.array := rfl
@[simp] theorem setExec_device {e : Executor} : (setExec e s).device = s.device := rfl
@[simp] theorem setExec_warning {e : Executor} : (setExec e s).warning = s.warning := rfl
@[simp] theorem setExec_clock {e : Executor} : (setExec e s).clock = s.clock := rfl
@[simp] theorem setExec_slots {e : Executor} : (setExec e s).slots = s.slots := rfl
@[simp] theorem setExec_assocs {e : Executor} : (setExec e s).assocs = s.assocs := rfl
@[simp] theorem setExec_cache {e : Executor} : (setExec e s).cache = s.cache := rfl
@[simp] theorem setExec_engine {e : Executor} : (setExec e s).engine = s.engine := rfl
@[simp] theorem setExec_port {e : Executor} : (setExec e s).port = { s.port with exec := e } := rfl
@[simp] theorem setExec_renewal {e : Executor} : (setExec e s).renewal = s.renewal := rfl
@[simp] theorem setExec_monitor {e : Executor} : (setExec e s).monitor = s.monitor := rfl
@[simp] theorem setExec_writer {e : Executor} : (setExec e s).writer = s.writer := rfl
@[simp] theorem setExec_notices {e : Executor} : (setExec e s).notices = s.notices := rfl
@[simp] theorem setExec_loadTamper {e : Executor} : (setExec e s).loadTamper = s.loadTamper := rfl

/-! ### setQueue -/

@[simp] theorem setQueue_pending {q : List QJob} : (setQueue q s).pending = s.pending := rfl
@[simp] theorem setQueue_pins {q : List QJob} : (setQueue q s).pins = s.pins := rfl
@[simp] theorem setQueue_array {q : List QJob} : (setQueue q s).array = s.array := rfl
@[simp] theorem setQueue_device {q : List QJob} : (setQueue q s).device = s.device := rfl
@[simp] theorem setQueue_warning {q : List QJob} : (setQueue q s).warning = s.warning := rfl
@[simp] theorem setQueue_clock {q : List QJob} : (setQueue q s).clock = s.clock := rfl
@[simp] theorem setQueue_slots {q : List QJob} : (setQueue q s).slots = s.slots := rfl
@[simp] theorem setQueue_assocs {q : List QJob} : (setQueue q s).assocs = s.assocs := rfl
@[simp] theorem setQueue_cache {q : List QJob} : (setQueue q s).cache = s.cache := rfl
@[simp] theorem setQueue_engine {q : List QJob} : (setQueue q s).engine = s.engine := rfl
@[simp] theorem setQueue_port {q : List QJob} : (setQueue q s).port = s.port := rfl
@[simp] theorem setQueue_renewal {q : List QJob} : (setQueue q s).renewal = s.renewal := rfl
@[simp] theorem setQueue_monitor {q : List QJob} : (setQueue q s).monitor = s.monitor := rfl
@[simp] theorem setQueue_writer {q : List QJob} : (setQueue q s).writer = { s.writer with queue := q } := rfl
@[simp] theorem setQueue_notices {q : List QJob} : (setQueue q s).notices = s.notices := rfl
@[simp] theorem setQueue_loadTamper {q : List QJob} : (setQueue q s).loadTamper = s.loadTamper := rfl

/-! ### enqueue -/

@[simp] theorem enqueue_pending {j : QJob} : (enqueue j s).pending = s.pending := rfl
@[simp] theorem enqueue_pins {j : QJob} : (enqueue j s).pins = s.pins := rfl
@[simp] theorem enqueue_array {j : QJob} : (enqueue j s).array = s.array := rfl
@[simp] theorem enqueue_device {j : QJob} : (enqueue j s).device = s.device := rfl
@[simp] theorem enqueue_warning {j : QJob} : (enqueue j s).warning = s.warning := rfl
@[simp] theorem enqueue_clock {j : QJob} : (enqueue j s).clock = s.clock := rfl
@[simp] theorem enqueue_slots {j : QJob} : (enqueue j s).slots = s.slots := rfl
@[simp] theorem enqueue_assocs {j : QJob} : (enqueue j s).assocs = s.assocs := rfl
@[simp] theorem enqueue_cache {j : QJob} : (enqueue j s).cache = s.cache := rfl
@[simp] theorem enqueue_engine {j : QJob} : (enqueue j s).engine = s.engine := rfl
@[simp] theorem enqueue_port {j : QJob} : (enqueue j s).port = s.port := rfl
@[simp] theorem enqueue_renewal {j : QJob} : (enqueue j s).renewal = s.renewal := rfl
@[simp] theorem enqueue_monitor {j : QJob} : (enqueue j s).monitor = s.monitor := rfl
@[simp] theorem enqueue_writer {j : QJob} :
    (enqueue j s).writer = { s.writer with queue := s.writer.queue ++ [j] } := rfl
@[simp] theorem enqueue_notices {j : QJob} : (enqueue j s).notices = s.notices := rfl
@[simp] theorem enqueue_loadTamper {j : QJob} : (enqueue j s).loadTamper = s.loadTamper := rfl

/-! ### setCursor -/

@[simp] theorem setCursor_pending {c : Option (Fin 32)} : (setCursor c s).pending = s.pending := rfl
@[simp] theorem setCursor_pins {c : Option (Fin 32)} : (setCursor c s).pins = s.pins := rfl
@[simp] theorem setCursor_array {c : Option (Fin 32)} : (setCursor c s).array = s.array := rfl
@[simp] theorem setCursor_device {c : Option (Fin 32)} : (setCursor c s).device = s.device := rfl
@[simp] theorem setCursor_warning {c : Option (Fin 32)} : (setCursor c s).warning = s.warning := rfl
@[simp] theorem setCursor_clock {c : Option (Fin 32)} : (setCursor c s).clock = s.clock := rfl
@[simp] theorem setCursor_slots {c : Option (Fin 32)} : (setCursor c s).slots = s.slots := rfl
@[simp] theorem setCursor_assocs {c : Option (Fin 32)} : (setCursor c s).assocs = s.assocs := rfl
@[simp] theorem setCursor_cache {c : Option (Fin 32)} : (setCursor c s).cache = s.cache := rfl
@[simp] theorem setCursor_engine {c : Option (Fin 32)} : (setCursor c s).engine = s.engine := rfl
@[simp] theorem setCursor_port {c : Option (Fin 32)} : (setCursor c s).port = { s.port with cursor := c } := rfl
@[simp] theorem setCursor_renewal {c : Option (Fin 32)} : (setCursor c s).renewal = s.renewal := rfl
@[simp] theorem setCursor_monitor {c : Option (Fin 32)} : (setCursor c s).monitor = s.monitor := rfl
@[simp] theorem setCursor_writer {c : Option (Fin 32)} : (setCursor c s).writer = s.writer := rfl
@[simp] theorem setCursor_notices {c : Option (Fin 32)} : (setCursor c s).notices = s.notices := rfl
@[simp] theorem setCursor_loadTamper {c : Option (Fin 32)} : (setCursor c s).loadTamper = s.loadTamper := rfl

/-! ### endTransfer -/

@[simp] theorem endTransfer_pending : (endTransfer s).pending = s.pending := rfl
@[simp] theorem endTransfer_pins : (endTransfer s).pins = s.pins := rfl
@[simp] theorem endTransfer_array : (endTransfer s).array = s.array := rfl
@[simp] theorem endTransfer_device : (endTransfer s).device = s.device := rfl
@[simp] theorem endTransfer_warning : (endTransfer s).warning = s.warning := rfl
@[simp] theorem endTransfer_clock : (endTransfer s).clock = s.clock := rfl
@[simp] theorem endTransfer_slots : (endTransfer s).slots = s.slots := rfl
@[simp] theorem endTransfer_assocs : (endTransfer s).assocs = s.assocs := rfl
@[simp] theorem endTransfer_cache : (endTransfer s).cache = s.cache := rfl
@[simp] theorem endTransfer_engine : (endTransfer s).engine = s.engine := rfl
@[simp] theorem endTransfer_port : (endTransfer s).port = { s.port with transfer := none } := rfl
@[simp] theorem endTransfer_renewal : (endTransfer s).renewal = s.renewal := rfl
@[simp] theorem endTransfer_monitor : (endTransfer s).monitor = s.monitor := rfl
@[simp] theorem endTransfer_writer : (endTransfer s).writer = s.writer := rfl
@[simp] theorem endTransfer_notices : (endTransfer s).notices = s.notices := rfl
@[simp] theorem endTransfer_loadTamper : (endTransfer s).loadTamper = s.loadTamper := rfl

/-! ### handOver -/

@[simp] theorem handOver_pending {c : Cmd} {b : List Byte} : (handOver c b s).pending = s.pending := rfl
@[simp] theorem handOver_pins {c : Cmd} {b : List Byte} : (handOver c b s).pins = s.pins := rfl
@[simp] theorem handOver_array {c : Cmd} {b : List Byte} : (handOver c b s).array = s.array := rfl
@[simp] theorem handOver_device {c : Cmd} {b : List Byte} : (handOver c b s).device = s.device := rfl
@[simp] theorem handOver_warning {c : Cmd} {b : List Byte} : (handOver c b s).warning = s.warning := rfl
@[simp] theorem handOver_clock {c : Cmd} {b : List Byte} : (handOver c b s).clock = s.clock := rfl
@[simp] theorem handOver_slots {c : Cmd} {b : List Byte} : (handOver c b s).slots = s.slots := rfl
@[simp] theorem handOver_assocs {c : Cmd} {b : List Byte} : (handOver c b s).assocs = s.assocs := rfl
@[simp] theorem handOver_cache {c : Cmd} {b : List Byte} : (handOver c b s).cache = s.cache := rfl
@[simp] theorem handOver_engine {c : Cmd} {b : List Byte} : (handOver c b s).engine = s.engine := rfl
@[simp] theorem handOver_port {c : Cmd} {b : List Byte} :
    (handOver c b s).port = { s.port with exec := .handed c b } := rfl
@[simp] theorem handOver_renewal {c : Cmd} {b : List Byte} : (handOver c b s).renewal = s.renewal := rfl
@[simp] theorem handOver_monitor {c : Cmd} {b : List Byte} : (handOver c b s).monitor = s.monitor := rfl
@[simp] theorem handOver_writer {c : Cmd} {b : List Byte} : (handOver c b s).writer = s.writer := rfl
@[simp] theorem handOver_notices {c : Cmd} {b : List Byte} : (handOver c b s).notices = s.notices := rfl
@[simp] theorem handOver_loadTamper {c : Cmd} {b : List Byte} : (handOver c b s).loadTamper = s.loadTamper := rfl

/-! ### portLetsGo -/

@[simp] theorem portLetsGo_pending : (portLetsGo s).pending = s.pending := rfl
@[simp] theorem portLetsGo_pins : (portLetsGo s).pins = s.pins := rfl
@[simp] theorem portLetsGo_array : (portLetsGo s).array = s.array := rfl
@[simp] theorem portLetsGo_device : (portLetsGo s).device = s.device := rfl
@[simp] theorem portLetsGo_warning : (portLetsGo s).warning = s.warning := rfl
@[simp] theorem portLetsGo_clock : (portLetsGo s).clock = s.clock := rfl
@[simp] theorem portLetsGo_slots : (portLetsGo s).slots = s.slots := rfl
@[simp] theorem portLetsGo_assocs : (portLetsGo s).assocs = s.assocs := rfl
@[simp] theorem portLetsGo_engine : (portLetsGo s).engine = s.engine := rfl
@[simp] theorem portLetsGo_port : (portLetsGo s).port = s.port := rfl
@[simp] theorem portLetsGo_renewal : (portLetsGo s).renewal = s.renewal := rfl
@[simp] theorem portLetsGo_monitor : (portLetsGo s).monitor = s.monitor := rfl
@[simp] theorem portLetsGo_notices : (portLetsGo s).notices = s.notices := rfl
@[simp] theorem portLetsGo_loadTamper : (portLetsGo s).loadTamper = s.loadTamper := rfl

/-! ### finish -/

@[simp] theorem finish_pending {c : Code} {b : List Byte} : (finish c b s).pending = s.pending := rfl
@[simp] theorem finish_pins {c : Code} {b : List Byte} : (finish c b s).pins = s.pins := rfl
@[simp] theorem finish_array {c : Code} {b : List Byte} : (finish c b s).array = s.array := rfl
@[simp] theorem finish_device {c : Code} {b : List Byte} : (finish c b s).device = s.device := rfl
@[simp] theorem finish_warning {c : Code} {b : List Byte} : (finish c b s).warning = s.warning := rfl
@[simp] theorem finish_clock {c : Code} {b : List Byte} : (finish c b s).clock = s.clock := rfl
@[simp] theorem finish_slots {c : Code} {b : List Byte} : (finish c b s).slots = s.slots := rfl
@[simp] theorem finish_assocs {c : Code} {b : List Byte} : (finish c b s).assocs = s.assocs := rfl
@[simp] theorem finish_engine {c : Code} {b : List Byte} : (finish c b s).engine = s.engine := rfl
@[simp] theorem finish_renewal {c : Code} {b : List Byte} : (finish c b s).renewal = s.renewal := rfl
@[simp] theorem finish_monitor {c : Code} {b : List Byte} : (finish c b s).monitor = s.monitor := rfl
@[simp] theorem finish_notices {c : Code} {b : List Byte} : (finish c b s).notices = s.notices := rfl
@[simp] theorem finish_loadTamper {c : Code} {b : List Byte} : (finish c b s).loadTamper = s.loadTamper := rfl

/-! ### setLine -/

@[simp] theorem setLine_pending {q : Requester} {j : Option EngineJob} :
    (setLine q j s).pending = s.pending := by cases q <;> rfl
@[simp] theorem setLine_pins {q : Requester} {j : Option EngineJob} :
    (setLine q j s).pins = s.pins := by cases q <;> rfl
@[simp] theorem setLine_array {q : Requester} {j : Option EngineJob} :
    (setLine q j s).array = s.array := by cases q <;> rfl
@[simp] theorem setLine_device {q : Requester} {j : Option EngineJob} :
    (setLine q j s).device = s.device := by cases q <;> rfl
@[simp] theorem setLine_warning {q : Requester} {j : Option EngineJob} :
    (setLine q j s).warning = s.warning := by cases q <;> rfl
@[simp] theorem setLine_clock {q : Requester} {j : Option EngineJob} :
    (setLine q j s).clock = s.clock := by cases q <;> rfl
@[simp] theorem setLine_slots {q : Requester} {j : Option EngineJob} :
    (setLine q j s).slots = s.slots := by cases q <;> rfl
@[simp] theorem setLine_assocs {q : Requester} {j : Option EngineJob} :
    (setLine q j s).assocs = s.assocs := by cases q <;> rfl
@[simp] theorem setLine_cache {q : Requester} {j : Option EngineJob} :
    (setLine q j s).cache = s.cache := by cases q <;> rfl
@[simp] theorem setLine_port {q : Requester} {j : Option EngineJob} :
    (setLine q j s).port = s.port := by cases q <;> rfl
@[simp] theorem setLine_renewal {q : Requester} {j : Option EngineJob} :
    (setLine q j s).renewal = s.renewal := by cases q <;> rfl
@[simp] theorem setLine_monitor {q : Requester} {j : Option EngineJob} :
    (setLine q j s).monitor = s.monitor := by cases q <;> rfl
@[simp] theorem setLine_writer {q : Requester} {j : Option EngineJob} :
    (setLine q j s).writer = s.writer := by cases q <;> rfl
@[simp] theorem setLine_notices {q : Requester} {j : Option EngineJob} :
    (setLine q j s).notices = s.notices := by cases q <;> rfl
@[simp] theorem setLine_loadTamper {q : Requester} {j : Option EngineJob} :
    (setLine q j s).loadTamper = s.loadTamper := by cases q <;> rfl

/-! ### place -/

@[simp] theorem place_pending {q : Requester} {j : EngineJob} :
    (place q j s).pending = s.pending := by unfold place grantTo setLine; split <;> cases q <;> rfl
@[simp] theorem place_pins {q : Requester} {j : EngineJob} :
    (place q j s).pins = s.pins := by unfold place grantTo setLine; split <;> cases q <;> rfl
@[simp] theorem place_array {q : Requester} {j : EngineJob} :
    (place q j s).array = s.array := by unfold place grantTo setLine; split <;> cases q <;> rfl
@[simp] theorem place_device {q : Requester} {j : EngineJob} :
    (place q j s).device = s.device := by unfold place grantTo setLine; split <;> cases q <;> rfl
@[simp] theorem place_warning {q : Requester} {j : EngineJob} :
    (place q j s).warning = s.warning := by unfold place grantTo setLine; split <;> cases q <;> rfl
@[simp] theorem place_clock {q : Requester} {j : EngineJob} :
    (place q j s).clock = s.clock := by unfold place grantTo setLine; split <;> cases q <;> rfl
@[simp] theorem place_slots {q : Requester} {j : EngineJob} :
    (place q j s).slots = s.slots := by unfold place grantTo setLine; split <;> cases q <;> rfl
@[simp] theorem place_assocs {q : Requester} {j : EngineJob} :
    (place q j s).assocs = s.assocs := by unfold place grantTo setLine; split <;> cases q <;> rfl
@[simp] theorem place_cache {q : Requester} {j : EngineJob} :
    (place q j s).cache = s.cache := by unfold place grantTo setLine; split <;> cases q <;> rfl
@[simp] theorem place_port {q : Requester} {j : EngineJob} :
    (place q j s).port = s.port := by unfold place grantTo setLine; split <;> cases q <;> rfl
@[simp] theorem place_renewal {q : Requester} {j : EngineJob} :
    (place q j s).renewal = s.renewal := by unfold place grantTo setLine; split <;> cases q <;> rfl
@[simp] theorem place_monitor {q : Requester} {j : EngineJob} :
    (place q j s).monitor = s.monitor := by unfold place grantTo setLine; split <;> cases q <;> rfl
@[simp] theorem place_writer {q : Requester} {j : EngineJob} :
    (place q j s).writer = s.writer := by unfold place grantTo setLine; split <;> cases q <;> rfl
@[simp] theorem place_notices {q : Requester} {j : EngineJob} :
    (place q j s).notices = s.notices := by unfold place grantTo setLine; split <;> cases q <;> rfl
@[simp] theorem place_loadTamper {q : Requester} {j : EngineJob} :
    (place q j s).loadTamper = s.loadTamper := by unfold place grantTo setLine; split <;> cases q <;> rfl

/-! ### Reads through updates of other parts -/

@[simp] theorem slotOf_respond {i : Fin 32} {c : Code} {b : List Byte} : slotOf (respond c b s) i = slotOf s i := rfl
@[simp] theorem slotOf_finish {i : Fin 32} {c : Code} {b : List Byte} : slotOf (finish c b s) i = slotOf s i := rfl
@[simp] theorem ctxOf_respond {i : Fin 2} {c : Code} {b : List Byte} : ctxOf (respond c b s) i = ctxOf s i := rfl
@[simp] theorem ctxOf_raise {i : Fin 2} {n : Notice} : ctxOf (raise n s) i = ctxOf s i := rfl
@[simp] theorem ctxOf_finish {i : Fin 2} {c : Code} {b : List Byte} : ctxOf (finish c b s) i = ctxOf s i := rfl
@[simp] theorem finish_exec {c : Code} {b : List Byte} : (finish c b s).port.exec = .free := rfl
@[simp] theorem finish_retained {c : Code} {b : List Byte} :
    (finish c b s).port.retained = some ⟨c, s.port.overrun, b⟩ := rfl

end Sys2Proof.Machine
end

