-- ==== Sys2Proof/Laws/Beside.lean ====
section
/-! SUPPORT. What no operation beside the ends of store jobs, the resets and the changes of the device state touches:
`Beside r s` says that `s` agrees with `r` there. Its lemmas for the plain updates and the operations of Machine/Ops.lean. -/

namespace Sys2Proof.Machine

/-- The states agree in the device state, the warning, the Association List, the monitor, what the array says of every slot, and
of the Store Writer in its tamper work list, its strip position and the writes in hand; no quarantine mark has been cleared and no
kind of notice removed. -/
structure Beside (r s : State) : Prop where
  device : s.device = r.device
  warning : s.warning = r.warning
  assocs : s.assocs = r.assocs
  monitor : s.monitor = r.monitor
  slots : ∀ i, slotCore (slotOf s i) = slotCore (slotOf r i)
  tamper : s.writer.tamper = r.writer.tamper
  nextStrip : s.writer.nextStrip = r.writer.nextStrip
  writes : s.writer.job.map (·.writes) = r.writer.job.map (·.writes)
  quarantined : ∀ i, (slotOf r i).quarantined = true → (slotOf s i).quarantined = true
  keys : ∀ k, k ∈ r.notices.map noticeKey → k ∈ s.notices.map noticeKey

variable {r s t : State}

theorem beside_refl (r : State) : Beside r r := ⟨rfl, rfl, rfl, rfl, fun _ => rfl, rfl, rfl, rfl, fun _ h => h, fun _ h => h⟩

theorem Beside.trans (h : Beside r s) (k : Beside s t) : Beside r t :=
  ⟨k.device.trans h.device, k.warning.trans h.warning, k.assocs.trans h.assocs, k.monitor.trans h.monitor,
    fun i => (k.slots i).trans (h.slots i), k.tamper.trans h.tamper, k.nextStrip.trans h.nextStrip,
    k.writes.trans h.writes, fun i x => k.quarantined i (h.quarantined i x), fun x m => k.keys x (h.keys x m)⟩

/-- A change of parts outside the relation. -/
theorem beside_parts {cache engine port renewal} (h : Beside r s) :
    Beside r { s with cache := cache, engine := engine, port := port, renewal := renewal } :=
  ⟨h.device, h.warning, h.assocs, h.monitor, h.slots, h.tamper, h.nextStrip, h.writes, h.quarantined, h.keys⟩

theorem beside_cache (v) (h : Beside r s) : Beside r { s with cache := v } := beside_parts h
theorem beside_engine (v) (h : Beside r s) : Beside r { s with engine := v } := beside_parts h
theorem beside_port (v) (h : Beside r s) : Beside r { s with port := v } := beside_parts h
theorem beside_renewal (v) (h : Beside r s) : Beside r { s with renewal := v } := beside_parts h

/-- A writer with another queue, flush list or strip mark. -/
theorem beside_writer {q f p} (h : Beside r s) :
    Beside r { s with writer := { s.writer with queue := q, flush := f, stripPending := p } } :=
  ⟨h.device, h.warning, h.assocs, h.monitor, h.slots, h.tamper, h.nextStrip, h.writes, h.quarantined, h.keys⟩

/-- The task in hand changed, its writes kept. -/
theorem beside_tasks {q} {f : Running → Running} (hf : ∀ x, (f x).writes = x.writes) (h : Beside r s) :
    Beside r { s with writer := { s.writer with queue := q, job := s.writer.job.map f } } :=
  ⟨h.device, h.warning, h.assocs, h.monitor, h.slots, h.tamper, h.nextStrip, by
    refine Eq.trans ?_ h.writes
    show (s.writer.job.map f).map (·.writes) = _
    rw [Option.map_map]
    exact congrArg (Option.map · s.writer.job) (funext hf), h.quarantined, h.keys⟩

theorem beside_foldl {α : Type} {f : State → α → State} (hf : ∀ s x, Beside s (f s x)) (l : List α) (h : Beside r s) :
    Beside r (l.foldl f s) := by
  induction l generalizing s with
  | nil => exact h
  | cons x l ih => exact ih (h.trans (hf s x))

theorem beside_setSlot {i x} (hx : slotCore x = slotCore (slotOf s i))
    (hq : (slotOf s i).quarantined = true → x.quarantined = true) (h : Beside r s) : Beside r (setSlot s i x) :=
  ⟨h.device, h.warning, h.assocs, h.monitor, fun j => by
    by_cases e : j = i
    · rw [e, slotOf_setSlot, hx, h.slots i]
    · rw [slotOf_setSlot_other e, h.slots j], h.tamper, h.nextStrip, h.writes, fun j x => by
    by_cases e : j = i
    · rw [e, slotOf_setSlot]
      exact hq (h.quarantined i (e ▸ x))
    · rw [slotOf_setSlot_other e]
      exact h.quarantined j x, h.keys⟩

theorem beside_setExec {e} (h : Beside r s) : Beside r (setExec e s) := beside_port _ h
theorem beside_respond {c b} (h : Beside r s) : Beside r (respond c b s) := beside_port _ h
theorem beside_raise {n : Notice} (h : Beside r s) : Beside r (raise n s) :=
  ⟨h.device, h.warning, h.assocs, h.monitor, h.slots, h.tamper, h.nextStrip, h.writes, h.quarantined,
    fun k m => (mem_keys_raiseIn n s.notices k).2 (.inr (h.keys k m))⟩
theorem beside_setQueue {q} (h : Beside r s) : Beside r (setQueue q s) := beside_writer h
theorem beside_enqueue {q} (h : Beside r s) : Beside r (enqueue q s) := beside_setQueue h
theorem beside_updEntry {i g f} (h : Beside r s) : Beside r (updEntry i g f s) := beside_cache _ h
theorem beside_withEntries {es} (h : Beside r s) : Beside r (withEntries es s) :=
  ⟨h.device, h.warning, h.assocs, h.monitor, h.slots, h.tamper, h.nextStrip, h.writes, h.quarantined, h.keys⟩
theorem beside_releasePins {q : Requester} (h : Beside r s) : Beside r (releasePins q s) := beside_withEntries h
theorem beside_giveCause {w p} (h : Beside r s) : Beside r (giveCause w p s) := beside_withEntries h
theorem beside_removeEntry {i g} (h : Beside r s) : Beside r (removeEntry i g s) := beside_withEntries h
theorem beside_setLine {q j} (h : Beside r s) : Beside r (setLine q j s) := by cases q <;> exact beside_engine _ h
theorem beside_grantTo {q j} (h : Beside r s) : Beside r (grantTo q j s) := beside_engine _ (beside_setLine h)
theorem beside_place {q j} (h : Beside r s) : Beside r (place q j s) := by
  unfold place
  split
  · exact beside_grantTo h
  · exact beside_setLine h
theorem beside_engineFree (h : Beside r s) : Beside r (engineFree s) := beside_engine _ h
theorem beside_portLetsGo (h : Beside r s) : Beside r (portLetsGo s) :=
  let k := beside_tasks (q := s.writer.queue.map unwaited) (f := fun x => { x with task := unwaitedTask x.task })
    (fun _ => rfl) h
  ⟨k.device, k.warning, k.assocs, k.monitor, k.slots, k.tamper, k.nextStrip, k.writes, k.quarantined, k.keys⟩
theorem beside_finish {c b} (h : Beside r s) : Beside r (finish c b s) :=
  beside_respond (beside_releasePins (beside_portLetsGo h))
theorem beside_setCtx {i x} (h : Beside r s) : Beside r (setCtx s i x) := beside_renewal _ h
theorem beside_setVerif {v} (h : Beside r s) : Beside r (setVerif v s) := beside_renewal _ h

theorem setCell_quarantined {img : SlotImg} {c : CellId} {x : Option CellImg} :
    (setCell img c x).quarantined = img.quarantined := by cases c <;> rfl

/-- Another unused mark or wear in a cell leaves what the array says. -/
theorem slotCore_setCell {img : SlotImg} {c : CellId} {x : Option CellImg}
    (hx : x.map cellCore = (cellOf img c).map cellCore) : slotCore (setCell img c x) = slotCore img := by
  cases c <;> simp only [setCell, slotCore, cellOf] at hx ⊢ <;> rw [hx]

end Sys2Proof.Machine
end

