-- ==== Sys2Proof/Laws/BesidePort.lean ====
section
/-! SUPPORT. What the operations of the Key Table, the cache and the Port Executor leave untouched. -/

namespace Sys2Proof.Machine

variable {r s t : State}

/-! ### Wear, queue and marks -/

theorem beside_setWear {slot : Fin 32} {c : CellId} (h : Beside r s) : Beside r (setWear slot c s) := by
  unfold setWear
  split
  · exact h
  · rename_i x hx
    split
    · exact beside_setSlot (slotCore_setCell (by rw [hx]; rfl)) (fun x => setCell_quarantined.trans x) h
    · exact h

theorem beside_recomputeWear {slot : Fin 32} {c : CellId} (h : Beside r s) : Beside r (recomputeWear slot c s) := by
  unfold recomputeWear; dsimp -proj only
  repeat' with_reducible first
    | exact h | refine beside_raise ?_ | refine beside_setWear ?_ | split

theorem beside_hourWear {slot : Fin 32} (h : Beside r s) : Beside r (hourWear s slot) := by
  unfold hourWear
  repeat' with_reducible first
    | exact h | refine beside_recomputeWear ?_ | split

theorem beside_loadWear {slot : Fin 32} (h : Beside r s) : Beside r (loadWear s slot) := by
  unfold loadWear
  repeat' with_reducible first
    | exact h | refine beside_setWear ?_

theorem beside_requestCounter {same : QJob → Bool} {job : StoreJob} {v : Nat} {port hold : Bool}
    (e : requestCounter same job v port hold s = some t) (h : Beside r s) : Beside r t := by
  unfold requestCounter at e
  repeat' split at e
  all_goals first | (cases e; exact beside_setQueue h) | cases e

theorem beside_requestHigh {slot : Fin 32} {c : CellId} {gen v : Nat} {port hold : Bool}
    (e : requestHigh slot c gen v port hold s = some t) (h : Beside r s) : Beside r t := beside_requestCounter e h

theorem beside_requestReserve {slot : Fin 32} {c : CellId} {gen v : Nat} {port : Bool}
    (e : requestReserve slot c gen v port s = some t) (h : Beside r s) : Beside r t := beside_requestCounter e h

/-- A job called for by mark leaves what the array says of its slot. -/
theorem markedJob_core {slot : Fin 32} {x : StoreJob × SlotImg} (e : markedJob s slot = some x) :
    slotCore x.2 = slotCore (slotOf s slot) ∧ ((slotOf s slot).quarantined = true → x.2.quarantined = true) := by
  unfold markedJob at e
  dsimp only at e
  repeat' split at e
  all_goals first | (cases e; exact ⟨rfl, id⟩) | (cases e; done) | skip
  all_goals (rename_i e'; repeat' split at e'
             all_goals first | (cases e'; cases e; exact ⟨rfl, id⟩) | cases e')

theorem beside_queueMarked {slot : Fin 32} (h : Beside r s) : Beside r (queueMarked s slot) := by
  unfold queueMarked
  split
  · exact h
  · split
    · exact beside_enqueue (beside_setSlot (markedJob_core ‹_›).1 (markedJob_core ‹_›).2 h)
    · exact h

theorem beside_queueMarks {slot : Fin 32} (h : Beside r s) : Beside r (queueMarks s slot) := by
  unfold queueMarks
  repeat' with_reducible first
    | exact h | refine beside_queueMarked ?_ | split

theorem beside_markActivation {slot : Fin 32} (h : Beside r s) : Beside r (markActivation s slot) := by
  unfold markActivation; dsimp -proj only
  repeat' with_reducible first
    | exact h | refine beside_setSlot rfl id ?_ | split

theorem beside_markOverlap {slot : Fin 32} (h : Beside r s) : Beside r (markOverlap s slot) := by
  unfold markOverlap; dsimp -proj only
  repeat' with_reducible first
    | exact h | refine beside_setSlot rfl id ?_ | split

theorem beside_examineSlot {slot : Fin 32} (h : Beside r s) : Beside r (examineSlot s slot) := by
  unfold examineSlot
  repeat' with_reducible first
    | exact h | refine beside_queueMarks ?_ | refine beside_markActivation ?_ | refine beside_markOverlap ?_

theorem beside_graceAccept {slot : Fin 32} {gen : Nat} (h : Beside r s) : Beside r (graceAccept slot gen s) := by
  unfold graceAccept; dsimp -proj only
  repeat' with_reducible first
    | exact h | refine beside_setSlot rfl id ?_ | refine beside_queueMarks ?_ | split

theorem beside_requestHour (h : Beside r s) : Beside r (requestHour s) := by
  unfold requestHour; dsimp -proj only
  repeat' with_reducible first
    | exact h | refine beside_enqueue ?_ | split
    | refine beside_writer ?_

/-! ### The cache -/

theorem beside_placeFilling {line : Requester} {e : Entry} (h : Beside r s) : Beside r (placeFilling line e s) :=
  beside_place (beside_cache _ h)

theorem beside_makePlace (e : makePlace s = some t) (h : Beside r s) : Beside r t := by
  unfold makePlace at e
  repeat' split at e
  · cases e
    exact h
  · cases e
  · obtain ⟨u, hu, rfl⟩ := Option.map_eq_some_iff.1 e
    exact beside_removeEntry (beside_requestHigh hu h)
  · cases e
    exact beside_removeEntry h

theorem beside_beginFill {q : Requester} {slot : Fin 32} {c : CellId} {gen : Nat} (h : Beside r s) :
    Beside r (beginFill q slot c gen s) := by
  unfold beginFill
  split
  · exact beside_placeFilling (beside_makePlace ‹_› h)
  · exact beside_cache _ h

theorem beside_takeHit {q : Requester} {e : Entry} (h : Beside r s) : Beside r (takeHit q e s) := beside_cache _ h

theorem beside_askCache {q : Requester} {slot : Fin 32} {c : CellId} {gen : Nat} {a : Ask}
    (e : askCache q slot c gen s = (a, t)) (h : Beside r s) : Beside r t := by
  unfold askCache at e
  repeat' split at e
  all_goals injection e with _ e
  all_goals subst e
  all_goals first
    | with_reducible exact h | exact beside_updEntry h | exact beside_takeHit h | exact beside_beginFill h
    | exact beside_cache _ h

theorem beside_clearUnused {slot : Fin 32} {c : CellId} (h : Beside r s) : Beside r (clearUnused slot c s) := by
  unfold clearUnused; dsimp -proj only
  refine beside_setSlot (slotCore_setCell ?_) (fun x => setCell_quarantined.trans x) h
  rw [Option.map_map]
  rfl

theorem beside_makeReady {key : List Byte} {e : Entry} (h : Beside r s) : Beside r (makeReady key e s) := by
  unfold makeReady; dsimp -proj only
  split
  · exact beside_clearUnused (beside_updEntry h)
  · exact beside_updEntry h

theorem beside_markFlush {p : Entry → Bool} (h : Beside r s) : Beside r (markFlush p s) := beside_cache _ h

theorem beside_flushOne {e : Entry} (he : flushOne s e = some t) (h : Beside r s) : Beside r t := by
  unfold flushOne at he
  split at he
  · obtain ⟨u, hu, rfl⟩ := Option.map_eq_some_iff.1 he
    exact beside_updEntry (beside_requestHigh hu h)
  · cases he

theorem beside_flushRequests (h : Beside r s) : Beside r (flushRequests s) := by
  unfold flushRequests
  split
  · refine beside_foldl (fun u e => ?_) _ h
    cases he : flushOne u e with
    | none => exact beside_refl u
    | some t => exact beside_flushOne he (beside_refl u)
  · exact h

/-! ### Frame commands and ACTIVATE -/

theorem beside_joinReserve {slot : Fin 32} {c : CellId} (h : Beside r s) : Beside r (joinReserve slot c s) :=
  beside_tasks (fun _ => rfl) h

theorem beside_setPending {slot : Fin 32} {gen : Nat} {b : Bool} (h : Beside r s) :
    Beside r (setPending slot gen b s) := by
  unfold setPending
  repeat' with_reducible first
    | exact h | refine beside_updEntry ?_

theorem beside_protectReserve {op : ProtectOp} {e : Entry} {x : CellImg} (h : Beside r s) :
    Beside r (protectReserve op e x s) := by
  unfold protectReserve
  repeat' with_reducible first
    | exact h | refine beside_setExec ?_ | refine beside_requestReserve ‹_› ?_ | refine beside_joinReserve ?_
    | refine beside_setPending ?_ | split

theorem beside_earlyReserve {op : ProtectOp} (h : Beside r s) : Beside r (earlyReserve op s) := by
  unfold earlyReserve
  repeat' with_reducible first
    | exact h | refine beside_requestReserve ‹_› ?_ | refine beside_setPending ?_ | split

theorem beside_giveValue {op : ProtectOp} {key : List Byte} {n : Nat} (h : Beside r s) :
    Beside r (giveValue op key n s) := by
  unfold giveValue; dsimp -proj only
  repeat' with_reducible first
    | exact h | refine beside_setExec ?_ | refine beside_updEntry ?_ | refine beside_place ?_
    | refine beside_recomputeWear ?_ | refine beside_earlyReserve ?_

theorem beside_takeValue {op : ProtectOp} (h : Beside r s) : Beside r (takeValue op s) := by
  unfold takeValue
  repeat' with_reducible first
    | exact h | refine beside_finish ?_ | refine beside_protectReserve ?_ | refine beside_giveValue ?_ | split

theorem beside_protectReady {op : ProtectOp} (h : Beside r s) : Beside r (protectReady op s) := by
  unfold protectReady
  repeat' with_reducible first
    | exact h | refine beside_finish ?_ | refine beside_takeValue ?_ | split

theorem beside_runProtect {q : ProtectReq} (h : Beside r s) : Beside r (runProtect q s) := by
  unfold runProtect; dsimp -proj only
  repeat' with_reducible first
    | exact h | refine beside_setExec ?_ | refine beside_respond ?_ | refine beside_askCache ‹_› ?_
    | refine beside_protectReady ?_ | split

theorem beside_protectEnd {op : ProtectOp} {counter : Nat} {cls : WearClass} {cipher tag : List Byte} (h : Beside r s) :
    Beside r (protectEnd op counter cls cipher tag s) := by
  unfold protectEnd
  repeat' with_reducible first
    | exact h | refine beside_finish ?_ | split

theorem beside_protectGone {op : ProtectOp} (h : Beside r s) : Beside r (protectGone op s) := by
  unfold protectGone
  repeat' with_reducible first
    | exact h | refine beside_finish ?_ | split

theorem beside_placeUnprotect {op : UnprotectOp} {key : List Byte} (h : Beside r s) :
    Beside r (placeUnprotect op key s) := by
  unfold placeUnprotect
  repeat' with_reducible first
    | exact h | refine beside_setExec ?_ | refine beside_place ?_

theorem beside_runTrials {op : UnprotectOp} {ts : List Trial} (h : Beside r s) : Beside r (runTrials op ts s) := by
  induction ts generalizing op s with
  | nil => exact beside_finish h
  | cons t rest ih =>
    unfold runTrials; dsimp -proj only
    repeat' with_reducible first
      | exact h | refine ih ?_ | refine beside_askCache ‹_› ?_ | refine beside_finish ?_ | refine beside_placeUnprotect ?_
      | refine beside_releasePins ?_ | refine beside_setExec ?_ | split

theorem beside_unprotectReady {op : UnprotectOp} (h : Beside r s) : Beside r (unprotectReady op s) := by
  unfold unprotectReady
  repeat' with_reducible first
    | exact h | refine beside_placeUnprotect ?_ | refine beside_runTrials ?_ | split

theorem beside_runUnprotect {q : UnprotectReq} (h : Beside r s) : Beside r (runUnprotect q s) := by
  unfold runUnprotect
  repeat' with_reducible first
    | exact h | refine beside_respond ?_ | refine beside_runTrials ?_ | split

theorem beside_waitThrough {op : UnprotectOp} (h : Beside r s) : Beside r (waitThrough op s) := by
  unfold waitThrough
  repeat' with_reducible first
    | exact h | refine beside_setExec ?_ | refine beside_updEntry ?_

theorem beside_requestThrough {op : UnprotectOp} (h : Beside r s) : Beside r (requestThrough op s) := by
  unfold requestThrough
  repeat' with_reducible first
    | exact h | refine beside_setExec ?_ | refine beside_waitThrough ?_ | refine beside_requestHigh ‹_› ?_ | split

theorem beside_acceptFrame {op : UnprotectOp} (h : Beside r s) : Beside r (acceptFrame op s) := by
  unfold acceptFrame
  repeat' with_reducible first
    | exact h | refine beside_updEntry ?_ | refine beside_finish ?_ | refine beside_graceAccept ?_
    | refine beside_requestThrough ?_ | split

theorem beside_unprotectEnd {op : UnprotectOp} {plain : Option (List Byte)} (h : Beside r s) :
    Beside r (unprotectEnd op plain s) := by
  unfold unprotectEnd
  repeat' with_reducible first
    | exact h | refine beside_finish ?_ | refine beside_runTrials ?_ | refine beside_acceptFrame ?_ | split

theorem beside_unprotectHighEnd {op : UnprotectOp} (h : Beside r s) : Beside r (unprotectHighEnd op s) := by
  unfold unprotectHighEnd
  repeat' with_reducible first
    | exact h | refine beside_finish ?_ | split

theorem beside_activateReady {op : ActivateOp} (h : Beside r s) : Beside r (activateReady op s) := by
  unfold activateReady
  repeat' with_reducible first
    | exact h | refine beside_setExec ?_ | refine beside_place ?_ | refine beside_finish ?_ | split

theorem beside_runActivate {q : ActivateReq} (h : Beside r s) : Beside r (runActivate q s) := by
  unfold runActivate; dsimp -proj only
  repeat' with_reducible first
    | exact h | refine beside_setExec ?_ | refine beside_respond ?_ | refine beside_askCache ‹_› ?_
    | refine beside_activateReady ?_ | split

theorem beside_requestActivate {op : ActivateOp} (h : Beside r s) : Beside r (requestActivate op s) := by
  unfold requestActivate
  split
  · exact beside_setExec (beside_enqueue h)
  · exact beside_setExec h

theorem beside_tokenEnd {op : ActivateOp} {pass : Bool} (h : Beside r s) : Beside r (tokenEnd op pass s) := by
  unfold tokenEnd
  repeat' with_reducible first
    | exact h | refine beside_finish ?_ | refine beside_requestActivate ?_ | split

theorem beside_portFilled (h : Beside r s) : Beside r (portFilled s) := by
  unfold portFilled
  repeat' with_reducible first
    | exact h | refine beside_protectReady ?_ | refine beside_unprotectReady ?_ | refine beside_activateReady ?_
    | split

theorem beside_portRefused {c : Code} (h : Beside r s) : Beside r (portRefused c s) := by
  unfold portRefused
  repeat' with_reducible first
    | exact h | refine beside_finish ?_ | refine beside_runTrials ?_ | split

theorem beside_withdrawPort (h : Beside r s) : Beside r (withdrawPort s) := by
  unfold withdrawPort
  repeat' with_reducible first
    | exact h | refine beside_setLine ?_

theorem beside_protectCause {op : ProtectOp} {w : Withhold} (h : Beside r s) : Beside r (protectCause op w s) := by
  unfold protectCause
  repeat' with_reducible first
    | exact h | refine beside_finish ?_ | refine beside_withdrawPort ?_ | split

theorem beside_unprotectCause {op : UnprotectOp} {w : Withhold} (h : Beside r s) : Beside r (unprotectCause op w s) := by
  unfold unprotectCause
  repeat' with_reducible first
    | exact h | refine beside_finish ?_ | refine beside_runTrials ?_ | refine beside_withdrawPort ?_ | split

theorem beside_activateCaused {op : ActivateOp} {w : Withhold} (h : Beside r s) : Beside r (activateCaused op w s) := by
  unfold activateCaused
  repeat' with_reducible first
    | exact h | refine beside_finish ?_ | refine beside_withdrawPort ?_ | split

theorem beside_portReact (h : Beside r s) : Beside r (portReact s) := by
  unfold portReact
  repeat' with_reducible first
    | exact h | refine beside_protectCause ?_ | refine beside_unprotectCause ?_ | refine beside_activateCaused ?_
    | split

theorem beside_portJobGone (h : Beside r s) : Beside r (portJobGone s) := by
  unfold portJobGone
  repeat' with_reducible first
    | exact h | refine beside_finish ?_ | refine beside_protectGone ?_ | refine beside_unprotectHighEnd ?_ | split

theorem beside_portJobFailed (h : Beside r s) : Beside r (portJobFailed s) := by
  unfold portJobFailed
  repeat' with_reducible first
    | exact h | refine beside_finish ?_ | split

theorem beside_portCounterDone (h : Beside r s) : Beside r (portCounterDone s) := by
  unfold portCounterDone
  repeat' with_reducible first
    | exact h | refine beside_takeValue ?_ | refine beside_protectGone ?_ | refine beside_unprotectHighEnd ?_ | split

theorem beside_portRoom (e : portRoom s = some t) (h : Beside r s) : Beside r t := by
  unfold portRoom at e
  split at e
  · split at e
    · split at e
      · cases e
      · obtain ⟨u, hu, rfl⟩ := Option.map_eq_some_iff.1 e
        exact beside_setExec (beside_setPending (beside_requestReserve hu h))
    · cases e
  · split at e
    · obtain ⟨u, hu, rfl⟩ := Option.map_eq_some_iff.1 e
      exact beside_waitThrough (beside_requestHigh hu h)
    · cases e
  · split at e
    · cases e
      exact beside_requestActivate h
    · cases e
  all_goals cases e

theorem beside_portSettle (h : Beside r s) : Beside r (portSettle s) := by
  unfold portSettle
  repeat' with_reducible first
    | exact h | refine beside_finish ?_ | split

end Sys2Proof.Machine
end

