-- ==== Sys2Proof/Laws/BesideRest.lean ====
section
/-! SUPPORT. What the operations of the intake, the Renewal Engine, the port and the clock leave untouched. -/

namespace Sys2Proof.Machine

variable {r s t : State}

/-! ### Contexts and verification -/

theorem beside_ctxFail {i : Fin 2} {c : Code} (h : Beside r s) : Beside r (ctxFail i c s) := by
  unfold ctxFail; dsimp -proj only
  repeat' with_reducible first
    | exact h | refine beside_raise ?_ | refine beside_setCtx ?_

theorem beside_ctxIdle {i : Fin 2} (h : Beside r s) : Beside r (ctxIdle i s) := beside_renewal _ h

theorem beside_leaveQueue {i : Fin 2} (h : Beside r s) : Beside r (leaveQueue i s) := beside_renewal _ h

theorem beside_leaveStoring {i : Fin 2} (h : Beside r s) : Beside r (leaveStoring i s) := beside_renewal _ h

theorem beside_unlinkJobs {i : Fin 2} (h : Beside r s) : Beside r (unlinkJobs i s) :=
  beside_tasks (q := s.writer.queue) (fun _ => rfl) h

theorem beside_removeCtxJobs {i : Fin 2} (h : Beside r s) : Beside r (removeCtxJobs i s) := by
  unfold removeCtxJobs
  repeat' with_reducible first
    | exact h | refine beside_setQueue ?_

theorem beside_failStoring {i : Fin 2} {c : Code} (h : Beside r s) : Beside r (failStoring i c s) := by
  unfold failStoring
  repeat' with_reducible first
    | exact h | refine beside_ctxFail ?_ | refine beside_leaveStoring ?_ | refine beside_unlinkJobs ?_
    | refine beside_removeCtxJobs ?_

theorem beside_ctxDone {i : Fin 2} (h : Beside r s) : Beside r (ctxDone i s) := by
  unfold ctxDone; dsimp -proj only
  repeat' with_reducible first
    | exact h | refine beside_raise ?_ | refine beside_setCtx ?_ | refine beside_leaveStoring ?_

theorem beside_ctxJobDone {i : Fin 2} (h : Beside r s) : Beside r (ctxJobDone i s) := by
  unfold ctxJobDone; dsimp -proj only
  repeat' with_reducible first
    | exact h | refine beside_setCtx ?_ | refine beside_ctxDone ?_ | split

theorem beside_ctxJobFailed {i : Fin 2} {c : Code} (h : Beside r s) : Beside r (ctxJobFailed i c s) := by
  unfold ctxJobFailed
  repeat' with_reducible first
    | exact h | refine beside_failStoring ?_ | split

theorem beside_withdrawFill {slot : Fin 32} {c : CellId} {gen : Nat} (h : Beside r s) :
    Beside r (withdrawFill slot c gen s) := by
  unfold withdrawFill
  repeat' with_reducible first
    | exact h | refine beside_removeEntry ?_ | refine beside_setLine ?_ | split

theorem beside_withdrawRenewal (h : Beside r s) : Beside r (withdrawRenewal s) := by
  unfold withdrawRenewal
  repeat' with_reducible first
    | exact h | refine beside_setLine ?_ | refine beside_withdrawFill ?_ | split

theorem beside_orphanRenewal (h : Beside r s) : Beside r (orphanRenewal s) := by
  unfold orphanRenewal
  repeat' split
  all_goals first | with_reducible exact h | exact beside_engine _ h

theorem beside_leaveWaits (h : Beside r s) : Beside r (leaveWaits s) := beside_cache _ h

theorem beside_endVerif (h : Beside r s) : Beside r (endVerif s) :=
  beside_renewal _ (beside_releasePins (beside_leaveWaits (beside_orphanRenewal (beside_withdrawRenewal h))))

theorem beside_failVerif {c : Code} (h : Beside r s) : Beside r (failVerif c s) := by
  unfold failVerif
  repeat' with_reducible first
    | exact h | refine beside_ctxFail ?_ | refine beside_endVerif ?_ | split

theorem beside_dropVerif (h : Beside r s) : Beside r (dropVerif s) := by
  unfold dropVerif
  repeat' with_reducible first
    | exact h | refine beside_ctxIdle ?_ | refine beside_endVerif ?_ | split

theorem beside_placeTagCheck {v : Verif} (h : Beside r s) : Beside r (placeTagCheck v s) := by
  unfold placeTagCheck
  repeat' with_reducible first
    | exact h | refine beside_place ?_ | refine beside_setVerif ?_ | refine beside_failVerif ?_ | split

theorem beside_placeInstallReceipt {v : Verif} {plan : List StoreJob} {key : List Byte} (h : Beside r s) :
    Beside r (placeInstallReceipt v plan key s) := by
  unfold placeInstallReceipt
  repeat' with_reducible first
    | exact h | refine beside_place ?_ | refine beside_setVerif ?_

theorem beside_placeReceipt {v : Verif} {plan : List StoreJob} (h : Beside r s) : Beside r (placeReceipt v plan s) := by
  unfold placeReceipt
  repeat' with_reducible first
    | exact h | refine beside_place ?_ | refine beside_setVerif ?_ | refine beside_failVerif ?_ | split

theorem beside_placeKeyUnwrap {v : Verif} {i : InstallBody} (h : Beside r s) : Beside r (placeKeyUnwrap v i s) := by
  unfold placeKeyUnwrap
  repeat' with_reducible first
    | exact h | refine beside_place ?_ | refine beside_setVerif ?_ | refine beside_failVerif ?_ | split

theorem beside_installKek {v : Verif} {i : InstallBody} (h : Beside r s) : Beside r (installKek v i s) := by
  unfold installKek; dsimp -proj only
  repeat' with_reducible first
    | exact h | refine beside_setVerif ?_ | refine beside_askCache ‹_› ?_ | refine beside_failVerif ?_
    | refine beside_placeKeyUnwrap ?_ | split

theorem beside_recordTarget {i : Fin 2} {slot : Fin 32} {gen : Nat} (h : Beside r s) : Beside r (recordTarget i slot gen s) := beside_renewal _ h

theorem beside_checkInstall {v : Verif} {i : InstallBody} (h : Beside r s) : Beside r (checkInstall v i s) := by
  unfold checkInstall; dsimp -proj only
  repeat' with_reducible first
    | exact h | refine beside_failVerif ?_ | refine beside_installKek ?_ | refine beside_recordTarget ?_ | split

theorem beside_kindChecks {v : Verif} (h : Beside r s) : Beside r (kindChecks v s) := by
  unfold kindChecks
  repeat' with_reducible first
    | exact h | refine beside_failVerif ?_ | refine beside_placeReceipt ?_ | refine beside_checkInstall ?_ | split

theorem beside_verifyFrom {v : Verif} {c : CellId} (h : Beside r s) : Beside r (verifyFrom v c s) := by
  unfold verifyFrom
  repeat' with_reducible first
    | exact h | refine beside_setVerif ?_ | refine beside_askCache ‹_› ?_ | refine beside_ctxFail ?_
    | refine beside_failVerif ?_ | refine beside_placeTagCheck ?_ | split

theorem beside_verifySigner {i : Fin 2} {b : Bundle} (h : Beside r s) : Beside r (verifySigner i b s) := by
  unfold verifySigner
  repeat' with_reducible first
    | exact h | refine beside_ctxFail ?_ | refine beside_verifyFrom ?_ | split

theorem beside_beginVerification {i : Fin 2} (h : Beside r s) : Beside r (beginVerification i s) := by
  unfold beginVerification; dsimp -proj only
  repeat' with_reducible first
    | exact h | refine beside_setCtx ?_ | refine beside_ctxFail ?_ | refine beside_leaveQueue ?_
    | refine beside_verifySigner ?_ | split

theorem beside_unwrapEnd {v : Verif} {key : Option (List Byte)} (h : Beside r s) :
    Beside r (unwrapEnd v key s) := by
  unfold unwrapEnd
  repeat' with_reducible first
    | exact h | refine beside_failVerif ?_ | refine beside_placeInstallReceipt ?_ | split

theorem beside_queueStoring (e : queueStoring s = some t) (h : Beside r s) : Beside r t := by
  unfold queueStoring at e
  repeat' split at e
  all_goals first | (cases e; exact beside_setCtx (beside_enqueue h)) | cases e

theorem beside_queueAllStoring {n : Nat} (h : Beside r s) : Beside r (queueAllStoring n s) := by
  induction n generalizing s with
  | zero => exact h
  | succ n ih =>
    unfold queueAllStoring
    repeat' with_reducible first
      | exact h | refine ih ?_ | refine beside_queueStoring ‹_› ?_ | split

theorem beside_becomeStoring {v : Verif} {receipt : List Byte} (h : Beside r s) : Beside r (becomeStoring v receipt s) :=
  beside_queueAllStoring (beside_renewal _ (beside_setCtx (beside_endVerif h)))

theorem beside_renewalFilled (h : Beside r s) : Beside r (renewalFilled s) := by
  unfold renewalFilled
  repeat' with_reducible first
    | exact h | refine beside_dropVerif ?_ | refine beside_placeTagCheck ?_ | refine beside_placeKeyUnwrap ?_ | split

theorem beside_renewalRefused (h : Beside r s) : Beside r (renewalRefused s) := by
  unfold renewalRefused
  repeat' with_reducible first
    | exact h | refine beside_failVerif ?_ | refine beside_dropVerif ?_ | split

theorem beside_renewalReact (h : Beside r s) : Beside r (renewalReact s) := by
  unfold renewalReact
  repeat' with_reducible first
    | exact h | refine beside_failVerif ?_ | split

/-! ### Causes, fills and room -/

theorem beside_tellBoth {p q : State → State} (hp : ∀ u, Beside r u → Beside r (p u)) (hq : ∀ u, Beside r u → Beside r (q u))
    (h : Beside r s) : Beside r (tellBoth p q s) := by
  unfold tellBoth
  split
  · exact hp _ (hq _ h)
  · exact hq _ (hp _ h)

theorem beside_tellHolders {a b : Bool} {p q : State → State} (hp : ∀ u, Beside r u → Beside r (p u))
    (hq : ∀ u, Beside r u → Beside r (q u)) (h : Beside r s) : Beside r (tellHolders a b p q s) := by
  refine beside_tellBoth (fun u hu => ?_) (fun u hu => ?_) h
  · split
    · exact hp u hu
    · exact hu
  · split
    · exact hq u hu
    · exact hu

/-- The holders of a fill are told that it ended without an entry (R82). -/
theorem beside_tellRefused {a b : Bool} {c : Code} (h : Beside r s) :
    Beside r (tellHolders a b (portRefused c) renewalRefused s) :=
  beside_tellHolders (fun _ => beside_portRefused) (fun _ => beside_renewalRefused) h

theorem beside_dropFillRequest {e : Entry} (h : Beside r s) : Beside r (dropFillRequest e s) := by
  unfold dropFillRequest; dsimp -proj only
  repeat' with_reducible first
    | exact h | refine beside_setLine ?_ | split

theorem beside_withdrawCaused {e : Entry} (h : Beside r s) : Beside r (withdrawCaused s e) := by
  unfold withdrawCaused
  repeat' with_reducible first
    | exact h | refine beside_tellRefused ?_ | refine beside_removeEntry ?_ | refine beside_dropFillRequest ?_ | split

theorem beside_endWaits {w : Withhold} {p : Fin 32 → Nat → Bool} (h : Beside r s) : Beside r (endWaits w p s) :=
  beside_tellRefused (beside_cache _ h)

theorem beside_causes {w : Withhold} {p : Fin 32 → Nat → Bool} (h : Beside r s) : Beside r (causes w p s) :=
  beside_renewalReact (beside_portReact (beside_foldl (fun _ _ => beside_withdrawCaused (beside_refl _)) _
    (beside_endWaits (beside_giveCause h))))

theorem beside_quarantineSlot {slot : Fin 32} (h : Beside r s) : Beside r (quarantineSlot slot s) :=
  beside_causes (beside_raise (beside_setSlot rfl (fun _ => rfl) h))

theorem beside_removeCounterJobs {p : QJob → Bool} (h : Beside r s) : Beside r (removeCounterJobs p s) := by
  unfold removeCounterJobs; dsimp -proj only
  split
  · exact beside_portJobGone (beside_setQueue h)
  · exact beside_setQueue h

theorem beside_genLeaves {slot : Fin 32} {c : CellId} {gen : Nat} (h : Beside r s) :
    Beside r (genLeaves slot c gen s) := by
  unfold genLeaves
  repeat' with_reducible first
    | exact h | refine beside_causes ?_ | refine beside_removeCounterJobs ?_

theorem beside_slotErased {slot : Fin 32} (h : Beside r s) : Beside r (slotErased slot s) := by
  unfold slotErased
  repeat' with_reducible first
    | exact h | refine beside_causes ?_ | refine beside_removeCounterJobs ?_

theorem beside_fillEnd {e : Entry} {key : Option (List Byte)} (h : Beside r s) : Beside r (fillEnd e key s) := by
  unfold fillEnd
  split
  · exact beside_tellRefused (beside_removeEntry h)
  · split
    · exact beside_tellHolders (fun _ => beside_portFilled) (fun _ => beside_renewalFilled) (beside_makeReady h)
    · exact beside_tellRefused (beside_quarantineSlot (beside_removeEntry h))

theorem beside_serveWait {w : WaitFill} (e : serveWait s w = some t) (h : Beside r s) : Beside r t := by
  obtain ⟨u, hu, rfl⟩ := Option.map_eq_some_iff.1 e
  exact beside_placeFilling (beside_cache _ (beside_makePlace hu h))

theorem beside_serveWaits {p : WaitFill → Bool} (e : serveWaits p s = some t) (h : Beside r s) : Beside r t := by
  unfold serveWaits at e
  split at e
  · cases e
  · exact beside_serveWait e h

theorem beside_serveFlush (e : serveFlush s = some t) (h : Beside r s) : Beside r t := by
  obtain ⟨x, _, hx⟩ := List.exists_of_findSome?_eq_some e
  exact beside_flushOne hx h

theorem beside_serveMarks (e : serveMarks s = some t) (h : Beside r s) : Beside r t := by
  unfold serveMarks at e
  split at e
  · obtain ⟨i, _, hi⟩ := List.exists_of_findSome?_eq_some e
    obtain ⟨x, hx, rfl⟩ := Option.map_eq_some_iff.1 hi
    exact beside_enqueue (beside_setSlot (markedJob_core hx).1 (markedJob_core hx).2 h)
  · cases e

theorem beside_serveHour (e : serveHour s = some t) (h : Beside r s) : Beside r t := by
  unfold serveHour at e
  split at e
  · split at e
    · cases e
      exact beside_writer h
    · split at e
      · cases e
        exact beside_requestHour h
      · cases e
  · cases e

theorem beside_giveOne (e : giveOne s = some t) (h : Beside r s) : Beside r t := by
  unfold giveOne at e
  rcases orElse_some e with e | e
  · exact beside_portRoom e h
  rcases orElse_some e with e | e
  · exact beside_serveWaits e h
  rcases orElse_some e with e | e
  · exact beside_serveWaits e h
  rcases orElse_some e with e | e
  · exact beside_serveFlush e h
  rcases orElse_some e with e | e
  · exact beside_serveMarks e h
  rcases orElse_some e with e | e
  · exact beside_queueStoring e h
  · exact beside_serveHour e h

theorem beside_giveAll {n : Nat} (h : Beside r s) : Beside r (giveAll n s) := by
  induction n generalizing s with
  | zero => exact h
  | succ n ih =>
    unfold giveAll
    split
    · exact h
    · exact ih (beside_giveOne ‹_› h)

/-! ### Parts of the tamper event and of the warning -/

theorem beside_tamperCtx {i : Fin 2} (h : Beside r s) : Beside r (tamperCtx s i) := by
  unfold tamperCtx
  repeat' with_reducible first
    | exact h | refine beside_ctxFail ?_ | refine beside_leaveQueue ?_ | refine beside_failStoring ?_
    | refine beside_failVerif ?_ | refine beside_dropVerif ?_ | split

theorem beside_portVoided (h : Beside r s) : Beside r (portVoided s) := by
  unfold portVoided
  repeat' with_reducible first
    | exact h | refine beside_finish ?_ | split

theorem beside_voidJobs {items : List (Fin 32 × TamperAct)} (h : Beside r s) : Beside r (voidJobs items s) := by
  unfold voidJobs; dsimp -proj only
  split
  · exact beside_portVoided (beside_setQueue h)
  · exact beside_setQueue h

theorem beside_dropJob {q : QJob} {c : Code} (h : Beside r s) : Beside r (dropJob q c s) := by
  unfold dropJob; dsimp -proj only
  repeat' with_reducible first
    | exact h | refine beside_portJobGone ?_ | refine beside_ctxJobFailed ?_ | split

theorem beside_loadMarks {slot : Fin 32} (h : Beside r s) : Beside r (loadMarks s slot) := by
  unfold loadMarks; dsimp -proj only
  split
  · exact h
  · exact beside_setSlot rfl id h

theorem beside_fixBudget (h : Beside r s) : Beside r (fixBudget s) := by
  unfold fixBudget
  split
  · exact beside_cache (s := { s with writer := { s.writer with
        flush := (addEntries s.cache.entries (selectHighs 4 s.writer.queue).1).1
        queue := (selectHighs 4 s.writer.queue).2 } }) _ (beside_writer h)
  · exact h

theorem beside_dropAtWarning {q : QJob} (h : Beside r s) : Beside r (dropAtWarning s q) := by
  unfold dropAtWarning; dsimp -proj only
  repeat' split
  all_goals first
    | with_reducible exact h | exact beside_setPending h | exact beside_setSlot rfl id h | exact beside_writer h
    | exact beside_updEntry h

theorem beside_dropQueue (h : Beside r s) : Beside r (dropQueue s) :=
  beside_foldl (fun _ _ => beside_dropAtWarning (beside_refl _)) _ (beside_setQueue h)

theorem beside_powerFailCtx {i : Fin 2} (h : Beside r s) : Beside r (powerFailCtx s i) := by
  unfold powerFailCtx
  repeat' with_reducible first
    | exact h | refine beside_ctxFail ?_ | refine beside_leaveQueue ?_ | refine beside_failStoring ?_
    | refine beside_failVerif ?_ | refine beside_dropVerif ?_ | split

theorem beside_dirtyWaiter {op : UnprotectOp} (h : Beside r s) : Beside r (dirtyWaiter op s) := by
  unfold dirtyWaiter
  repeat' with_reducible first
    | exact h | refine beside_updEntry ?_

theorem beside_portAtWarning (h : Beside r s) : Beside r (portAtWarning s) := by
  unfold portAtWarning; dsimp -proj only
  repeat' with_reducible first
    | exact h | refine beside_finish ?_ | refine beside_dirtyWaiter ?_ | refine beside_setPending ?_ | split

theorem beside_hourBoundary (h : Beside r s) : Beside r (hourBoundary s) := by
  have hc : Beside r { s with clock := ⟨0, s.clock.hour + 1⟩ } :=
    ⟨h.device, h.warning, h.assocs, h.monitor, h.slots, h.tamper, h.nextStrip, h.writes, h.quarantined, h.keys⟩
  unfold hourBoundary; dsimp -proj only
  exact beside_requestHour (beside_foldl (fun _ _ => beside_examineSlot (beside_refl _)) _ (beside_flushRequests
    (beside_markFlush (beside_foldl (fun _ _ => beside_hourWear (beside_refl _)) _ hc))))

theorem beside_tick (h : Beside r s) : Beside r (tick s) := by
  unfold tick
  split
  · exact beside_setCtx (beside_setCtx h)
  · exact h

/-! ### The port and its commands -/

theorem beside_endTransfer (h : Beside r s) : Beside r (endTransfer s) := beside_port _ h

theorem beside_beginWrite (h : Beside r s) : Beside r (beginWrite s) := by
  unfold beginWrite
  split <;> exact beside_port _ h

theorem beside_beginTransfer {d : Byte} (h : Beside r s) : Beside r (beginTransfer d s) := by
  unfold beginTransfer
  repeat' split
  all_goals first | exact beside_beginWrite h | exact beside_port _ h

theorem beside_withTransfer {d : Byte} (h : Beside r s) : Beside r (withTransfer d s) := by
  unfold withTransfer
  repeat' with_reducible first
    | exact h | refine beside_beginTransfer ?_ | split

theorem beside_handOver {c : Cmd} {body : List Byte} (h : Beside r s) : Beside r (handOver c body s) := beside_setExec h

theorem beside_endRead {count : Nat} (h : Beside r s) : Beside r (endRead count s) := by
  unfold endRead; dsimp -proj only
  repeat' split
  all_goals first | with_reducible exact h | exact beside_port _ (beside_endTransfer h)

theorem beside_endInvalid {count : Nat} (h : Beside r s) : Beside r (endInvalid count s) := by
  unfold endInvalid; dsimp -proj only
  repeat' split
  all_goals first | with_reducible exact h | exact beside_port _ (beside_endTransfer h)

theorem beside_slotQuery {body : List Byte} (h : Beside r s) : Beside r (slotQuery body s) := by
  unfold slotQuery; dsimp -proj only
  repeat' with_reducible first
    | exact h | refine beside_respond ?_ | split

theorem beside_setCursor {c : Option (Fin 32)} (h : Beside r s) : Beside r (setCursor c s) := beside_port _ h

theorem beside_directoryFirst (h : Beside r s) : Beside r (directoryFirst s) := by
  unfold directoryFirst
  repeat' with_reducible first
    | exact h | refine beside_respond ?_ | refine beside_setCursor ?_ | split

theorem beside_directoryNext (h : Beside r s) : Beside r (directoryNext s) := by
  unfold directoryNext
  repeat' with_reducible first
    | exact h | refine beside_respond ?_ | refine beside_setCursor ?_ | split

theorem beside_associationQuery {body : List Byte} (h : Beside r s) : Beside r (associationQuery body s) := by
  unfold associationQuery; dsimp -proj only
  repeat' with_reducible first
    | exact h | refine beside_respond ?_ | split

theorem beside_onContext {body : List Byte} {run : Fin 2 → State → State} (hr : ∀ i, Beside r (run i s)) (h : Beside r s) :
    Beside r (onContext body run s) := by
  unfold onContext; dsimp -proj only
  repeat' with_reducible first
    | exact beside_respond h | exact hr _ | split

theorem beside_report {c : Code} {i : Fin 2} (h : Beside r s) : Beside r (report c i s) := by
  unfold report
  repeat' with_reducible first
    | exact h | refine beside_respond ?_

theorem beside_renewOpen {total : Nat} {i : Fin 2} (h : Beside r s) : Beside r (renewOpen total i s) := by
  unfold renewOpen
  repeat' with_reducible first
    | exact h | refine beside_setCtx ?_ | refine beside_report ?_ | split

theorem beside_renewPart {seq : Nat} {data : List Byte} {i : Fin 2} (h : Beside r s) :
    Beside r (renewPart seq data i s) := by
  unfold renewPart; dsimp -proj only
  repeat' with_reducible first
    | exact h | refine beside_setCtx ?_ | refine beside_ctxFail ?_ | refine beside_report ?_ | split

theorem beside_renewClose {i : Fin 2} (h : Beside r s) : Beside r (renewClose i s) := by
  unfold renewClose; dsimp -proj only
  repeat' split
  all_goals refine beside_report ?_
  all_goals first | with_reducible exact h | with_reducible exact beside_ctxFail h | exact beside_renewal _ (beside_setCtx h)

theorem beside_renewResult {i : Fin 2} (h : Beside r s) : Beside r (renewResult i s) := by
  unfold renewResult
  repeat' with_reducible first
    | exact h | refine beside_respond ?_ | refine beside_ctxIdle ?_ | split

theorem beside_dropVerifying {i : Fin 2} (h : Beside r s) : Beside r (dropVerifying i s) := by
  unfold dropVerifying; dsimp -proj only
  repeat' with_reducible first
    | exact h | refine beside_setCtx ?_ | refine beside_dropVerif ?_ | split

theorem beside_renewDrop {i : Fin 2} (h : Beside r s) : Beside r (renewDrop i s) := by
  unfold renewDrop
  repeat' with_reducible first
    | exact h | refine beside_respond ?_ | refine beside_ctxIdle ?_ | refine beside_leaveQueue ?_
    | refine beside_dropVerifying ?_ | split

theorem beside_protectBodyRun {body : List Byte} (h : Beside r s) : Beside r (protectBodyRun body s) := by
  unfold protectBodyRun
  repeat' with_reducible first
    | exact h | refine beside_respond ?_ | refine beside_runProtect ?_ | split

theorem beside_unprotectBodyRun {body : List Byte} (h : Beside r s) : Beside r (unprotectBodyRun body s) := by
  unfold unprotectBodyRun
  repeat' with_reducible first
    | exact h | refine beside_respond ?_ | refine beside_runUnprotect ?_ | split

theorem beside_activateBodyRun {body : List Byte} (h : Beside r s) : Beside r (activateBodyRun body s) := by
  unfold activateBodyRun
  repeat' with_reducible first
    | exact h | refine beside_respond ?_ | refine beside_runActivate ?_ | split

theorem beside_runHold (h : Beside r s) : Beside r (runHold s) := by
  unfold runHold
  repeat' with_reducible first
    | exact h | refine beside_setExec ?_ | refine beside_respond ?_ | refine beside_markFlush ?_
    | refine beside_flushRequests ?_ | split

theorem beside_grantNext (h : Beside r s) : Beside r (grantNext s) := by
  unfold grantNext
  repeat' with_reducible first
    | exact h | refine beside_grantTo ?_ | split

theorem beside_endFill {slot : Fin 32} {c : CellId} {gen : Nat} (h : Beside r s) :
    Beside r (endFill slot c gen s) := by
  unfold endFill; dsimp -proj only
  repeat' with_reducible first
    | exact beside_engineFree h | refine beside_fillEnd ?_ | split

theorem beside_endFrameProtect {cipher tag : List Byte} (h : Beside r s) : Beside r (endFrameProtect cipher tag s) := by
  unfold endFrameProtect
  repeat' with_reducible first
    | exact h | refine beside_protectEnd ?_ | split

theorem beside_endFrameUnprotect {plain : Option (List Byte)} (h : Beside r s) :
    Beside r (endFrameUnprotect plain s) := by
  unfold endFrameUnprotect
  repeat' with_reducible first
    | exact h | refine beside_unprotectEnd ?_ | split

theorem beside_endToken {pass : Bool} (h : Beside r s) : Beside r (endToken pass s) := by
  unfold endToken
  repeat' with_reducible first
    | exact h | refine beside_tokenEnd ?_ | split

theorem beside_renewalJobEnd {orphan : Bool} {stage : VerifStage} {go : Verif → State → State}
    (hg : ∀ v, Beside r (go v s)) (h : Beside r s) : Beside r (renewalJobEnd orphan stage go s) := by
  unfold renewalJobEnd
  repeat' with_reducible first
    | exact h | exact hg _ | refine beside_dropVerif ?_ | split

theorem beside_tagEnd {v : Verif} {pass : Bool} (h : Beside r s) : Beside r (tagEnd v pass s) := by
  unfold tagEnd
  repeat' with_reducible first
    | exact h | refine beside_failVerif ?_ | refine beside_kindChecks ?_ | split

end Sys2Proof.Machine
end

