-- ==== Sys2Proof/Laws/EngineEnds.lean ====
section
/-! SUPPORT. What the end of each engine job does, once its inputs decide: one lemma for each end, so that no later proof looks into
the outcome. Stored records open to what they were made of, and nothing else. -/

namespace Sys2Proof.Machine

variable {s : State} {who : Requester} {orphan b : Bool}

/-! ### Stored records -/

/-- A record as the Store Writer stores it is valid (R174). -/
@[simp] theorem validBody_stored (r : GenRecord) : validBody (.gen r.stored) = some r.stored := if_pos rfl

@[simp] theorem validBody_empty : validBody .empty = none := rfl
@[simp] theorem validBody_invalid : validBody .invalid = none := rfl

@[simp] theorem stored_params (r : GenRecord) : r.stored.params = r.params := rfl

/-- What is sealed opens to what was sealed (Table 0-3). -/
@[simp] theorem recover_close (key : List Byte) : Config.rootSeal.recover (Config.rootSeal.close key) = some key :=
  (Config.rootSeal.recover_iff _ _).2 rfl

/-- The fill of a cell that holds a stored record gives the record's key (R81). -/
theorem storedKey_stored {slot : Fin 32} {c : CellId} {r : GenRecord} (h : (storedCell s slot c).body = .gen r.stored) :
    storedKey s slot c = some r.key := by
  simp only [storedKey, h, validBody_stored]
  exact recover_close r.key

/-- The fill of a cell without a valid body gives no key (R82). -/
theorem storedKey_invalid {slot : Fin 32} {c : CellId} (h : validBody (storedCell s slot c).body = none) :
    storedKey s slot c = none := by simp only [storedKey, h]

/-! ### The algorithms -/

/-- A frame that was protected opens under the inputs it was protected with (R97). -/
@[simp] theorem recover_protect (k n h p : List Byte) :
    Config.frames.recover k n h (Config.frames.protect k n h p).1 (Config.frames.protect k n h p).2 = some p :=
  (Config.frames.recover_iff ..).2 rfl

/-- A tag that is not 12 bytes long opens nothing (R97). -/
theorem recover_none_of_length {k n h c t : List Byte} (ht : t.length ≠ 12) : Config.frames.recover k n h c t = none := by
  cases e : Config.frames.recover k n h c t with
  | none => rfl
  | some p =>
    refine absurd ?_ ht
    rw [← Config.frames.tag_length k n h p, (Config.frames.recover_iff ..).1 e]

/-- A wrapped key opens to the key that was wrapped (R97). -/
@[simp] theorem unwrap_wrap (kek key : List Byte) : Config.keyWrap.recover kek (Config.keyWrap.wrap kek key) = some key :=
  (Config.keyWrap.recover_iff ..).2 rfl

/-- What is shorter than 8 bytes is no wrapped key (R97). -/
theorem unwrap_none_of_length {kek w : List Byte} (h : w.length < 8) : Config.keyWrap.recover kek w = none := by
  cases e : Config.keyWrap.recover kek w with
  | none => rfl
  | some k =>
    refine absurd (Config.keyWrap.wrap_length kek k) ?_
    rw [(Config.keyWrap.recover_iff ..).1 e]
    omega

@[simp] theorem cmac_length (key message : List Byte) : (cmac key message).length = 16 := by simp [cmac, bytesOf]

/-- A tag that is not 16 bytes long is no CMAC (R97). -/
theorem ne_cmac_of_length {key message tag : List Byte} (h : tag.length ≠ 16) : tag ≠ cmac key message :=
  fun e => h (e ▸ cmac_length key message)

/-! ### The ends -/

/-- The job in progress ends as its inputs decide (R96). -/
theorem jobEnded_self {g : Granted} (hr : running s = true) (hg : s.engine.job = some g) :
    jobEnded s (jobPasses s g.job) = some g := by simp [jobEnded, jobInHand, hr, hg]

/-- No job ends with the outcome its inputs do not give (R96; log entry 1). -/
theorem jobEnded_other {g : Granted} (hg : s.engine.job = some g) (h : jobPasses s g.job ≠ b) : jobEnded s b = none := by
  cases hr : running s <;> simp [jobEnded, jobInHand, hr, hg, h]

/-- The end of a job with the outcome its inputs do not give changes nothing (R96; log entry 1). -/
theorem exec_end_other {g : Granted} (hg : s.engine.job = some g) (h : jobPasses s g.job ≠ b) :
    exec (.fillUnwrapEnd b) s = .next s ∧ exec (.frameUnprotectEnd b) s = .next s ∧ exec (.tokenCheckEnd b) s = .next s ∧
      exec (.keyUnwrapEnd b) s = .next s ∧ exec (.bundleTagCheckEnd b) s = .next s := by
  have e := jobEnded_other hg h
  refine ⟨?_, ?_, ?_, ?_, ?_⟩ <;>
    simp only [exec, execFillUnwrapEnd, execFrameUnprotectEnd, execTokenCheckEnd, execKeyUnwrapEnd, execBundleTagCheckEnd, e]

/-- A fill ends with the key its cell gives, or without one (R81, R82). -/
theorem exec_fillUnwrapEnd {slot : Fin 32} {c : CellId} {gen : Nat} {key : Option (List Byte)} (hr : running s = true)
    (hg : s.engine.job = some ⟨who, .fill slot c gen, orphan⟩) (hk : storedKey s slot c = key) :
    exec (.fillUnwrapEnd key.isSome) s = settled
      (match findEntry (engineFree s) slot gen with
       | none => engineFree s
       | some e => if e.filling then fillEnd e key (engineFree s) else engineFree s) := by
  subst hk
  have e : jobEnded s (storedKey s slot c).isSome = some ⟨who, .fill slot c gen, orphan⟩ := jobEnded_self hr hg
  simp only [exec, execFillUnwrapEnd, e]
  rfl

/-- A frame protect job ends with the frame of its inputs (R97, R104). -/
theorem exec_frameProtectEnd {key nonce header payload : List Byte} (hr : running s = true)
    (hg : s.engine.job = some ⟨who, .frameProtect key nonce header payload, orphan⟩) :
    exec .frameProtectEnd s = settled (endFrameProtect (Config.frames.protect key nonce header payload).1
      (Config.frames.protect key nonce header payload).2 (engineFree s)) := by
  simp [exec, execFrameProtectEnd, jobInHand, hr, hg]

/-- A frame unprotect job ends with the plaintext that its inputs open to, or without one (R97, R109). -/
theorem exec_frameUnprotectEnd {key nonce header cipher tag : List Byte} {plain : Option (List Byte)} (hr : running s = true)
    (hg : s.engine.job = some ⟨who, .frameUnprotect key nonce header cipher tag, orphan⟩)
    (hp : Config.frames.recover key nonce header cipher tag = plain) :
    exec (.frameUnprotectEnd plain.isSome) s = settled (endFrameUnprotect plain (engineFree s)) := by
  subst hp
  have e : jobEnded s (Config.frames.recover key nonce header cipher tag).isSome = some
    ⟨who, .frameUnprotect key nonce header cipher tag, orphan⟩ := jobEnded_self hr hg
  simp only [exec, execFrameUnprotectEnd, e]

/-- A token check ends as the CMAC of its input says (R97, R157). -/
theorem exec_tokenCheckEnd {key message tag : List Byte} (hr : running s = true)
    (hg : s.engine.job = some ⟨who, .token key message tag, orphan⟩) (hb : (tag == cmac key message) = b) :
    exec (.tokenCheckEnd b) s = settled (endToken b (engineFree s)) := by
  subst hb
  have e : jobEnded s (tag == cmac key message) = some ⟨who, .token key message tag, orphan⟩ := jobEnded_self hr hg
  simp only [exec, execTokenCheckEnd, e]

/-- A key unwrap ends with the key its wrapped key opens to, or without one (R97, R144). -/
theorem exec_keyUnwrapEnd {kek wrapped : List Byte} {key : Option (List Byte)} (hr : running s = true)
    (hg : s.engine.job = some ⟨who, .keyUnwrap kek wrapped, orphan⟩) (hk : Config.keyWrap.recover kek wrapped = key) :
    exec (.keyUnwrapEnd key.isSome) s =
      settled (renewalJobEnd orphan .keyUnwrap (fun v => unwrapEnd v key) (engineFree s)) := by
  subst hk
  have e : jobEnded s (Config.keyWrap.recover kek wrapped).isSome = some ⟨who, .keyUnwrap kek wrapped, orphan⟩ :=
    jobEnded_self hr hg
  simp only [exec, execKeyUnwrapEnd, e]

/-- A bundle tag check ends as the CMAC of the bundle before its tag says (R97, R142). -/
theorem exec_bundleTagCheckEnd {key message tag : List Byte} (hr : running s = true)
    (hg : s.engine.job = some ⟨who, .bundleTag key message tag, orphan⟩) (hb : (tag == cmac key message) = b) :
    exec (.bundleTagCheckEnd b) s = settled (renewalJobEnd orphan .tagCheck (fun v => tagEnd v b) (engineFree s)) := by
  subst hb
  have e : jobEnded s (tag == cmac key message) = some ⟨who, .bundleTag key message tag, orphan⟩ := jobEnded_self hr hg
  simp only [exec, execBundleTagCheckEnd, e]

/-- A receipt ends with the CMAC of its input (R97, R150). -/
theorem exec_receiptEnd {key message : List Byte} (hr : running s = true)
    (hg : s.engine.job = some ⟨who, .receipt key message, orphan⟩) :
    exec .receiptEnd s =
      settled (renewalJobEnd orphan .receipt (fun v => becomeStoring v (cmac key message)) (engineFree s)) := by
  simp [exec, execReceiptEnd, jobInHand, hr, hg]

/-! ### Loading -/

/-- The loader judges a stored cell to hold a generation exactly where it holds one (R187). -/
theorem holdsGen_iff {t : State} {i : Fin 32} {c : CellId} {x : CellImg} :
    HoldsGen t i c x ↔ judgeCell (storedCell t i c) = .holds x := by
  unfold HoldsGen judgeCell
  constructor
  · rintro ⟨b, v, h, hb, hv, hh, rfl⟩
    rw [if_neg (by intro e; rw [e] at hb; cases hb), hb, hv, hh]
  · intro h
    split at h
    · cases h
    · split at h
      · rename_i b v h' hb hv hh
        cases h
        exact ⟨b, v, h', hb, hv, hh, rfl⟩
      · cases h

/-- Both cells of a slot are lost exactly where the loader judges them so (R187). -/
theorem bothLost_iff {t : State} {i : Fin 32} : BothLost t i ↔ ∀ c, judgeCell (storedCell t i c) = .lost := by
  refine forall_congr' fun c => ?_
  simp only [holdsGen_iff]
  cases h : judgeCell (storedCell t i c) with
  | empty => simp [judgeCell] at h ⊢; split at h <;> simp_all
  | lost => refine ⟨fun _ => rfl, fun _ => ⟨fun e => ?_, fun x => nofun⟩⟩; simp [judgeCell, e] at h
  | holds x => simp

/-- The stored cell of manufacture is judged to hold its generation (R187). -/
theorem judgeCell_manufacture :
    judgeCell CellRec.manufacture = .holds ⟨.manufacture, some ⟨1, 0⟩, 256, 0, false, none⟩ := by
  simp [judgeCell, CellRec.manufacture, twoValue]

theorem judgeCell_blank : judgeCell CellRec.blank = .empty := rfl

theorem bodyGen_manufacture : bodyGen CellRec.manufacture = some 1 := by
  simp [bodyGen, CellRec.manufacture, GenParams.manufacture]

/-- The loader builds a slot stored as slots 0 and 1 are at manufacture (R3). -/
theorem loadSlot_manufacture {a : StoreArray} {assocs : Vector AssocImg 8} {i : Fin 32} {r : Role}
    (h : a.slots[i] = SlotRec.manufacture r) : loadSlot a assocs i = SlotImg.manufacture r := by
  simp only [loadSlot, h, SlotRec.manufacture, loadPair, greatestGen, bothLost, bodyGen_manufacture, judgeCell_manufacture]
  rfl

/-- The loader builds a slot stored as the others are at manufacture (R3). -/
theorem loadSlot_blank {a : StoreArray} {assocs : Vector AssocImg 8} {i : Fin 32} (h : a.slots[i] = SlotRec.blank) :
    loadSlot a assocs i = SlotImg.blank := by
  simp only [loadSlot, h]
  rfl

/-- A slot of manufacture gives no activation hour above 0 (R3, R39). -/
theorem slotHours_manufacture (i : Fin 32) : ∀ h ∈ slotHours StoreArray.manufacture.slots[i], h = 0 := by
  match i with
  | 0 => simp [StoreArray.manufacture, slotHours, SlotRec.manufacture, judgeCell_manufacture, judgeCell_blank]
  | 1 => simp [StoreArray.manufacture, slotHours, SlotRec.manufacture, judgeCell_manufacture, judgeCell_blank]
  | ⟨n + 2, h⟩ =>
    have e : StoreArray.manufacture.slots[(⟨n + 2, h⟩ : Fin 32)] = SlotRec.blank := by simp [StoreArray.manufacture]
    rw [e]
    nofun

/-- Loading an array of manufacture gives the part right after reset (R185). -/
theorem runLoader_manufacture (h : s.array = .manufacture) :
    runLoader s = { State.reset with pending := s.pending, pins := s.pins } := by
  have slots : Vector.ofFn (loadSlot .manufacture (loadAssocs .manufacture)) = State.reset.slots := by
    ext1 i hi
    rw [Vector.getElem_ofFn]
    match i, hi with
    | 0, _ => exact loadSlot_manufacture rfl
    | 1, _ => exact loadSlot_manufacture rfl
    | n + 2, h =>
      rw [loadSlot_blank (by simp [StoreArray.manufacture])]
      simp [State.reset]
  have hour : loadHour .manufacture = 0 := by
    have strip : stripValues .manufacture = [] := by rfl
    rw [loadHour, strip, List.nil_append]
    have all : ∀ h ∈ allSlots.flatMap (fun i => slotHours StoreArray.manufacture.slots[i]), h = 0 := by
      intro h hm
      obtain ⟨i, -, hi⟩ := List.mem_flatMap.1 hm
      exact slotHours_manufacture i h hi
    revert all
    generalize allSlots.flatMap (fun i => slotHours StoreArray.manufacture.slots[i]) = l
    intro all
    induction l with
    | nil => rfl
    | cons x l ih =>
      cases all x (.head _)
      exact ih fun h hm => all h (.tail _ hm)
  have named : (StoreArray.manufacture).identity.isNone = false := rfl
  simp only [runLoader, clearVolatile, h, named, loadImages, slots, hour, Bool.false_eq_true, if_false]
  rfl

end Sys2Proof.Machine
end

