-- ==== Sys2Proof/Laws/KeptExec.lean ====
section
/-! SUPPORT. What a command keeps: the relation `Kept` between the state before a command and the state after it. -/

namespace Sys2Proof.Machine

variable {s t : State}

theorem kept_onHanded {c run} (hr : ∀ b, Kept s (run b s)) (e : onHanded c run s = .next t) : Kept s t := by
  unfold onHanded at e
  split at e <;> cases e
  · exact kept_refl s
  · exact hr _

/-- What every command keeps but the resets, the counted edges, the ends of writes and the changes of lines. -/
theorem kept_exec (c : Instr) (hc : isReset c = false) (h1 : c ≠ .stickEdge) (h2 : c ≠ .hourBoundary)
    (h3 : ∀ b, c ≠ .storeWriteReadBack b) (h4 : ∀ i l, c ≠ .tamperInputLevelChange i l) (h5 : c ≠ .pfailAssert)
    (h6 : c ≠ .pfailDeasserted) (e : exec c s = .next t) : Kept s t := by
  cases c <;> first
    | (cases hc; done) | exact absurd rfl h1 | exact absurd rfl h2 | exact absurd rfl (h3 _)
    | exact absurd rfl (h4 _ _) | exact absurd rfl h5 | exact absurd rfl h6 | skip
  case leaveLoading =>
    simp only [exec, execLeaveLoading] at e
    cases e
    split
    · rename_i h
      refine kept_leaveLoading ?_ (kept_refl _)
      simp [loaderDone] at h; exact h.1.1.2
    · exact kept_refl _
  case writeTransfer b =>
    simp only [exec, execWriteTransfer] at e
    split at e <;> cases e
    · exact kept_endWrite (kept_withTransfer (kept_refl _))
    · exact kept_refl _
  case readTransfer =>
    simp only [exec, execReadTransfer] at e
    split at e <;> cases e
    · exact kept_endRead (kept_withTransfer (kept_refl _))
    · exact kept_refl _
  case invalidDirectionTransfer =>
    simp only [exec, execInvalidDirectionTransfer] at e
    split at e <;> cases e
    · exact kept_endInvalid (kept_withTransfer (kept_refl _))
    · exact kept_refl _
  case identify => exact kept_onHanded (fun _ => kept_respond (kept_refl _)) e
  case readNotices => exact kept_onHanded (fun _ => kept_readNotices (kept_refl _)) e
  case hold =>
    exact kept_onHanded (run := fun _ s => portSettle (runHold s))
        (fun _ => kept_portSettle (kept_runHold (kept_refl _))) e
  case holdDrained =>
    simp only [exec, execHoldDrained] at e
    split at e
    · split at e <;> cases e
      · rename_i h
        refine kept_holdDrained ?_ (kept_refl _)
        simp at h; rw [h.1.2]; simp
      · exact kept_refl _
    all_goals (cases e; exact kept_refl _)
  case protect =>
    exact kept_onHanded (run := fun b s => portSettle (protectBodyRun b s))
        (fun _ => kept_portSettle (kept_protectBodyRun (kept_refl _))) e
  case unprotect =>
    exact kept_onHanded (run := fun b s => portSettle (unprotectBodyRun b s))
        (fun _ => kept_portSettle (kept_unprotectBodyRun (kept_refl _))) e
  case activateCommand =>
    exact kept_onHanded (run := fun b s => portSettle (activateBodyRun b s))
        (fun _ => kept_portSettle (kept_activateBodyRun (kept_refl _))) e
  case slotQuery => exact kept_onHanded (fun _ => kept_slotQuery (kept_refl _)) e
  case directoryFirst => exact kept_onHanded (fun _ => kept_directoryFirst (kept_refl _)) e
  case directoryNext => exact kept_onHanded (fun _ => kept_directoryNext (kept_refl _)) e
  case associationQuery => exact kept_onHanded (fun _ => kept_associationQuery (kept_refl _)) e
  case renewOpen => exact kept_onHanded (fun _ => kept_onContext (fun _ => kept_renewOpen (kept_refl _)) (kept_refl _)) e
  case renewPart => exact kept_onHanded (fun _ => kept_onContext (fun _ => kept_renewPart (kept_refl _)) (kept_refl _)) e
  case renewClose => exact kept_onHanded (fun _ => kept_onContext (fun _ => kept_renewClose (kept_refl _)) (kept_refl _)) e
  case renewResult => exact kept_onHanded (fun _ => kept_onContext (fun _ => kept_renewResult (kept_refl _)) (kept_refl _)) e
  case renewDrop => exact kept_onHanded (fun _ => kept_onContext (fun _ => kept_renewDrop (kept_refl _)) (kept_refl _)) e
  case intakeTimerExpiry =>
    simp only [exec, execIntakeTimerExpiry] at e
    split at e <;> cases e
    · exact kept_ctxFail (kept_refl _)
    · exact kept_refl _
  case debounceHoldExpiry =>
    simp only [exec, execDebounceHoldExpiry] at e
    split at e <;> cases e
    · exact kept_compareLive (kept_settleInputs (kept_refl _))
    · exact kept_refl _
  case firstComparison =>
    simp only [exec, execFirstComparison] at e
    split at e <;> cases e
    · exact kept_compareNow (kept_monitor _ (kept_refl _))
    · exact kept_refl _
  case pfailWithdraw =>
    simp only [exec, execPfailWithdraw] at e
    split at e <;> cases e
    · split
      · rename_i h
        exact kept_resumeServing (by simp at h ⊢; simp [h]) (kept_warning _ (kept_refl _))
      · exact kept_warning _ (kept_refl _)
    · exact kept_refl _
  case jobTake =>
    simp only [exec, execJobTake, settled] at e
    split at e <;> cases e
    · exact kept_portSettle (kept_takeNext (kept_refl _))
    · exact kept_refl _
  case roomGiven =>
    simp only [exec, execRoomGiven] at e
    split at e <;> cases e
    · cases h : giveOne s with
      | none => exact kept_refl _
      | some u => exact kept_giveOne h (kept_refl _)
    · exact kept_refl _
  case engineGrant =>
    simp only [exec, execEngineGrant] at e
    cases e
    split
    · exact kept_grantNext (kept_refl _)
    · exact kept_refl _
  case fillUnwrapEnd =>
    simp only [exec, execFillUnwrapEnd, settled] at e
    split at e <;> cases e
    · exact kept_portSettle (kept_endFill (kept_refl _))
    · exact kept_refl _
  case frameProtectEnd =>
    simp only [exec, execFrameProtectEnd, settled] at e
    split at e <;> cases e
    · exact kept_portSettle (kept_endFrameProtect (kept_engineFree (kept_refl _)))
    · exact kept_refl _
  case frameUnprotectEnd =>
    simp only [exec, execFrameUnprotectEnd, settled] at e
    split at e <;> cases e
    · exact kept_portSettle (kept_endFrameUnprotect (kept_engineFree (kept_refl _)))
    · exact kept_refl _
  case tokenCheckEnd =>
    simp only [exec, execTokenCheckEnd, settled] at e
    split at e <;> cases e
    · exact kept_portSettle (kept_endToken (kept_engineFree (kept_refl _)))
    · exact kept_refl _
  case keyUnwrapEnd =>
    simp only [exec, execKeyUnwrapEnd, settled] at e
    split at e <;> cases e
    · exact kept_portSettle (kept_renewalJobEnd (fun _ _ => kept_unwrapEnd (kept_engineFree (kept_refl _)))
        (kept_engineFree (kept_refl _)))
    · exact kept_refl _
  case bundleTagCheckEnd =>
    simp only [exec, execBundleTagCheckEnd, settled] at e
    split at e <;> cases e
    · exact kept_portSettle (kept_renewalJobEnd (fun _ h => kept_tagEnd h (kept_engineFree (kept_refl _)))
        (kept_engineFree (kept_refl _)))
    · exact kept_refl _
  case receiptEnd =>
    simp only [exec, execReceiptEnd, settled] at e
    split at e <;> cases e
    · exact kept_portSettle (kept_renewalJobEnd (fun _ h => kept_becomeStoring h (kept_engineFree (kept_refl _)))
        (kept_engineFree (kept_refl _)))
    · exact kept_refl _
  case contextTaken =>
    simp only [exec, execContextTaken] at e
    split at e
    · cases e; exact kept_refl _
    · split at e <;> cases e
      · exact kept_beginVerification (kept_refl _)
      · exact kept_refl _
  case directionByteReceived =>
    simp only [exec, execDirectionByteReceived] at e
    split at e <;> cases e
    · exact kept_beginTransfer (kept_refl _)
    · exact kept_refl _

end Sys2Proof.Machine
end

