-- ==== Sys2Proof/Laws/PerInstr.lean ====
section
/-! SUPPORT. One law for each command: its operands are ones its row can have exactly when the bound of its row holds. -/

namespace Sys2Proof.Laws

/-- The bound the spec sets on the operands of a command: an invalid direction byte is neither that of a write nor that of a read
(R193), and the end of a debounce hold is that of at least one input (R159). -/
def Operands.Bound : Instr → Prop
  | .invalidDirectionTransfer d _ => d ≠ 0x01#8 ∧ d ≠ 0x02#8
  | .debounceHoldExpiry i =>
    i.mainCover = true ∨ i.terminalCover = true ∨ i.magnetField = true ∨ i.caseCover = true
  | .powerOnReset | .nrstReset _ | .leaveLoading | .writeTransfer _ | .readTransfer _ | .identify | .readNotices
  | .hold | .holdDrained | .protect | .unprotect | .activateCommand | .slotQuery | .directoryFirst | .directoryNext
  | .associationQuery | .renewOpen | .renewPart | .renewClose | .renewResult | .renewDrop | .intakeTimerExpiry _
  | .stickEdge | .hourBoundary | .firstComparison | .pfailAssert | .pfailWithdraw | .jobTake | .roomGiven
  | .storeWriteReadBack _ | .engineGrant | .fillUnwrapEnd _ | .frameProtectEnd | .frameUnprotectEnd _
  | .tokenCheckEnd _ | .keyUnwrapEnd _ | .bundleTagCheckEnd _ | .receiptEnd | .contextTaken | .powerLoss _
  | .nrstRelease | .directionByteReceived _ | .tamperInputLevelChange _ _ | .pfailDeasserted => True

/-- A command is well formed exactly when the bound of its row holds. -/
def Operands.Statement (i : Instr) : Prop := i.wellFormed = true ↔ Operands.Bound i

theorem Operands.powerOnReset : Operands.Statement .powerOnReset := ⟨fun _ => trivial, fun _ => rfl⟩
theorem Operands.nrstReset (torn : Torn) : Operands.Statement (.nrstReset torn) := ⟨fun _ => trivial, fun _ => rfl⟩
theorem Operands.leaveLoading : Operands.Statement .leaveLoading := ⟨fun _ => trivial, fun _ => rfl⟩
theorem Operands.writeTransfer (bytes : List Byte) : Operands.Statement (.writeTransfer bytes) := ⟨fun _ => trivial, fun _ => rfl⟩
theorem Operands.readTransfer (count : Nat) : Operands.Statement (.readTransfer count) := ⟨fun _ => trivial, fun _ => rfl⟩
theorem Operands.invalidDirectionTransfer (direction : Byte) (count : Nat) : Operands.Statement (.invalidDirectionTransfer direction count) := by
  simp [Statement, Bound, Instr.wellFormed]
theorem Operands.identify : Operands.Statement .identify := ⟨fun _ => trivial, fun _ => rfl⟩
theorem Operands.readNotices : Operands.Statement .readNotices := ⟨fun _ => trivial, fun _ => rfl⟩
theorem Operands.hold : Operands.Statement .hold := ⟨fun _ => trivial, fun _ => rfl⟩
theorem Operands.holdDrained : Operands.Statement .holdDrained := ⟨fun _ => trivial, fun _ => rfl⟩
theorem Operands.protect : Operands.Statement .protect := ⟨fun _ => trivial, fun _ => rfl⟩
theorem Operands.unprotect : Operands.Statement .unprotect := ⟨fun _ => trivial, fun _ => rfl⟩
theorem Operands.activateCommand : Operands.Statement .activateCommand := ⟨fun _ => trivial, fun _ => rfl⟩
theorem Operands.slotQuery : Operands.Statement .slotQuery := ⟨fun _ => trivial, fun _ => rfl⟩
theorem Operands.directoryFirst : Operands.Statement .directoryFirst := ⟨fun _ => trivial, fun _ => rfl⟩
theorem Operands.directoryNext : Operands.Statement .directoryNext := ⟨fun _ => trivial, fun _ => rfl⟩
theorem Operands.associationQuery : Operands.Statement .associationQuery := ⟨fun _ => trivial, fun _ => rfl⟩
theorem Operands.renewOpen : Operands.Statement .renewOpen := ⟨fun _ => trivial, fun _ => rfl⟩
theorem Operands.renewPart : Operands.Statement .renewPart := ⟨fun _ => trivial, fun _ => rfl⟩
theorem Operands.renewClose : Operands.Statement .renewClose := ⟨fun _ => trivial, fun _ => rfl⟩
theorem Operands.renewResult : Operands.Statement .renewResult := ⟨fun _ => trivial, fun _ => rfl⟩
theorem Operands.renewDrop : Operands.Statement .renewDrop := ⟨fun _ => trivial, fun _ => rfl⟩
theorem Operands.intakeTimerExpiry (ctx : Fin 2) : Operands.Statement (.intakeTimerExpiry ctx) := ⟨fun _ => trivial, fun _ => rfl⟩
theorem Operands.stickEdge : Operands.Statement .stickEdge := ⟨fun _ => trivial, fun _ => rfl⟩
theorem Operands.hourBoundary : Operands.Statement .hourBoundary := ⟨fun _ => trivial, fun _ => rfl⟩
theorem Operands.debounceHoldExpiry (inputs : InputSet) : Operands.Statement (.debounceHoldExpiry inputs) := by
  simp [Statement, Bound, Instr.wellFormed, InputSet.nonEmpty, or_assoc]
theorem Operands.firstComparison : Operands.Statement .firstComparison := ⟨fun _ => trivial, fun _ => rfl⟩
theorem Operands.pfailAssert : Operands.Statement .pfailAssert := ⟨fun _ => trivial, fun _ => rfl⟩
theorem Operands.pfailWithdraw : Operands.Statement .pfailWithdraw := ⟨fun _ => trivial, fun _ => rfl⟩
theorem Operands.jobTake : Operands.Statement .jobTake := ⟨fun _ => trivial, fun _ => rfl⟩
theorem Operands.roomGiven : Operands.Statement .roomGiven := ⟨fun _ => trivial, fun _ => rfl⟩
theorem Operands.storeWriteReadBack (result : ReadBack) : Operands.Statement (.storeWriteReadBack result) := ⟨fun _ => trivial, fun _ => rfl⟩
theorem Operands.engineGrant : Operands.Statement .engineGrant := ⟨fun _ => trivial, fun _ => rfl⟩
theorem Operands.fillUnwrapEnd (opens : Bool) : Operands.Statement (.fillUnwrapEnd opens) := ⟨fun _ => trivial, fun _ => rfl⟩
theorem Operands.frameProtectEnd : Operands.Statement .frameProtectEnd := ⟨fun _ => trivial, fun _ => rfl⟩
theorem Operands.frameUnprotectEnd (pass : Bool) : Operands.Statement (.frameUnprotectEnd pass) := ⟨fun _ => trivial, fun _ => rfl⟩
theorem Operands.tokenCheckEnd (pass : Bool) : Operands.Statement (.tokenCheckEnd pass) := ⟨fun _ => trivial, fun _ => rfl⟩
theorem Operands.keyUnwrapEnd (pass : Bool) : Operands.Statement (.keyUnwrapEnd pass) := ⟨fun _ => trivial, fun _ => rfl⟩
theorem Operands.bundleTagCheckEnd (pass : Bool) : Operands.Statement (.bundleTagCheckEnd pass) := ⟨fun _ => trivial, fun _ => rfl⟩
theorem Operands.receiptEnd : Operands.Statement .receiptEnd := ⟨fun _ => trivial, fun _ => rfl⟩
theorem Operands.contextTaken : Operands.Statement .contextTaken := ⟨fun _ => trivial, fun _ => rfl⟩
theorem Operands.powerLoss (torn : Torn) : Operands.Statement (.powerLoss torn) := ⟨fun _ => trivial, fun _ => rfl⟩
theorem Operands.nrstRelease : Operands.Statement .nrstRelease := ⟨fun _ => trivial, fun _ => rfl⟩
theorem Operands.directionByteReceived (direction : Byte) : Operands.Statement (.directionByteReceived direction) := ⟨fun _ => trivial, fun _ => rfl⟩
theorem Operands.tamperInputLevelChange (input : TamperInput) (level : Level) : Operands.Statement (.tamperInputLevelChange input level) := ⟨fun _ => trivial, fun _ => rfl⟩
theorem Operands.pfailDeasserted : Operands.Statement .pfailDeasserted := ⟨fun _ => trivial, fun _ => rfl⟩

end Sys2Proof.Laws
end

