-- ==== Sys2Proof/Tests/Slice0.lean ====
section
/-! SUPPORT. Tests: ill-formed commands are refused by the check, one step per command with results taken from the rules cited, and
for each statement a concrete state and operands that meet its hypotheses. -/

open Sys2Proof Sys2Proof.Machine

namespace Sys2Proof.Tests

/-! ### Small states -/

/-- Some property of the next state. -/
def then? (o : Host.Outcome State Fault Refusal) (p : State → Bool) : Bool :=
  match o with
  | .next t => p t
  | .fault _ => false
  | .refused _ => false

/-- A property of the next state, of an outcome that is known. -/
theorem then_of {o o' : Host.Outcome State Fault Refusal} {p : State → Bool} (h : o = o') (hp : then? o' p = true) :
    then? o p = true := h ▸ hp

/-- The status of the retained response. -/
def status (t : State) : Option Code := t.port.retained.map (·.status)

/-- The body of the retained response. -/
def body (t : State) : Option (List Byte) := t.port.retained.map (·.body)

/-- Bytes from numbers. -/
def bytes (l : List Nat) : List Byte := l.map u8

/-- Zero numbers. -/
def z (n : Nat) : List Nat := List.replicate n 0

/-- The part at manufacture, in a device state. -/
def inState (d : DevState) : State := { State.reset with device := d }

/-- The part at manufacture, serving. -/
def served : State := inState .serving

/-- The Port Executor holds a request. -/
def holding (c : Cmd) (b : List Nat) (s : State) : State := setExec (.handed c (bytes b)) s

/-- A transfer in progress. -/
def inTransfer (d : Direction) (busy : Bool) (s : State) : State := { s with port := { s.port with transfer := some ⟨d, busy⟩ } }

/-- A live current generation 1 with ceiling 256. -/
def live : CellImg := ⟨.manufacture, some ⟨1, 0⟩, 256, 0, false, some 0⟩

/-- A staged generation 2. -/
def staged : CellImg := ⟨{ GenParams.manufacture with generation := 2, rule := .onCommand }, none, 256, 0, true, none⟩

/-- Slot 2 is bound to the commissioning party's UNICAST role. -/
def withSlot (img : SlotImg) : State :=
  setAssoc (setSlot served 2 { img with binding := some ⟨0, .unicast⟩ }) 0
    ⟨.active, some (0#64, .commissioning), ⟨some 2, none, some 0, some 1⟩, some 0⟩

/-- Slot 2 bound, with one live generation, WRITE_BACK. -/
def framed : State := withSlot { SlotImg.blank with floor := 1, cellA := some live }

/-- A READY entry of slot 2. -/
def ready (gen : Nat) (role : EntryRole) (n : Option Nat) (h : Nat) : Entry :=
  { slot := 2, cell := .a, gen := gen, filling := false, role := some role, key := [], n := n, h := h, dirty := false,
    resvPending := false, flushReq := false, pinPort := false, pinRenewal := false, withhold := none }

/-- The cache holds one entry. -/
def caching (e : Entry) (s : State) : State := { s with cache := { s.cache with entries := [e] } }

/-- The engine runs a job for a requester. -/
def computing (who : Requester) (j : EngineJob) (s : State) : State :=
  { s with engine := { s.engine with job := some ⟨who, j, false⟩ } }

/-- The Store Writer makes these writes of a job. -/
def writing (t : Task) (ws : List ArrayWrite) (retried : Bool) (s : State) : State :=
  { s with writer := { s.writer with job := some ⟨t, ws, retried, s.clock.hour, false, false⟩ } }

/-- The Store Writer's queue. -/
def queued (q : List QJob) (s : State) : State := { s with writer := { s.writer with queue := q } }

/-- Context 0 in a state. -/
def context (x : Ctx) (s : State) : State := setCtx s 0 x

/-- A GATHERING context of total length 48, with some bytes received in parts. -/
def gathering (n parts : Nat) : Ctx :=
  { Ctx.idle with state := .gathering, total := 48, buffer := bytes (z n), nextSeq := parts, timer := some 60 }

/-- The frame fields of a PROTECT or UNPROTECT of the party 0 in role UNICAST, with no header and one payload byte. -/
def protectReq : List Nat := z 8 ++ [1, 0, 1, 7]
def unprotectReq (counter : Nat) : List Nat := z 8 ++ [1, 0, 0, 0, counter, 0, 1, 7] ++ z 12

/-- An ACTIVATE request of generation 2. -/
def activateReq : List Nat := z 8 ++ [1, 0, 2] ++ z 16

/-- An ARM bundle that selects nothing, with sequence number 1 and the commissioning party as signer. -/
def armBundle : List Nat := [5, 0, 0, 0, 1] ++ z 43

/-- A verification of the ARM bundle at a stage. -/
def armVerif (stage : VerifStage) : Verif :=
  { ctx := 0, bundle := ⟨1, 0#64, .arm (Inputs.all none), [], []⟩, signerIndex := 0, signerClass := .commissioning,
    authSlot := 1, signGen := 1, stage := stage, kek := none, target := none, plan := [] }

/-- An INSTALL body for the party 0 in role UNICAST. -/
def installBody (rule : ActRule) : InstallBody :=
  { target := 0#64, role := .unicast, generation := 2, rule := rule, lifetime := 0, useLimit := 0, counterStart := 0,
    counterStep := 0, graceHours := 0, graceCount := 0, incomingFloor := 0, keyLength := 16, wrapped := [] }

/-- Context 0 is under this verification. -/
def verifying (v : Verif) (s : State) : State :=
  setVerif v (context { Ctx.idle with state := .verifying } s)

/-- The record of a STAGE. -/
def stageBody (gen : Nat) : GenRecord := ⟨{ GenParams.manufacture with generation := gen }, []⟩

/-- A level for each input. -/
def levels (l : Option Level) : Inputs (Option Level) := ⟨l, l, l, l⟩

/-- Only MAIN_COVER. -/
def mainOnly : InputSet := ⟨true, false, false, false⟩

/-- The monitor has settled LOW everywhere and expects this level at MAIN_COVER. -/
def armedFor (l : Level) (s : State) : State :=
  { s with monitor := { s.monitor with debounced := levels (some .low), holds := ⟨false, false, false, false⟩
                                       arm := ⟨some l, none, none, none⟩ } }

/-! ### Ill-formed commands -/

theorem test_write_direction_is_not_invalid : (Instr.invalidDirectionTransfer 0x01#8 4).wellFormed = false := by decide
theorem test_read_direction_is_not_invalid : (Instr.invalidDirectionTransfer 0x02#8 4).wellFormed = false := by decide
theorem test_direction_three_is_invalid : (Instr.invalidDirectionTransfer 0x03#8 4).wellFormed = true := by decide
theorem test_no_hold_ends : (Instr.debounceHoldExpiry ⟨false, false, false, false⟩).wellFormed = false := by decide
theorem test_one_hold_ends : (Instr.debounceHoldExpiry mainOnly).wellFormed = true := by decide
theorem test_no_word_spells_a_command : decodeTableWord 32 0xFFFFFFFF = none := by decide

/-! ### Resets and loading -/

/-- R185: loading the array of manufacture gives the images of R3, R39 and R61. -/
theorem test_loader_builds_the_reset_state : runLoader State.reset = State.reset := runLoader_manufacture rfl
/-- R193, 0x03 is FAULTED in Table 10-3: an invalid identity record. -/
theorem test_power_on_with_invalid_identity :
    then? (exec .powerOnReset { State.reset with array := { State.reset.array with identity := none } })
      (fun t => t.device = .faulted && attn t) = true := by rfl
theorem test_nrst_reset_clears_the_port :
    then? (exec (.nrstReset .kept) (holding .hold [] served)) (fun t => t.port.exec = .free && t.pins.nrst) = true := by
  rfl
theorem test_nrst_release_loads :
    then? (exec .nrstRelease { served with pins := { served.pins with nrst := true } })
      (fun t => t.device = .loading && (slotOf t 1).floor == 1) = true :=
  then_of (o' := .next (runLoader served)) rfl (by rw [runLoader_manufacture rfl]; rfl)
/-- R193: the association images go with the rest. -/
theorem test_power_loss_clears_the_entries :
    then? (exec (.powerLoss .kept) { served with loadTamper := true })
      (fun t => assocOf t 0 == .blank none && !t.loadTamper && !t.pins.supply) = true := by rfl
theorem test_power_loss_tears_the_write :
    then? (exec (.powerLoss .spoilt) (writing (.queued (plainJob .hour)) [.strip 3 7] false served))
      (fun t => t.array.strip[3] == none && t.writer.job.isNone) = true := by rfl
theorem test_leave_loading_under_pfail :
    then? (exec .leaveLoading { State.reset with pins := { State.reset.pins with pfail := true } })
      (fun t => t.device = .holding .power) = true := by decide +kernel
/-- R192: a first power-up raises LOAD_COMPLETE with SERVING, 0 and 0. -/
theorem test_leave_loading_raises_load_complete :
    then? (exec .leaveLoading State.reset)
      (fun t => t.device = .serving && t.notices == [.loadComplete .serving 0 0 false false]) = true := by decide +kernel

/-! ### Transfers -/

theorem test_direction_byte_write_discards_the_response :
    then? (exec (.directionByteReceived 0x01#8) (respond .ok [] served)) (fun t => t.port.retained.isNone) = true := by
  rfl
/-- R195: a write transfer while executing sets the overrun marker. -/
theorem test_direction_byte_write_while_executing :
    then? (exec (.directionByteReceived 0x01#8) (holding .identify [] served)) (fun t => t.port.overrun) = true := by
  rfl
/-- Table 10-5: 0x20 is SLOT QUERY, of one body byte. -/
theorem test_write_transfer_hands_over :
    then? (exec (.writeTransfer (bytes [0x20, 0, 1, 5])) served)
      (fun t => t.port.exec = .handed .slotQuery [5#8]) = true := by rfl
/-- R194: a length field that counts other bytes than followed is BAD_LENGTH. -/
theorem test_write_transfer_short :
    then? (exec (.writeTransfer (bytes [0x20, 0, 2, 5])) served) (fun t => status t = some .badLength) = true := by
  rfl
/-- Table 10-6: NO_RESPONSE is 0x02. -/
theorem test_read_transfer_without_response :
    then? (exec (.readTransfer 5) served) (fun t => t.port.pdo == bytes [2, 0, 0, 0, 0]) = true := by rfl
theorem test_invalid_direction_reads_low :
    then? (exec (.invalidDirectionTransfer 0xFF#8 2) (respond .ok [] served))
      (fun t => t.port.pdo == bytes [0, 0] && status t = some .ok) = true := by rfl

/-! ### Commands that read -/

/-- R198, Table 10-7: 21 bytes; SERVING is 0x01, the inputs of a part after reset are UNSETTLED, 0x02. -/
theorem test_identify_record :
    then? (exec .identify (holding .identify [] served))
      (fun t => body t == some (bytes (z 8 ++ [1, 0, 1, 0, 0, 0, 0, 0, 2, 2, 2, 2, 0]))) = true := by rfl
/-- Table 10-7: SLOT_QUARANTINED is kind 0x06 with its slot, filled to 12 bytes. -/
theorem test_read_notices_empties_the_set :
    then? (exec .readNotices (holding .readNotices [] (raise (.quarantined 4) served)))
      (fun t => t.notices.isEmpty && body t == some (bytes ([1, 6, 4] ++ z 10)) && !attn t) = true := by rfl
/-- R30: slot 31 at manufacture is VACANT, unbound (0xFF), KEEP, WRITE_BACK, floor 0. -/
theorem test_slot_query_of_a_vacant_slot :
    then? (exec .slotQuery (holding .slotQuery [31] served))
      (fun t => body t == some (bytes [31, 255, 0, 1, 1, 0, 0, 0, 0, 0, 0])) = true := by rfl
theorem test_slot_query_of_no_slot :
    then? (exec .slotQuery (holding .slotQuery [32] served)) (fun t => status t = some .badValue) = true := by
  rfl
/-- R31: at manufacture slot 0 is the lowest that is not VACANT. -/
theorem test_directory_first_finds_slot_0 :
    then? (exec .directoryFirst (holding .directoryFirst [] served))
      (fun t => t.port.cursor = some 0 && (body t).map (·.length) == some 34) = true := by rfl
/-- R32: after slot 1 no slot of manufacture is left, and the cursor stands. -/
theorem test_directory_next_ends :
    then? (exec .directoryNext (holding .directoryNext [] (setCursor (some 1) served)))
      (fun t => t.port.cursor = some 1 && status t = some .endOfDirectory) = true := by rfl
/-- R61, R75: entry 0 is ACTIVE, COMMISSIONING, with KEK 0 and AUTHORITY 1 in force. -/
theorem test_association_query_of_entry_0 :
    then? (exec .associationQuery (holding .associationQuery [0] served))
      (fun t => body t == some (bytes ([0, 1, 0, 3] ++ z 8 ++ [1, 255, 0, 255, 0, 0, 1, 1, 1] ++ z 5))) = true := by
  rfl

/-! ### Intake -/

theorem test_renew_open_takes_48 :
    then? (exec .renewOpen (holding .renewOpen [0, 0, 48] served))
      (fun t => (ctxOf t 0).state = .gathering && body t == some (bytes [0, 1, 0, 48, 0, 0, 0, 120])) = true := by
  rfl
theorem test_renew_open_refuses_47 :
    then? (exec .renewOpen (holding .renewOpen [0, 0, 47] served))
      (fun t => (ctxOf t 0).state = .idle && status t = some .badValue) = true := by rfl
theorem test_renew_part_out_of_sequence :
    then? (exec .renewPart (holding .renewPart ([0, 1] ++ z 48) (context (gathering 0 0) served)))
      (fun t => status t = some .outOfSequence && (ctxOf t 0).timer == some 60) = true := by rfl
theorem test_renew_close_counts :
    then? (exec .renewClose (holding .renewClose [0] (context (gathering 48 1) served)))
      (fun t => (ctxOf t 0).state = .closed && t.renewal.queue == [0]) = true := by rfl
theorem test_renew_result_empties_a_failed_context :
    then? (exec .renewResult (holding .renewResult [0] (ctxFail 0 .timedOut (context (gathering 0 0) served))))
      (fun t => (ctxOf t 0) == Ctx.idle && (body t).map (·.take 5) == some (bytes [0, 6, 0, 1, 0x61])) = true := by
  rfl
/-- R131, R197: a request handed over before the warning is judged by the device state as it runs. -/
theorem test_renew_result_in_a_power_hold :
    then? (exec .renewResult (holding .renewResult [0] (context { Ctx.idle with state := .done } (inState (.holding .power)))))
      (fun t => status t = some .powerFailing && (ctxOf t 0).state = .done) = true := by rfl
theorem test_renew_drop_of_a_closed_context :
    then? (exec .renewDrop (holding .renewDrop [0]
        { context { gathering 48 1 with state := .closed } served with renewal :=
          { (context { gathering 48 1 with state := .closed } served).renewal with queue := [0] } }))
      (fun t => (ctxOf t 0) == Ctx.idle && t.renewal.queue.isEmpty && t.notices.isEmpty) = true := by rfl

/-- A GATHERING context with so many seconds left. -/
def waiting (left : Nat) : State := context { gathering 0 0 with timer := some left } served

theorem test_timer_expiry :
    then? (exec (.intakeTimerExpiry 0) (waiting 0)) (fun t => t.notices == [.renewalFinished 0 .timedOut]) = true := by rfl
/-- R122: a RENEW PART taken first reloads the timer, and there is no expiry. -/
theorem test_no_expiry_after_a_part :
    then? (exec .renewPart (holding .renewPart ([0, 0] ++ z 48) (waiting 0)))
      (fun t => then? (exec (.intakeTimerExpiry 0) t) fun u => u.notices.isEmpty && (ctxOf u 0).timer == some 120) = true := by rfl

/-! ### Time, tamper, power -/

theorem test_stick_edge_counts :
    then? (exec .stickEdge served) (fun t => t.clock == ⟨1, 0⟩) = true := by rfl
theorem test_stick_edge_at_3599 :
    then? (exec .stickEdge { served with clock := ⟨3599, 8⟩ })
      (fun t => t.clock == ⟨0, 9⟩ && t.writer.queue == [plainJob .hour]) = true := by decide +kernel
theorem test_hour_boundary_while_holding :
    then? (exec .hourBoundary { inState (.holding .power) with clock := ⟨3599, 8⟩ })
      (fun t => t.clock == ⟨0, 9⟩ && t.writer.queue.isEmpty && t.writer.stripPending) = true := by decide +kernel
theorem test_level_change_starts_a_hold :
    then? (exec (.tamperInputLevelChange .caseCover .high) (armedFor .low served))
      (fun t => t.monitor.holds.caseCover && t.monitor.debounced.caseCover == some .low) = true := by rfl
theorem test_hold_expiry_settles :
    then? (exec (.debounceHoldExpiry mainOnly) served)
      (fun t => t.monitor.debounced.mainCover == some .low && t.monitor.debounced.caseCover == none) = true := by
  rfl
/-- R170: the first comparison finds a mismatch; the slots of manufacture have policy KEEP. -/
theorem test_first_comparison_mismatch :
    then? (exec .firstComparison (armedFor .high served))
      (fun t => t.writer.tamper.map (·.items) == some [.opening, .closing] && !t.monitor.matching) = true := by
  rfl
theorem test_pfail_drops_the_queue :
    then? (exec .pfailAssert (queued [plainJob .hour] served))
      (fun t => t.device = .holding .power && t.writer.queue.isEmpty && t.writer.stripPending) = true := by rfl
theorem test_pfail_deasserted_keeps_the_hold :
    then? (exec .pfailDeasserted { inState (.holding .power) with warning := ⟨true, false⟩ })
      (fun t => t.device = .holding .power && t.warning == ⟨true, true⟩) = true := by rfl
theorem test_pfail_withdraw_serves :
    then? (exec .pfailWithdraw { inState (.holding .power) with warning := ⟨true, true⟩ })
      (fun t => t.device = .serving && t.warning == ⟨false, false⟩) = true := by decide +kernel
theorem test_hold_during_a_renewal :
    then? (exec .hold (holding .hold [] (context { Ctx.idle with state := .storing } served)))
      (fun t => status t = some .renewalActive && t.device = .serving) = true := by rfl
theorem test_hold_drained :
    then? (exec .holdDrained (setExec (.hold false) served))
      (fun t => status t = some .ok && t.device = .holding .command) = true := by rfl

/-! ### Frames and the engine -/

theorem test_protect_takes_the_value :
    then? (exec .protect (holding .protect protectReq (caching (ready 1 .active (some 7) 0) framed)))
      (fun t => (findEntry t 2 1).bind (·.n) == some 8 && t.engine.job.isSome) = true := by rfl
/-- R44: at the ceiling the value is not given out and a RESERVE of the ceiling plus the step is queued. -/
theorem test_protect_at_the_ceiling :
    then? (exec .protect (holding .protect protectReq (caching (ready 1 .active (some 256) 0) framed)))
      (fun t => t.engine.job.isNone && t.writer.queue == [⟨.reserve 2 .a 1 512, none, true, false⟩]) = true := by
  rfl
theorem test_unprotect_at_the_high_water :
    then? (exec .unprotect (holding .unprotect (unprotectReq 5) (caching (ready 1 .active (some 7) 5) framed)))
      (fun t => status t = some .counterStale) = true := by rfl
theorem test_unprotect_above_the_high_water :
    then? (exec .unprotect (holding .unprotect (unprotectReq 6) (caching (ready 1 .active (some 7) 5) framed)))
      (fun t => t.engine.job.isSome && t.port.retained.isNone) = true := by rfl
theorem test_activate_command_without_staged :
    then? (exec .activateCommand (holding .activate activateReq framed))
      (fun t => status t = some .notStaged) = true := by rfl
theorem test_engine_grant_goes_to_the_port_after_the_engine :
    then? (exec .engineGrant { served with engine :=
        ⟨none, some (.fill 2 .a 1), some (.fill 1 .a 1), .renewal⟩ })
      (fun t => t.engine.last = .port && t.engine.portLine.isNone && t.engine.renewalLine.isSome) = true := by
  rfl
/-- R42: the fill of the KEK slot's current generation starts at its stored ceiling of 256. -/
theorem test_fill_gives_the_ceiling :
    then? (exec (.fillUnwrapEnd true) (computing .port (.fill 0 .a 1) (caching (fillingEntry .port 0 .a 1) served)))
      (fun t => (findEntry t 0 1).map (fun e => (e.filling, e.n, e.h)) == some (false, some 256, 0)) = true :=
  then_of (exec_fillUnwrapEnd rfl rfl (storedKey_stored (r := ⟨.manufacture, List.replicate 32 0#8⟩) rfl)) rfl

/-- The KEK slot's cell has no valid body any more, and its fill runs. -/
def spoiltFill : State :=
  computing .port (.fill 0 .a 1) (caching (fillingEntry .port 0 .a 1)
    { served with array := putWrite false served.array (.cellBody 0 .a .empty) })

theorem test_failed_fill_quarantines :
    then? (exec (.fillUnwrapEnd false) spoiltFill)
      (fun t => (slotOf t 0).quarantined && t.cache.entries.isEmpty && t.notices == [.quarantined 0]) = true :=
  then_of (exec_fillUnwrapEnd rfl rfl (storedKey_invalid rfl)) rfl

/-- A PROTECT whose frame job runs. -/
def protectOp : ProtectOp := ⟨2, .a, 1, [], [7#8], .frame 7 .fresh⟩

theorem test_frame_protect_end_answers :
    then? (exec .frameProtectEnd (setExec (.protect protectOp) (computing .port (.frameProtect [] [] [] [7#8]) framed)))
      (fun t => (body t).map (fun b => (b.length, b.take 8)) == some (21, bytes [0, 1, 0, 0, 0, 7, 0, 1])) = true := by
  refine then_of (exec_frameProtectEnd rfl rfl) ?_
  have hc := Config.frames.cipher_length [] [] [] [7#8]
  have ht := Config.frames.tag_length [] [] [] [7#8]
  revert hc ht
  generalize Config.frames.protect [] [] [] [7#8] = f
  obtain ⟨cipher, tag⟩ := f
  intro hc ht
  obtain ⟨x, rfl⟩ := List.length_eq_one_iff.1 hc
  show (some ((bytes [0, 1, 0, 0, 0, 7, 0, 1] ++ x :: tag).length, bytes [0, 1, 0, 0, 0, 7, 0, 1]) == _) = true
  rw [List.length_append, List.length_cons, ht]
  rfl

/-- The frame of the payload 7 under an empty key. -/
def frame : List Byte × List Byte := Config.frames.protect [] [] [] [7#8]

/-- An UNPROTECT whose frame job runs, with trials left. -/
def unprotectOp (rest : List Trial) : UnprotectOp :=
  ⟨0#64, 2, 6, [], frame.1, frame.2, .a, ⟨1, .current⟩, rest, false, false, [], .frame⟩

/-- It runs with this tag. -/
def tryingWith (tag : List Byte) (rest : List Trial) (s : State) : State :=
  setExec (.unprotect (unprotectOp rest)) (computing .port (.frameUnprotect [] [] [] frame.1 tag) s)

/-- It runs for the READY entry of generation 1 with high-water 5. -/
def trying (tag : List Byte) : State := tryingWith tag [] (caching { ready 1 .active (some 7) 5 with pinPort := true } framed)

theorem test_frame_unprotect_end_accepts :
    then? (exec (.frameUnprotectEnd true) (trying frame.2))
      (fun t => (findEntry t 2 1).map (fun e => (e.h, e.dirty)) == some (6, true) && status t = some .ok) = true :=
  then_of (exec_frameUnprotectEnd rfl rfl (recover_protect [] [] [] [7#8])) rfl
theorem test_frame_unprotect_end_refuses :
    then? (exec (.frameUnprotectEnd false) (trying []))
      (fun t => (findEntry t 2 1).map (·.h) == some 5 && status t = some .tagMismatch) = true :=
  then_of (exec_frameUnprotectEnd rfl rfl (recover_none_of_length (by decide))) rfl

/-- Slot 2 with a current and a staged generation. -/
def renewed : State := withSlot { SlotImg.blank with floor := 2, cellA := some live, cellB := some staged }

/-- An ACTIVATE command whose token check runs on this token. -/
def checking (token : List Byte) : State :=
  setExec (.activate ⟨2, .b, 2, token, .token⟩) (computing .port (.token [] [] token)
    (caching { ready 2 .verifyOnly none 0 with cell := .b, pinPort := true } renewed))

theorem test_token_check_end_queues :
    then? (exec (.tokenCheckEnd true) (checking (cmac [] [])))
      (fun t => t.writer.queue == [⟨.activate 2 2, none, true, false⟩] && t.port.retained.isNone) = true :=
  then_of (exec_tokenCheckEnd rfl rfl (beq_self_eq_true _)) rfl
theorem test_token_check_end_fails :
    then? (exec (.tokenCheckEnd false) (checking []))
      (fun t => t.writer.queue.isEmpty && status t = some .tagMismatch) = true :=
  then_of (exec_tokenCheckEnd rfl rfl (beq_false_of_ne (ne_cmac_of_length (by decide)))) rfl


/-- A valid token, checked as the entry carries this cause. -/
def checkingUnder (w : Withhold) : State :=
  caching { ready 2 .verifyOnly none 0 with cell := .b, pinPort := true, withhold := some w } (checking (cmac [] []))

/-- R157: a cause that reached the entry during the check answers the command, and nothing is queued. -/
theorem test_token_check_end_under_suspended :
    then? (exec (.tokenCheckEnd true) (checkingUnder .suspended))
      (fun t => t.writer.queue.isEmpty && status t = some .slotSuspended) = true :=
  then_of (exec_tokenCheckEnd rfl rfl (beq_self_eq_true _)) rfl

/-! ### Renewal and the Store Writer -/

/-- Context 0 is queued for verification with the ARM bundle. -/
def closed (b : List Nat) : State :=
  let s := context { Ctx.idle with state := .closed, total := b.length, buffer := bytes b } served
  { s with renewal := { s.renewal with queue := [0] } }

theorem test_context_taken_fills_the_authority_entry :
    then? (exec .contextTaken (closed armBundle))
      (fun t => (ctxOf t 0).state = .verifying && t.engine.job == some ⟨.renewal, .fill 1 .a 1, false⟩) = true := by
  rfl
theorem test_context_taken_malformed :
    then? (exec .contextTaken (closed (6 :: z 47)))
      (fun t => t.notices == [.renewalFinished 0 .malformed]) = true := by rfl
theorem test_tag_check_end_fails :
    then? (exec (.bundleTagCheckEnd false)
        (computing .renewal (.bundleTag [] [] []) (verifying (armVerif .tagCheck) served)))
      (fun t => (ctxOf t 0).state = .failed && t.renewal.verif.isNone) = true :=
  then_of (exec_bundleTagCheckEnd rfl rfl (beq_false_of_ne (ne_cmac_of_length (by decide)))) rfl

/-- An INSTALL under verification for slot 2, at its key unwrap. -/
def installVerif : Verif :=
  { armVerif .keyUnwrap with
    bundle := ⟨1, 0#64, .install (installBody .immediate), [], []⟩, kek := some (0, 1), target := some (2, ⟨0, .unicast⟩) }

/-- Its key unwrap runs on this wrapped key. -/
def unwrapping (wrapped : List Byte) : State :=
  computing .renewal (.keyUnwrap [] wrapped) (verifying installVerif framed)

theorem test_key_unwrap_end_plans_two_jobs :
    then? (exec (.keyUnwrapEnd true) (unwrapping (Config.keyWrap.wrap [] (bytes (z 16)))))
      (fun t => (t.renewal.verif.map (·.plan.length)) == some 2) = true :=
  then_of (exec_keyUnwrapEnd rfl rfl (unwrap_wrap [] (bytes (z 16)))) rfl
theorem test_receipt_end_queues_the_floor :
    then? (exec .receiptEnd (computing .renewal (.receipt [] [])
        (verifying { armVerif .receipt with plan := [.armRecord (Inputs.all none)] } served)))
      (fun t => (ctxOf t 0).state = .storing && t.writer.queue.map (·.job) ==
        [.bundleFloor 0 0#64 .commissioning 1, .armRecord (Inputs.all none)]) = true := by rfl
theorem test_job_take_of_an_hour_job :
    then? (exec .jobTake (queued [plainJob .hour] { served with clock := ⟨0, 9⟩ }))
      (fun t => t.writer.job.map (·.writes) == some [.strip 0 9] && t.writer.queue.isEmpty) = true := by rfl
/-- R16: with no staged generation the ACTIVATE job is dropped and nothing is written. -/
theorem test_job_take_drops_an_activate :
    then? (exec .jobTake (queued [plainJob (.activate 0 2)] served))
      (fun t => t.writer.job.isNone && t.writer.queue.isEmpty) = true := by rfl
theorem test_room_given_to_the_hour_job :
    then? (exec .roomGiven { served with writer := { served.writer with stripPending := true } })
      (fun t => t.writer.queue == [plainJob .hour] && !t.writer.stripPending) = true := by rfl
theorem test_write_matched_completes :
    then? (exec (.storeWriteReadBack .matched) (writing (.queued (plainJob .hour)) [.strip 0 9] false served))
      (fun t => t.array.strip[0] == some 9 && t.writer.nextStrip == 1 && t.writer.job.isNone) = true := by rfl
theorem test_write_mismatched_twice_quarantines :
    then? (exec (.storeWriteReadBack (.mismatched .spoilt))
        (writing (.queued (plainJob (.suspend 0))) [.headerBody 0 ⟨none, .keep, .writeBack, true⟩] true served))
      (fun t => (slotOf t 0).quarantined && t.array.slots[0].header.isNone) = true := by rfl

/-! ### Witnesses: for each statement with hypotheses, a state and operands that meet them, clause by clause -/

theorem witness_StepRunsTheFrontCommand :
    ({ served with pending := [.identify, .hold] } : State).pending = .identify :: [.hold] := rfl

/-- The part without supply. -/
def dark : State := { served with pins := { served.pins with supply := false } }

/-- The part under NRST. -/
def held : State := { served with pins := { served.pins with nrst := true } }

theorem witness_IdleStepCountsTheIntakeTimers :
    (served.pending = [] ∧ running served = true) ∧ (dark.pending = [] ∧ running dark = false) ∧
      (held.pending = [] ∧ running held = false) := ⟨⟨rfl, rfl⟩, ⟨rfl, rfl⟩, rfl, rfl⟩

/-- The part with a queued HOUR job and an edge waiting one second before the hour. -/
def safe : State := { queued [plainJob .hour] served with pending := [.stickEdge], clock := ⟨3598, 0⟩ }

theorem witness_EveryStepKeepsTheSafeStates :
    Sys2Proof.Machine.Inv safe ∧ then? (step safe) (fun t => t.clock == ⟨3599, 0⟩) = true := by
  refine ⟨⟨⟨⟨by decide, by decide⟩, by decide, ⟨by decide, by decide⟩, ⟨?_, ?_⟩, List.nodup_nil⟩, by decide⟩, by decide +kernel⟩
  · intro i j h
    match i with
    | 0 => cases h
    | 1 => cases h
  · intro v h
    cases h

/-- The Store Writer makes the write of an HOUR job. -/
def striping : State := writing (.queued (plainJob .hour)) [.strip 0 9] false served

theorem witness_OnlyWritesChangeTheArray :
    (∃ t, exec (.storeWriteReadBack .matched) striping = .next t ∧ t.array = putWrite true striping.array (.strip 0 9)) ∧
    (∃ t, exec (.powerLoss .spoilt) striping = .next t ∧ t.array = putWrite false striping.array (.strip 0 9)) ∧
    ∃ t, exec .identify striping = .next t ∧ t.array = striping.array := ⟨⟨_, rfl, rfl⟩, ⟨_, rfl, rfl⟩, _, rfl, rfl⟩

theorem witness_ImagesChangeOnlyWithStoreJobsOrResets :
    (∃ t, exec (.fillUnwrapEnd false) spoiltFill = .next t ∧ (slotOf t 0).quarantined = true) ∧
    isReset (.fillUnwrapEnd false) = false ∧ Instr.fillUnwrapEnd false ≠ .jobTake ∧
      ∀ b, Instr.fillUnwrapEnd false ≠ .storeWriteReadBack b :=
  ⟨⟨_, exec_fillUnwrapEnd rfl rfl (storedKey_invalid rfl), rfl⟩, rfl, by decide, by nofun⟩

theorem witness_OnlyResetsEnterLoadingOrLeaveFaulted :
    (∃ t, exec .pfailWithdraw (inState .faulted) = .next t) ∧ isReset .pfailWithdraw = false ∧
      (inState .faulted).device = .faulted := ⟨⟨_, rfl⟩, rfl, rfl⟩

theorem witness_ServiceHourNeverFalls :
    (∃ t, exec .stickEdge served = .next t ∧ t.clock = ⟨1, 0⟩) ∧ isReset .stickEdge = false ∧
    (∃ t, exec .hold served = .next t) ∧ Instr.hold ≠ .stickEdge ∧ Instr.hold ≠ .hourBoundary :=
  ⟨⟨_, rfl, rfl⟩, rfl, ⟨_, rfl⟩, by decide, by decide⟩

/-- The part with an invalid identity record. -/
def unnamed (s : State) : State := { s with array := { s.array with identity := none } }

theorem witness_LoaderBuildsTheImagesOrFaults :
    held.pins.nrst = true ∧
    (held.array.identity ≠ none ∧ held.pins.supply = true ∧ served.array.identity ≠ none ∧ served.pins.nrst = false) ∧
    ((unnamed held).array.identity = none ∧ (unnamed held).pins.supply = true ∧ (unnamed held).pins.nrst = true ∧
      (unnamed served).pins.nrst = false) ∧
    (HoldsGen State.reset 0 .a { live with wear := none } ∧ cellOf (slotOf (runLoader State.reset) 0) .a = some { live with wear := none }) ∧
    (judgeCell { CellRec.blank with body := .invalid } = .lost ∧ judgeCell .blank = .empty ∧
      (settlePair ⟨some staged, some { staged with params := GenParams.manufacture }, false, false, false⟩).b = none ∧
      (settlePair ⟨some staged, some staged, false, false, false⟩).quarantined = true) :=
  ⟨rfl, ⟨by decide, rfl, by decide, rfl⟩, ⟨rfl, rfl, rfl, rfl⟩,
    ⟨⟨_, 256, 0, validBody_stored _, rfl, rfl, rfl⟩, by rw [test_loader_builds_the_reset_state]; rfl⟩, rfl, rfl, rfl, rfl⟩

/-- A STAGE was torn before its floor write, and two positions of the strip are valid. -/
def tornStage : StoreArray :=
  { StoreArray.manufacture with
    slots := StoreArray.manufacture.slots.set 0 { SlotRec.manufacture .kek with floor := ⟨some 0, none⟩ }
    strip := (StoreArray.manufacture.strip.set 3 (some 7)).set 15 (some 8) }

/-- R39, R186, R188: the floor repair mark and the next strip position. -/
theorem witness_LoaderBuildsTheImagesOrFaults_marks :
    (twoValue (tornStage.slots[(0 : Fin 32)]).floor = some 0 ∧
      validBody (tornStage.slots[(0 : Fin 32)]).cellA.body = some (GenRecord.stored ⟨.manufacture, List.replicate 32 0#8⟩) ∧
      GenParams.manufacture.generation = 1) ∧
    loadSlot tornStage (loadAssocs tornStage) 0 = { SlotImg.manufacture .kek with repairFloor := true } ∧
    (tornStage.strip[(15 : Fin 16)] = some 8 ∧ loadStrip tornStage = 0) ∧
    ((∀ p : Fin 16, StoreArray.manufacture.strip[p] = none) ∧ loadStrip StoreArray.manufacture = 0) ∧
    loadStrip { tornStage with strip := StoreArray.manufacture.strip.set 3 (some 7) } = 4 := by
  have h : tornStage.slots[(0 : Fin 32)] = { SlotRec.manufacture .kek with floor := ⟨some 0, none⟩ } := rfl
  refine ⟨⟨rfl, validBody_stored _, rfl⟩, ?_, ⟨rfl, rfl⟩, ⟨by decide, rfl⟩, rfl⟩
  simp only [loadSlot, h, SlotRec.manufacture, loadPair, greatestGen, bothLost, bodyGen_manufacture, judgeCell_manufacture]
  rfl

/-- An array whose records meet the clauses on the loader one by one: entry 1 invalid, entry 2 without a floor, entry 3 with slot 0 of
entry 0, entry 4 with the party of entry 0, one arm copy, and tamper work that is not in slot order. -/
def mixed : StoreArray :=
  let assoc (p : Id64) (b : Roles (Option (Fin 32))) : AssocRec := ⟨some ⟨true, p, .headEnd, b⟩, ⟨some 4, none⟩⟩
  { StoreArray.manufacture with
    assocs := (((StoreArray.manufacture.assocs.set 1 ⟨none, ⟨some 3, none⟩⟩).set 2
      ⟨some ⟨true, 2#64, .headEnd, .all none⟩, ⟨none, none⟩⟩).set 3 (assoc 3#64 ⟨some 0, some 6, none, none⟩)).set 4
      (assoc 0#64 ⟨some 4, some 4, none, none⟩)
    armFirst := none
    tamper := StoreArray.manufacture.tamper.map fun r => { r with pendingSet := [(5, .erase), (2, .suspend)] } }

theorem witness_LoaderTakesEntriesArmAndTamperWork :
    (held.array.identity ≠ none ∧ held.pins.supply = true ∧ held.pins.nrst = true ∧ served.pins.nrst = false) ∧
    ((mixed.assocs[(1 : Fin 8)]).body = none ∧ (mixed.assocs[(5 : Fin 8)]).body.map (·.active) = some false ∧
      (mixed.assocs[(2 : Fin 8)]).body.map (·.active) = some true ∧ twoValue (mixed.assocs[(2 : Fin 8)]).floor = none) ∧
    ((loadAssocs mixed).toList.map (·.state) = [.active, .damaged .load, .damaged .load, .damaged .load, .damaged .load,
        .empty, .empty, .empty] ∧
      (loadAssocs mixed).toList.map (·.ident.isSome) = [true, false, true, false, false, false, false, false] ∧
      (loadAssocs mixed)[(4 : Fin 8)].bindings = ⟨some 4, none, none, none⟩ ∧
      (loadAssocs mixed)[(3 : Fin 8)].bindings = ⟨none, some 6, none, none⟩) ∧
    (mixed.armFirst = none ∧ mixed.armSecond = some ⟨Inputs.all none, 1⟩) ∧
    mixed.tamper.map (·.pendingSet) = some [(5, .erase), (2, .suspend)] ∧
    inSlotOrder [(5, .erase), (2, .suspend)] = [(2, .suspend), (5, .erase)] :=
  ⟨⟨by decide, rfl, rfl, rfl⟩, ⟨rfl, rfl, rfl, rfl⟩, ⟨rfl, rfl, rfl, rfl⟩, ⟨rfl, rfl⟩, rfl, rfl⟩

/-- Loading at hour 5: slot 2 holds generation 1 beside a staged generation with this rule, slot 3 generation 3 with these grace fields,
current since hour 3, over generation 1, and slot 4 has all repair marks. -/
def loaded (rule : ActRule) (hours count : Nat) (pfail : Bool) : State :=
  let s := withSlot { SlotImg.blank with
    floor := 2, cellA := some live, cellB := some { staged with params := { staged.params with rule := rule } } }
  let s := setSlot s 3 { SlotImg.blank with
    floor := 3, cellA := some live
    cellB := some { live with
      params := { GenParams.manufacture with generation := 3, graceHours := hours, graceCount := count }
      activation := some ⟨2, 3⟩ } }
  let s := setSlot s 4 { SlotImg.blank with repairA := true, repairB := true, repairFloor := true }
  { s with device := .loading, clock := ⟨0, 5⟩, pins := { s.pins with pfail := pfail } }

/-- The marks of slots 2 and 3 and the queue, after leaving LOADING. -/
def leavesWith (s : State) (act : Option Nat) (ovl : Option (Nat × OvlCause)) (jobs : List StoreJob) : Bool :=
  then? (exec .leaveLoading s) fun t =>
    (slotOf t 2).actDue == act && (slotOf t 3).ovlDue == ovl && t.writer.queue.map (·.job) == jobs

theorem witness_LeavingLoadingServesOrHolds :
    (running State.reset = true ∧ State.reset.device = .loading ∧ State.reset.writer.job = none ∧
      State.reset.writer.tamper = none) ∧
    (∀ rule hours count pfail, let s := loaded rule hours count pfail
      running s = true ∧ s.device = .loading ∧ s.writer.job = none ∧ s.writer.tamper = none ∧
      (genWith (slotOf s 2) .staged).map (fun g => (g.1, g.2.params.generation, g.2.params.rule)) = some (.b, 2, rule) ∧
      (genWith (slotOf s 3) .current).map (fun g => (g.1, g.2.activation)) = some (.b, some ⟨2, 3⟩) ∧
      genNumber (slotOf s 3) .overlap = some 1 ∧ repairOf (slotOf s 4) .a = true ∧ repairOf (slotOf s 2) .a = false) ∧
    leavesWith (loaded .immediate 0 0 true) (some 2) (some (1, .time)) [] = true ∧
    leavesWith (loaded (.atHour 5) 2 1 true) (some 2) (some (1, .time)) [] = true ∧
    leavesWith (loaded (.atHour 6) 3 1 true) none none [] = true ∧
    leavesWith (loaded .onCommand 0 1 false) none none [.cellRepair 4 .a, .cellRepair 4 .b, .floorRepair 4] = true ∧
    leavesWith (loaded (.atHour 5) 2 0 false) none none [.activate 2 2, .overlapEnd 3 1 .time, .cellRepair 4 .a,
      .cellRepair 4 .b, .floorRepair 4] = true :=
  ⟨⟨rfl, rfl, rfl, rfl⟩, fun _ _ _ _ => ⟨rfl, rfl, rfl, rfl, rfl, rfl, rfl, rfl, rfl⟩, by decide +kernel, by decide +kernel,
    by decide +kernel, by decide +kernel, by decide +kernel⟩

theorem witness_TransfersFollowTheirDirection :
    ((running served = true ∧ served.port.transfer = none ∧ served.port.exec = .free) ∧
    ((holding .identify [] served).port.transfer = none ∧ (holding .identify [] served).port.exec ≠ .free) ∧
    ((0x03#8 : Byte) ≠ 1#8 ∧ (0x03#8 : Byte) ≠ 2#8 ∧ (0#8 : Byte) ≠ 1#8 ∧ (0#8 : Byte) ≠ 2#8)) ∧
    (running (inTransfer .read true served) = true ∧ (inTransfer .read true served).port.transfer = some ⟨.read, true⟩) ∧
    ((inTransfer .read false (respond .ok [] served)).port.transfer = some ⟨.read, false⟩ ∧
      (inTransfer .read false (respond .ok [] served)).port.retained = some ⟨.ok, false, []⟩) ∧
    (inTransfer .read false served).port.retained = none ∧
    (running served = true ∧ (0xFF#8 : Byte) ≠ 1#8 ∧ (0xFF#8 : Byte) ≠ 2#8 ∧ served.port.transfer = none ∧
      (inTransfer .invalid true served).port.transfer = some ⟨.invalid, true⟩) :=
  ⟨⟨⟨rfl, rfl, rfl⟩, ⟨rfl, by decide⟩, by decide, by decide, by decide, by decide⟩,
    ⟨⟨rfl, rfl⟩, ⟨rfl, rfl⟩, rfl, rfl, by decide, by decide, rfl, rfl⟩⟩

/-- A write transfer in progress that is not discarded. -/
def receiving (d : DevState) : State := inTransfer .write false (inState d)

theorem witness_WriteTransferHandsTheRequestOver :
    (running (receiving .serving) = true ∧ (receiving .serving).port.transfer = some ⟨.write, false⟩ ∧
      frameCheck (bytes [0x20, 0, 1, 5]).length ((bytes [0x20, 0, 1, 5]).take 303) = .ok .slotQuery ∧
      (receiving .serving).device = .serving) ∧
    ((receiving (.holding .command)).port.transfer = some ⟨.write, false⟩ ∧
      (receiving (.holding .command)).device = .holding .command ∧ Cmd.slotQuery ≠ .identify ∧
      Cmd.slotQuery ≠ .readNotices) ∧
    frameCheck (bytes [0x01, 0, 0]).length ((bytes [0x01, 0, 0]).take 303) = .ok .identify :=
  ⟨⟨rfl, rfl, by decide +kernel, rfl⟩, ⟨rfl, rfl, by decide, by decide⟩, by decide +kernel⟩

theorem witness_RefusedRequestsChangeOnlyThePort :
    (inTransfer .write true served).port.transfer = some ⟨.write, true⟩ ∧
    ((receiving .serving).port.transfer = some ⟨.write, false⟩ ∧ (bytes [0x20, 0]).length < 3 ∧
      (bytes [0x20, 0, 1]).length ≠ 3 + fieldNat ((bytes [0x20, 0, 1]).take 303) 1 2) ∧
    ((bytes [0x04, 0, 0]).length = 3 + fieldNat ((bytes [0x04, 0, 0]).take 303) 1 2 ∧
      cmdOfCode (u8 (fieldNat ((bytes [0x04, 0, 0]).take 303) 0 1)) = none) ∧
    ((bytes [0x20, 0, 0]).length = 3 + fieldNat ((bytes [0x20, 0, 0]).take 303) 1 2 ∧
      cmdOfCode (u8 (fieldNat ((bytes [0x20, 0, 0]).take 303) 0 1)) = some .slotQuery ∧
      fieldNat ((bytes [0x20, 0, 0]).take 303) 1 2 < (bodyRange .slotQuery).1 ∧
      (bodyRange .slotQuery).2 < fieldNat ((bytes [0x20, 0, 2, 5, 5]).take 303) 1 2) ∧
    (frameCheck (bytes [0x03, 0, 0]).length ((bytes [0x03, 0, 0]).take 303) = .ok .hold ∧ Cmd.hold ≠ .identify ∧
      Cmd.hold ≠ .readNotices ∧ (receiving .loading).device = .loading ∧
      (receiving (.holding .power)).device = .holding .power ∧ (receiving .faulted).device = .faulted) :=
  ⟨rfl, ⟨rfl, by decide, by decide⟩, ⟨rfl, by decide +kernel⟩,
    ⟨rfl, by decide +kernel, by decide +kernel, by decide +kernel⟩, by decide +kernel, by decide, by decide, rfl, rfl, rfl⟩

theorem witness_IdentifyAndReadNoticesAnswer :
    (Handed .identify [] (holding .identify [] served) ∧ served.array.identity = some ⟨0#64, 0#8⟩ ∧
    Handed .identify [] (holding .identify [] (unnamed served)) ∧ (unnamed served).array.identity = none) ∧
    Handed .readNotices [] (holding .readNotices [] (raise (.quarantined 4) served)) ∧
      (raise (.quarantined 4) served).notices.length = 1 :=
  ⟨⟨⟨rfl, rfl⟩, rfl, ⟨rfl, rfl⟩, rfl⟩, ⟨⟨rfl, rfl⟩, rfl⟩⟩

theorem witness_AttnFollowsTheNoticeSet :
    (Handed .readNotices [] (holding .readNotices [] (raise (.quarantined 4) served)) ∧
      (holding .readNotices [] (raise (.quarantined 4) served)).device ≠ .loading ∧
      attn (raise (.quarantined 4) served) = true ∧ attn (raise (.quarantined 4) State.reset) = false) ∧
    (running State.reset = true ∧ State.reset.device = .loading ∧ State.reset.writer.job = none ∧
      State.reset.writer.tamper = none) := ⟨⟨⟨rfl, rfl⟩, by decide, rfl, rfl⟩, rfl, rfl, rfl, rfl⟩

theorem witness_QueriesAnswerAnyNumberInRange :
    (Handed .slotQuery [31#8] (holding .slotQuery [31] served) ∧ (31#8 : Byte).toNat = (31 : Fin 32).val) ∧
    (Handed .slotQuery [32#8] (holding .slotQuery [32] served) ∧ 32 ≤ (32#8 : Byte).toNat) ∧
    (Handed .associationQuery [7#8] (holding .associationQuery [7] served) ∧ (7#8 : Byte).toNat = (7 : Fin 8).val) ∧
    (Handed .associationQuery [8#8] (holding .associationQuery [8] served) ∧ 8 ≤ (8#8 : Byte).toNat) ∧
    ((shownGenerations (slotOf renewed 2)).length = 2 ∧ (shownGenerations (slotOf served 2)).length = 0 ∧
      (slotOf (setSlot served 0 (quarantineImg (slotOf served 0))) 0).quarantined = true) :=
  ⟨⟨⟨rfl, rfl⟩, rfl⟩, ⟨⟨rfl, rfl⟩, by decide⟩, ⟨⟨rfl, rfl⟩, rfl⟩, ⟨⟨rfl, rfl⟩, by decide⟩, rfl, rfl, rfl⟩

/-- The part with every slot VACANT. -/
def vacant : State := { served with slots := Vector.replicate 32 .blank }

theorem witness_DirectoryListsTheSlotsInOrder :
    (Handed .directoryFirst [] (holding .directoryFirst [] served) ∧ phaseOf (slotOf served 0) ≠ .vacant ∧
      ∀ j : Fin 32, j < 0 → phaseOf (slotOf served j) = .vacant) ∧
    (Handed .directoryFirst [] (holding .directoryFirst [] vacant) ∧ ∀ i, phaseOf (slotOf vacant i) = .vacant) ∧
    ((slotOf (setSlot served 0 (quarantineImg .blank)) 0).quarantined = true ∧ Cleared (clearVolatile served)) ∧
    (Handed .directoryNext [] (holding .directoryNext [] (setCursor (some 0) served)) ∧
      phaseOf (slotOf served 1) ≠ .vacant ∧ (setCursor (some 0) served).port.cursor = some 0 ∧ (0 : Fin 32) < 1 ∧
      ∀ j : Fin 32, j < 1 → ¬ 0 < j) ∧
    (Handed .directoryNext [] (holding .directoryNext [] (setCursor (some 1) served)) ∧
      ∀ i : Fin 32, 1 < i → phaseOf (slotOf served i) = .vacant) := by
  refine ⟨⟨⟨rfl, rfl⟩, by decide, ?_⟩, ⟨⟨rfl, rfl⟩, by decide⟩, ⟨rfl, rfl, rfl, rfl, rfl, rfl, rfl, rfl, rfl, rfl⟩,
    ⟨⟨rfl, rfl⟩, by decide, rfl, by decide, by decide⟩, ⟨rfl, rfl⟩, by decide⟩
  intro j h
  exact absurd h (Nat.not_lt_zero _)

/-- Both contexts are fresh but this one. -/
def opening (b : List Nat) : State := holding .renewOpen b served

theorem witness_RenewOpenOpensAnIdleContext :
    (Handed .renewOpen (bytes [0, 0, 48]) (opening [0, 0, 48]) ∧ fieldNat (bytes [0, 0, 48]) 0 1 = (0 : Fin 2).val ∧
      (ctxOf (opening [0, 0, 48]) 0).state = .idle ∧ fieldNat (bytes [0, 0, 48]) 1 2 = 48) ∧
    (Handed .renewOpen (bytes [1, 2, 0]) (opening [1, 2, 0]) ∧ fieldNat (bytes [1, 2, 0]) 0 1 = (1 : Fin 2).val ∧
      fieldNat (bytes [1, 2, 0]) 1 2 = 512) ∧
    (fieldNat (bytes [0, 0, 47]) 1 2 < 48 ∧ 512 < fieldNat (bytes [0, 2, 1]) 1 2) ∧
    (ctxOf (context (gathering 0 0) (opening [0, 0, 48])) 0).state ≠ .idle ∧
    (2 ≤ fieldNat (bytes [2]) 0 1 ∧ Handed .renewOpen (bytes [2]) (holding .renewOpen [2] served) ∧
      Handed .renewPart (bytes [2]) (holding .renewPart [2] served) ∧
      Handed .renewClose (bytes [2]) (holding .renewClose [2] served) ∧
      Handed .renewResult (bytes [2]) (holding .renewResult [2] served) ∧
      Handed .renewDrop (bytes [2]) (holding .renewDrop [2] served)) ∧
    (served.device = .serving ∧ (inState (.holding .command)).device = .holding .command) ∧
    (Handed .renewOpen (bytes [0, 0, 48]) (holding .renewOpen [0, 0, 48] (inState .faulted)) ∧
      Handed .renewPart (bytes [0, 0, 1]) (holding .renewPart [0, 0, 1] (inState .loading)) ∧
      Handed .renewClose (bytes [0]) (holding .renewClose [0] (inState (.holding .power))) ∧
      Handed .renewResult (bytes [0]) (holding .renewResult [0] (inState (.holding .power))) ∧
      Handed .renewDrop (bytes [0]) (holding .renewDrop [0] (inState .faulted))) :=
  ⟨⟨⟨rfl, rfl⟩, rfl, rfl, rfl⟩, ⟨⟨rfl, rfl⟩, rfl, rfl⟩, ⟨by decide, by decide⟩, by decide,
    ⟨by decide, ⟨rfl, rfl⟩, ⟨rfl, rfl⟩, ⟨rfl, rfl⟩, ⟨rfl, rfl⟩, rfl, rfl⟩, ⟨rfl, rfl⟩,
    ⟨rfl, rfl⟩, ⟨rfl, rfl⟩, ⟨rfl, rfl⟩, ⟨rfl, rfl⟩, rfl, rfl⟩

/-- A part with this number and so many zero bytes reaches context 0, which has received `n` bytes in `parts` parts. -/
def parting (seq len n parts : Nat) : State := holding .renewPart ([0, seq] ++ z len) (context (gathering n parts) served)

theorem witness_RenewPartGoesByItsSequence :
    (Handed .renewPart (bytes ([0, 0] ++ z 48)) (parting 0 48 0 0) ∧ fieldNat (bytes ([0, 0] ++ z 48)) 0 1 = (0 : Fin 2).val ∧
      (ctxOf (parting 0 48 0 0) 0).state = .gathering ∧
      fieldNat (bytes ([0, 0] ++ z 48)) 1 1 = (ctxOf (parting 0 48 0 0) 0).nextSeq ∧
      0 < (ctxOf (parting 0 48 0 0) 0).total - (ctxOf (parting 0 48 0 0) 0).buffer.length ∧
      ((bytes ([0, 0] ++ z 48)).drop 2).length =
        min 64 ((ctxOf (parting 0 48 0 0) 0).total - (ctxOf (parting 0 48 0 0) 0).buffer.length)) ∧
    (Handed .renewPart (bytes ([0, 1] ++ z 1)) (parting 1 1 48 1) ∧
      fieldNat (bytes ([0, 1] ++ z 1)) 1 1 = (ctxOf (parting 1 1 48 1) 0).nextSeq ∧
      (ctxOf (parting 1 1 48 1) 0).total - (ctxOf (parting 1 1 48 1) 0).buffer.length = 0) ∧
    ((bytes ([0, 0] ++ z 47)).drop 2).length ≠
      min 64 ((ctxOf (parting 0 47 0 0) 0).total - (ctxOf (parting 0 47 0 0) 0).buffer.length) ∧
    (ctxOf (holding .renewPart [0, 0, 0] served) 0).state ≠ .gathering ∧ (parting 0 48 0 0).device = .serving ∧
    Handed .renewPart (bytes ([0, 0] ++ z 1)) (parting 0 1 48 1) ∧ (ctxOf (parting 0 1 48 1) 0).state = .gathering ∧
    fieldNat (bytes ([0, 0] ++ z 1)) 1 1 + 1 = (ctxOf (parting 0 1 48 1) 0).nextSeq ∧
    (fieldNat (bytes ([0, 2] ++ z 1)) 1 1 ≠ (ctxOf (parting 2 1 48 1) 0).nextSeq ∧
      fieldNat (bytes ([0, 2] ++ z 1)) 1 1 + 1 ≠ (ctxOf (parting 2 1 48 1) 0).nextSeq) :=
  ⟨⟨⟨rfl, rfl⟩, rfl, rfl, rfl, by decide, rfl⟩, ⟨⟨rfl, rfl⟩, rfl, rfl⟩, by decide, by decide, rfl, ⟨rfl, rfl⟩, rfl, rfl,
    by decide, by decide⟩

/-- RENEW CLOSE reaches context 0. -/
def closing (x : Ctx) : State := holding .renewClose [0] (context x served)

theorem witness_RenewCloseJudgesTheCount :
    (Handed .renewClose (bytes [0]) (closing .idle) ∧ fieldNat (bytes [0]) 0 1 = (0 : Fin 2).val ∧
      (ctxOf (closing .idle) 0).state ≠ .gathering ∧ (closing .idle).device = .serving) ∧
    ((ctxOf (closing (gathering 48 1)) 0).state = .gathering ∧
      (ctxOf (closing (gathering 48 1)) 0).total ≤ (ctxOf (closing (gathering 48 1)) 0).buffer.length) ∧
    ((ctxOf (closing (gathering 47 1)) 0).state = .gathering ∧
      (ctxOf (closing (gathering 47 1)) 0).buffer.length < (ctxOf (closing (gathering 47 1)) 0).total) :=
  ⟨⟨⟨rfl, rfl⟩, rfl, by decide, rfl⟩, ⟨rfl, by decide⟩, rfl, by decide⟩

/-- A context of this state is asked for its result. -/
def asking (st : CtxState) : State := holding .renewResult [0] (context { Ctx.idle with state := st } served)

theorem witness_RenewResultCollectsTheRecord :
    Handed .renewResult (bytes [0]) (asking .done) ∧ fieldNat (bytes [0]) 0 1 = (0 : Fin 2).val ∧
    (ctxOf (asking .done) 0).state = .done ∧ (ctxOf (asking .failed) 0).state = .failed ∧
    (ctxOf (asking .idle) 0).state = .idle ∧ (ctxOf (asking .gathering) 0).state = .gathering ∧
    (ctxOf (asking .closed) 0).state = .closed ∧ (ctxOf (asking .verifying) 0).state = .verifying ∧
    (ctxOf (asking .storing) 0).state = .storing ∧ (asking .done).device = .serving :=
  ⟨⟨rfl, rfl⟩, rfl, rfl, rfl, rfl, rfl, rfl, rfl, rfl, rfl⟩

/-- A context of this state is dropped. -/
def dropped (st : CtxState) : State := holding .renewDrop [0] (context { Ctx.idle with state := st } served)

/-- The context under verification is dropped, its tag check waiting on the line, or granted. -/
def droppedEarly : State :=
  holding .renewDrop [0] (setLine .renewal (some (.bundleTag [] [] [])) (verifying (armVerif .tagCheck) served))
def droppedLate : State :=
  holding .renewDrop [0] (computing .renewal (.bundleTag [] [] []) (verifying (armVerif .tagCheck) served))

theorem witness_RenewDropGoesByTheState :
    Handed .renewDrop (bytes [0]) (dropped .idle) ∧ fieldNat (bytes [0]) 0 1 = (0 : Fin 2).val ∧
    (ctxOf (dropped .idle) 0).state = .idle ∧ (ctxOf (dropped .gathering) 0).state = .gathering ∧
    (ctxOf (dropped .closed) 0).state = .closed ∧ (ctxOf (dropped .storing) 0).state = .storing ∧
    ((ctxOf droppedLate 0).state = .verifying ∧ droppedLate.renewal.verif = some (armVerif .tagCheck) ∧
      (armVerif .tagCheck).ctx = 0 ∧ workInHand droppedLate = true) ∧
    ((ctxOf droppedEarly 0).state = .verifying ∧ droppedEarly.renewal.verif = some (armVerif .tagCheck) ∧
      workInHand droppedEarly = false) ∧ (dropped .idle).device = .serving :=
  ⟨⟨rfl, rfl⟩, rfl, rfl, rfl, rfl, rfl, ⟨rfl, rfl, rfl, rfl⟩, ⟨rfl, rfl, rfl⟩, rfl⟩

theorem witness_TimerExpiryFailsAGatheringContext :
    (running (waiting 0) = true ∧ (ctxOf (waiting 0) 0).state = .gathering ∧ (ctxOf (waiting 0) 0).timer = some 0) ∧
      (ctxOf served 1).state ≠ .gathering ∧ (ctxOf (waiting 1) 0).timer ≠ some 0 := ⟨⟨rfl, rfl, rfl⟩, by decide, by decide⟩

/-- Serving at a point of the clock. -/
def clocked (seconds hour : Nat) : State := { served with clock := ⟨seconds, hour⟩ }

theorem witness_StickEdgesCountTheHour :
    (running (clocked 3598 0) = true ∧ servingOrHolding (clocked 3598 0) = true ∧ (clocked 3598 0).clock.seconds < 3599) ∧
    (servingOrHolding (clocked 3599 4294967294) = true ∧ (clocked 3599 4294967294).clock.seconds = 3599 ∧
      (clocked 3599 4294967294).clock.hour < 4294967295) ∧
    (servingOrHolding (inState .loading) = false ∧ servingOrHolding (inState .faulted) = false) ∧
    running (clocked 3599 4294967295) = true ∧ servingOrHolding (clocked 3599 4294967295) = true ∧
      (clocked 3599 4294967295).clock.hour = 4294967295 ∧ (clocked 3599 4294967295).clock.seconds = 3599 ∧
      (clocked 0 4294967295).clock.seconds < 3599 ∧ ({ live with activation := some ⟨1, 4294967295⟩ } : CellImg).activation = some ⟨1, 4294967295⟩ :=
  ⟨⟨rfl, rfl, by decide⟩, ⟨rfl, rfl, by decide⟩, ⟨rfl, rfl⟩, rfl, rfl, rfl, rfl, by decide, rfl⟩

/-- Slot 2 with a current generation 3 with grace hours 1 over generation 1, and slot 3 with a generation that is to become active
at hour 1; one dirty entry of generation 1. -/
def atHour : State :=
  let s := withSlot { SlotImg.blank with
    floor := 3, cellA := some live
    cellB := some { live with
      params := { GenParams.manufacture with generation := 3, graceHours := 1 }, activation := some ⟨2, 0⟩ } }
  let s := setSlot s 3 { SlotImg.blank with
    floor := 2, cellA := some live, cellB := some { staged with params := { staged.params with rule := .atHour 1 } } }
  caching { ready 1 .acceptOnly none 9 with dirty := true } { s with clock := ⟨3599, 0⟩ }

theorem witness_HourBoundaryRecomputesFlushesAndMarks :
    (running atHour = true ∧ servingOrHolding atHour = true ∧ atHour.clock.seconds = 3599 ∧ atHour.clock.hour < 4294967295) ∧
    ((slotOf atHour 3).quarantined = false ∧ cellOf (slotOf atHour 3) .a = some live ∧ live.activation = some ⟨1, 0⟩) ∧
    (atHour.device = .serving ∧ (atHour.cache.entries.map fun e => (e.slot, e.gen)).Nodup ∧
      { ready 1 .acceptOnly none 9 with dirty := true } ∈ atHour.cache.entries) ∧
    ((genWith (slotOf atHour 3) .staged).map (fun g => (g.1, g.2.params.rule)) = some (.b, .atHour 1)) ∧
    (phaseOf (slotOf atHour 2) = .overlap ∧ (genWith (slotOf atHour 2) .current).map (fun g =>
        (g.1, g.2.activation, g.2.params.graceHours)) = some (.b, some ⟨2, 0⟩, 1) ∧
      genNumber (slotOf atHour 2) .overlap = some 1) :=
  ⟨⟨rfl, rfl, rfl, by decide⟩, ⟨rfl, rfl, rfl⟩, ⟨rfl, by decide, by decide⟩, rfl, rfl, rfl, rfl⟩

theorem witness_LevelsAreDebouncedAndCompared :
    (running served = true ∧ running dark = false) ∧
    running served = true ∧ inputGet mainOnly .mainCover = true ∧ inputGet served.monitor.holds .mainCover = true :=
  ⟨⟨rfl, rfl⟩, rfl, rfl, rfl⟩

theorem witness_FirstComparisonTakesATamperEvent :
    running (armedFor .high served) = true ∧ servingOrHolding (armedFor .high served) = true ∧
    (armedFor .high served).monitor.compared = false ∧
    (∀ i, inputGet (armedFor .high served).monitor.arm i = none ∨ inputGet (armedFor .high served).monitor.debounced i ≠ none) ∧
    groupMatches (armedFor .high served).monitor.arm (armedFor .high served).monitor.debounced = false ∧
    (armedFor .high served).monitor.matching = true ∧
    groupMatches (armedFor .low served).monitor.arm (armedFor .low served).monitor.debounced = true := by
  refine ⟨rfl, rfl, rfl, ?_, rfl, rfl, rfl⟩
  intro i
  cases i <;> exact .inr (by decide)

/-- Slot 2 has policy SUSPEND and slot 3, bound too, ERASE; the first comparison will find a mismatch. -/
def guarded : State :=
  let s := armedFor .high (setSlot framed 2 { slotOf framed 2 with policy := .suspend })
  setSlot s 3 { SlotImg.blank with binding := some ⟨0, .broadcast⟩, policy := .erase, floor := 1, cellA := some live }

/-- The monitor expects LOW at MAIN_COVER, has compared, and holds this level there. -/
def watching (l : Level) : State :=
  let s := armedFor .low guarded
  { s with
    monitor := { s.monitor with compared := true, holds := mainOnly }
    pins := { s.pins with tamper := { s.pins.tamper with mainCover := l } } }

/-- R163: a mismatch as a hold ends is an event with origin LIVE; a match is none. -/
theorem witness_LevelsAreDebouncedAndCompared_event :
    (running (watching .high) = true ∧ servingOrHolding (watching .high) = true ∧ (watching .high).monitor.compared = true ∧
      (watching .high).monitor.matching = true ∧ inputGet mainOnly .mainCover = true ∧
      inputGet (watching .high).monitor.holds .mainCover = true) ∧
    then? (exec (.debounceHoldExpiry mainOnly) (watching .high)) (fun t => !t.monitor.matching &&
      t.writer.tamper.map (fun w => (w.items, w.record.origin, w.record.pattern)) ==
        some ([.opening, .slot 2 .suspend, .slot 3 .erase, .closing], .live, mainOnly) &&
      t.cache.bars[(2 : Fin 32)] == some .suspend && t.notices.map noticeKey == [.tamper]) = true ∧
    then? (exec (.debounceHoldExpiry mainOnly) (watching .low)) (fun t => t.monitor.matching && t.writer.tamper.isNone) = true :=
  ⟨⟨rfl, rfl, rfl, rfl, rfl, rfl⟩, rfl, rfl⟩

/-- Context 0 gathers, context 1 is under verification, and the queue holds jobs that go, repairs of the slot to be erased among them,
and a repair of the slot to be suspended and an HOUR, which stay. -/
def attacked : State :=
  let s := context (gathering 0 0) (queued [⟨.suspend 5, some 0, false, false⟩, plainJob (.reserve 3 .a 1 512),
    plainJob (.resume 2), plainJob (.cellRepair 3 .b), plainJob (.floorRepair 3), plainJob (.cellRepair 2 .b), plainJob .hour] guarded)
  setVerif { armVerif .tagCheck with ctx := 1 } (setCtx s 1 { Ctx.idle with state := .verifying })

theorem settles_guarded (f : State → State) (h : (f guarded).monitor = guarded.monitor) (i : TamperInput) :
    inputGet (f guarded).monitor.arm i = none ∨ inputGet (f guarded).monitor.debounced i ≠ none := by
  rw [h]
  cases i <;> exact .inr (by decide)

theorem witness_TamperEventFailsContextsAndRemovesJobs :
    (running attacked = true ∧ servingOrHolding attacked = true ∧ attacked.monitor.compared = false ∧
      groupMatches attacked.monitor.arm attacked.monitor.debounced = false ∧ attacked.monitor.matching = true) ∧
    (∀ i, inputGet attacked.monitor.arm i = none ∨ inputGet attacked.monitor.debounced i ≠ none) ∧
    (slotItems attacked = [(2, .suspend), (3, .erase)] ∧ (ctxOf attacked 0).state = .gathering ∧
      (ctxOf attacked 1).state = .verifying ∧ attacked.renewal.verif = some { armVerif .tagCheck with ctx := 1 }) ∧
    then? (exec .firstComparison attacked) (fun t =>
      (ctxOf t 0).state = .failed && (ctxOf t 1).state = .failed && t.renewal.verif.isNone &&
        t.cache.bars[(2 : Fin 32)] == some .suspend && t.cache.bars[(3 : Fin 32)] == some .erase &&
        t.writer.queue == [plainJob (.cellRepair 2 .b), plainJob .hour] && queuedStructural t 3 == 0) = true :=
  ⟨⟨rfl, rfl, rfl, rfl, rfl⟩, settles_guarded (fun _ => attacked) rfl, ⟨rfl, rfl, rfl, rfl⟩, rfl⟩

/-- Entries of the barred slots, pinned and unpinned. -/
def cached : State :=
  { guarded with cache := { guarded.cache with entries :=
      [{ ready 1 .active (some 7) 0 with pinPort := true }, { ready 4 .verifyOnly none 0 with gen := 4 },
        { ready 1 .active (some 7) 0 with slot := 3, pinRenewal := true }, { ready 2 .active (some 7) 0 with slot := 3 }] } }

/-- The same as a PROTECT's frame job runs for the pinned entry of slot 3. -/
def cachedBusy : State :=
  let s := setExec (.protect { protectOp with slot := 3 }) (computing .port (.frameProtect [] [] [] [7#8]) cached)
  { s with cache := { s.cache with entries := [{ ready 1 .active (some 8) 0 with slot := 3, pinPort := true }] } }

theorem witness_CausesReachHeldEntriesAndDiscardOthers :
    (running cached = true ∧ (cached.cache.entries.map fun e => (e.slot, e.gen)).Nodup ∧ servingOrHolding cached = true ∧
      cached.monitor.compared = false ∧ groupMatches cached.monitor.arm cached.monitor.debounced = false ∧
      cached.monitor.matching = true ∧ cached.port.exec = .free ∧ cached.renewal.verif = none ∧ cached.cache.waits = [] ∧
      cached.engine.portLine = none ∧ cached.engine.renewalLine = none ∧
      slotItems cached = [(2, .suspend), (3, .erase)]) ∧
    (∀ i, inputGet cached.monitor.arm i = none ∨ inputGet cached.monitor.debounced i ≠ none) ∧
    then? (exec .firstComparison cached) (fun t => t.cache.entries.map (fun e => (e.slot, e.gen, e.withhold)) ==
      [(2, 1, some .suspended), (2, 4, none), (3, 1, some .erased)]) = true ∧
    (cachedBusy.engine.job.any (fun g => g.who == .port && !g.orphan) = true ∧
      cachedBusy.port.exec = .protect { protectOp with slot := 3 } ∧ protectOp.stage = .frame 7 .fresh ∧
      then? (exec .firstComparison cachedBusy) (fun t => t.cache.entries.map (fun e => (e.pinPort, e.withhold)) ==
        [(true, some .erased)]) = true) ∧
    (let s := setExec (.protect protectOp) (computing .port (.frameProtect [] [] [] [7#8])
      (caching { ready 1 .active (some 8) 0 with pinPort := true, withhold := some .suspended } framed))
     s.engine.job = some ⟨.port, .frameProtect [] [] [] [7#8], false⟩ ∧ s.port.exec = .protect protectOp ∧
       protectOp.stage = .frame 7 .fresh ∧
       then? (exec .frameProtectEnd s) (fun t => t.cache.entries.map (fun e => (e.pinPort, e.withhold)) == [(false, none)]) = true) :=
  ⟨⟨rfl, by decide, rfl, rfl, rfl, rfl, rfl, rfl, rfl, rfl, rfl, rfl⟩, settles_guarded (fun _ => cached) rfl, rfl,
    ⟨rfl, rfl, rfl, rfl⟩, rfl, rfl, rfl, then_of (exec_frameProtectEnd rfl rfl) rfl⟩

/-- A HIGHWATER with 7 and an HOUR job are queued; the entry of its cell is dirty with 9, and another entry with 4. -/
def budgeted : State :=
  let s := queued [plainJob .hour, plainJob (.highWater 2 .a 1 7)] framed
  { s with cache := { s.cache with entries :=
      [{ ready 1 .active (some 7) 4 with slot := 3, dirty := true }, { ready 1 .active (some 7) 9 with dirty := true }] } }

theorem witness_PfailAssertTakesTheWarning :
    (running served = true ∧ served.warning.taken = false ∧ served.device = .serving ∧
      (inState (.holding .command)).device = .holding .command ∧ (inState (.holding .command)).warning.taken = false ∧
      (∀ v, served.renewal.verif = some v → (ctxOf served v.ctx).state = .verifying) ∧
      (ctxOf (context (gathering 0 0) served) 0).state = .gathering ∧
      then? (exec .pfailAssert (context (gathering 0 0) served)) (fun t => (ctxOf t 0).state = .failed) = true) ∧
    (budgeted.warning.taken = false ∧ budgeted.writer.flush = [] ∧ (budgeted.writer.queue.filterMap itemOfJob).length = 1 ∧
      then? (exec .pfailAssert budgeted) (fun t => t.writer.flush.map (fun it => (it.slot, it.gen, it.value, it.fromEntry)) ==
        [(2, 1, 9, false), (3, 1, 4, true)] && t.writer.stripPending) = true) :=
  ⟨⟨rfl, rfl, rfl, rfl, rfl, (by intro v h; cases h), rfl, rfl⟩, rfl, rfl, rfl, rfl⟩

/-- Context 0 is STORING with so many jobs, as one of these contexts' is written. -/
def storingWith (jobs : Nat) (hand : Option (Fin 2)) : State :=
  writing (.queued ⟨.suspend 2, hand, false, false⟩) [.headerBody 2 ⟨none, .keep, .writeBack, true⟩] false
    (context { Ctx.idle with state := .storing, jobs := List.replicate jobs (.suspend 2, .queued) } framed)

/-- Context 0 as the warning leaves it. -/
def ctxAtWarning (s : State) : Option (CtxState × Option Code) :=
  match exec .pfailAssert s with
  | .next t => some ((ctxOf t 0).state, (ctxOf t 0).result.map (·.outcome))
  | .fault _ | .refused _ => none

/-- R131: each state of a context at the warning. -/
theorem witness_PfailAssertTakesTheWarning_contexts :
    (verifying (armVerif .tagCheck) served).renewal.verif = some (armVerif .tagCheck) ∧
    ctxAtWarning (verifying (armVerif .tagCheck) served) = some (.failed, some .powerFail) ∧
    (let s := verifying (armVerif .tagCheck) served
     ctxAtWarning (context { ctxOf s 0 with dropPending := true } s) = some (.idle, none)) ∧
    ctxAtWarning (context { Ctx.idle with state := .closed } served) = some (.failed, some .powerFail) ∧
    ctxAtWarning (storingWith 1 (some 0)) = some (.storing, none) ∧
    ctxAtWarning (storingWith 1 none) = some (.failed, some .powerFail) ∧
    ctxAtWarning (storingWith 2 (some 0)) = some (.failed, some .powerFail) ∧
    ctxAtWarning (context { Ctx.idle with state := .done } served) = some (.done, none) :=
  ⟨rfl, rfl, rfl, rfl, rfl, rfl, rfl, rfl⟩

/-- A queue with each kind of job that Table 9-4 names and no context waits for, the fifth HIGHWATER last. -/
def dropping : State :=
  let s := setSlot atHour 4 { SlotImg.blank with cellA := some live }
  let high (i : Fin 32) : QJob := plainJob (.highWater i .a 1 9)
  caching { ready 1 .active (some 7) 9 with slot := 4 } (queued [plainJob (.activate 3 2), plainJob (.overlapEnd 2 1 .count),
    plainJob (.cellRepair 5 .b), plainJob (.floorRepair 6), high 7, high 8, high 9, high 10, high 4] s)

/-- Table 9-4: the marks that are set again, and the entry that becomes dirty. -/
theorem witness_PfailAssertTakesTheWarning_marks :
    genNumber (slotOf dropping 3) .staged = some 2 ∧ genNumber (slotOf dropping 2) .overlap = some 1 ∧
    then? (exec .pfailAssert dropping) (fun t => (slotOf t 3).actDue == some 2 && (slotOf t 2).ovlDue == some (1, .count) &&
      repairOf (slotOf t 5) .b && (slotOf t 6).repairFloor && t.writer.flush.map (·.slot) == [7, 8, 9, 10] &&
      t.cache.entries.map (fun e => (e.h, e.dirty)) == [(9, true)] && !t.writer.stripPending) = true ∧
    then? (exec .pfailAssert (queued [plainJob (.reserve 2 .a 1 512)]
        (caching { ready 1 .active (some 7) 5 with resvPending := true } framed))) (fun t =>
      t.cache.entries == [ready 1 .active (some 7) 5]) = true :=
  ⟨rfl, rfl, rfl, rfl⟩

/-- The command in flight is answered POWER_FAILING at the warning. -/
def answeredAtWarning (s : State) : Bool := then? (exec .pfailAssert s) (fun t => t.port == (respond .powerFailing [] s).port)

/-- The command in flight goes on after the warning. -/
def goesOnAtWarning (s : State) : Bool := then? (exec .pfailAssert s) (fun t => t.port == s.port)

/-- A PROTECT waits on its RESERVE, an UNPROTECT on its HIGHWATER, an ACTIVATE on its job. -/
def reserving : State :=
  queued [⟨.reserve 2 .a 1 512, none, true, false⟩] (setExec (.protect { protectOp with stage := .reserve })
    (caching { ready 1 .active (some 256) 0 with pinPort := true, resvPending := true } framed))
def reserveInHand : State :=
  writing (.queued ⟨.reserve 2 .a 1 512, none, true, false⟩) [.ceiling 2 .a false 512] false { reserving with
    writer := { reserving.writer with queue := [] } }
def throughHigh : State :=
  queued [⟨.highWater 2 .a 1 6, none, true, false⟩] (setExec (.unprotect { unprotectOp [] with stage := .high })
    (caching { ready 1 .active (some 7) 6 with pinPort := true } framed))
def commandStore (hand : Bool) : State :=
  writing (.queued ⟨.activate 2 2, none, hand, false⟩) [.activation 2 .b (some ⟨2, 0⟩)] false
    (setExec (.activate ⟨2, .b, 2, [], .store⟩) renewed)

/-- R106, R112, R157, R158, R202: each command that may be in flight. -/
theorem witness_PfailAssertTakesTheWarning_commands :
    (answeredAtWarning reserving = true ∧ (∀ c, reserving.engine.renewalLine ≠ some (.fill 2 c 1)) ∧
      then? (exec .pfailAssert reserving) (fun t => (findEntry t 2 1).map (fun e => (e.n, e.resvPending)) ==
        some (some 256, false)) = true ∧
      answeredAtWarning reserveInHand = true ∧
      then? (exec .pfailAssert reserveInHand) (fun t => t.writer.job.map (·.writes) == some [.ceiling 2 .a false 512] &&
        t.cache.entries.map (fun e => (e.n, e.resvPending)) == [(some 256, false)]) = true ∧
      goesOnAtWarning (setExec (.protect protectOp) framed) = true) ∧
    (answeredAtWarning throughHigh = true ∧
      then? (exec .pfailAssert throughHigh) (fun t => (findEntry t 2 1).map (fun e => (e.h, e.dirty)) == some (6, true)) = true ∧
      goesOnAtWarning (setExec (.unprotect { unprotectOp [] with cipher := [], tag := [] }) framed) = true) ∧
    (answeredAtWarning (commandStore false) = true ∧ goesOnAtWarning (commandStore true) = true) ∧
    (let s := setExec (.protect { protectOp with stage := .fill }) framed
     answeredAtWarning { s with cache := { s.cache with waits := [⟨2, .a, 1, true, false, .port⟩] } } = true ∧
      goesOnAtWarning s = true) ∧
    answeredAtWarning (setExec (.hold false) served) = true ∧ goesOnAtWarning served = true ∧
    goesOnAtWarning (holding .protect protectReq framed) = true :=
  ⟨⟨rfl, nofun, rfl, rfl, rfl, rfl⟩, ⟨rfl, rfl, rfl⟩, ⟨rfl, rfl⟩, ⟨rfl, rfl⟩, rfl, rfl, rfl⟩

/-- The warning is being withdrawn. -/
def withdrawing (d : DevState) : State := { inState d with warning := ⟨true, true⟩ }

/-- R203: what an assertion and a withdrawal do goes by the device state. -/
theorem witness_WithdrawnWarningReturnsToServing :
    running (withdrawing (.holding .power)) = true ∧ (withdrawing (.holding .power)).warning = ⟨true, true⟩ ∧
      (withdrawing (.holding .power)).device = .holding .power ∧ (withdrawing .faulted).device = .faulted ∧
      running (withdrawing .faulted) = true ∧ State.reset.device = .loading ∧ running dark = false ∧
      served.warning ≠ ⟨true, true⟩ ∧
      then? (exec .pfailWithdraw (withdrawing .faulted)) (fun t => t.warning == ⟨true, true⟩) = true ∧
      then? (exec .pfailAssert (inState .faulted)) (fun t => t.warning == ⟨false, false⟩ && t.pins.pfail) = true :=
  ⟨rfl, rfl, rfl, rfl, rfl, rfl, rfl, by decide, rfl, rfl⟩

/-- A PROTECT handed over with a READY entry of this next value and reservation-pending flag, and these queued jobs; the ceiling is
256 and the step 256. -/
def protectingAt (n : Nat) (flag : Bool) (jobs : List QJob) : State :=
  queued jobs (holding .protect protectReq (caching { ready 1 .active (some n) 0 with resvPending := flag } framed))

/-- So many queued jobs of another slot. -/
def others (k : Nat) : List QJob := List.replicate k (plainJob (.suspend 9))

/-- A RESERVE of slot 2. -/
def reserve (v : Nat) (port : Bool) : QJob := ⟨.reserve 2 .a 1 v, none, port, false⟩

/-- R88, R89: the hold flush asks for the dirty entry at once, and leaves it flush-requested where the queue is full. -/
theorem witness_HoldWaitsForItsDrain_flush :
    (let s := holding .hold [] (caching { ready 1 .active (some 7) 5 with dirty := true } framed)
     OneEntryEach s ∧ { ready 1 .active (some 7) 5 with dirty := true } ∈ s.cache.entries ∧
       then? (exec .hold s) (fun t => t.writer.queue == [⟨.highWater 2 .a 1 5, none, false, true⟩] &&
         t.cache.entries == [ready 1 .active (some 7) 5]) = true ∧
       then? (exec .hold (queued (others 8) s)) (fun t => t.writer.queue == others 8 &&
         t.cache.entries == [{ ready 1 .active (some 7) 5 with dirty := true, flushReq := true }]) = true) :=
  ⟨List.nodup_singleton _, by decide, rfl, rfl⟩

/-- After a PROTECT: its stage, the flag of its entry and the queue. -/
def protectsTo (s : State) (stage : Option ProtectStage) (flag : Bool) (jobs : List QJob) : Bool :=
  then? (exec .protect s) fun t =>
    (match t.port.exec with | .protect op => some op.stage == stage | _ => stage.isNone) &&
    (findEntry t 2 1).map (·.resvPending) == some flag && t.writer.queue == jobs

theorem witness_ProtectTakesACounterValue :
    (∀ n flag jobs, let s := protectingAt n flag jobs
      Handed .protect (bytes protectReq) s ∧ s.device ≠ .faulted ∧ parseProtect (bytes protectReq) = .ok ⟨0#64, [], [7#8]⟩ ∧
      lookup s 0#64 .unicast = .ok 2 ∧ (slotOf s 2).quarantined = false ∧ (slotOf s 2).suspended = false ∧
      genWith (slotOf s 2) .current = some (.a, live) ∧ classOf live ≠ .spent ∧ s.cache.bars[(2 : Fin 32)] = none ∧
      findEntry s 2 1 = some { ready 1 .active (some n) 0 with resvPending := flag }) ∧
    ((255 : Nat) < live.ceiling ∧ live.ceiling - (191 + 1) ≤ live.params.counterStep / 4 ∧
      ¬ live.ceiling - (190 + 1) ≤ live.params.counterStep / 4 ∧ live.ceiling ≤ 256 ∧
      isReserveFor 2 .a (reserve 300 false) = true ∧ ∀ j ∈ others 8, isReserveFor 2 .a j = false) ∧
    (then? (exec .protect (protectingAt 4294967295 false [])) (fun t => status t = some .keySpent) = true ∧
      protectsTo (protectingAt 190 false []) (some (.frame 190 .fresh)) false [] = true ∧
      protectsTo (protectingAt 191 false (others 7)) (some (.frame 191 .fresh)) true (others 7 ++ [reserve 512 false]) = true ∧
      protectsTo (protectingAt 191 false (others 8)) (some (.frame 191 .fresh)) false (others 8) = true ∧
      protectsTo (protectingAt 255 false (others 7 ++ [reserve 300 true])) (some (.frame 255 .fresh)) true
        (others 7 ++ [reserve 512 true]) = true) ∧
    protectsTo (protectingAt 256 true [reserve 300 false]) (some .reserve) true [reserve 300 true] = true ∧
    protectsTo (protectingAt 256 false [reserve 300 false]) (some .reserve) true [reserve 512 true] = true ∧
    protectsTo (protectingAt 256 false (others 7)) (some .reserve) true (others 7 ++ [reserve 512 true]) = true ∧
    protectsTo (protectingAt 256 false (others 8)) (some .room) false (others 8) = true :=
  ⟨fun _ _ _ => ⟨⟨rfl, rfl⟩, nofun, rfl, rfl, rfl, rfl, rfl, nofun, rfl, rfl⟩,
    ⟨by decide, by decide, by decide, by decide, rfl, by decide⟩,
    ⟨by decide +kernel, by decide +kernel, by decide +kernel, by decide +kernel, by decide +kernel⟩,
    by decide +kernel, by decide +kernel, by decide +kernel, by decide +kernel⟩

/-- A PROTECT handed over at a generation with use limit 1000 that the value 749 brings to DUE, and that 748 does not. -/
def wearing (n : Nat) : State :=
  holding .protect protectReq (caching (ready 1 .active (some n) 0) (withSlot { SlotImg.blank with
    floor := 1
    cellA := some { live with params := { GenParams.manufacture with useLimit := 1000 }, ceiling := 1024, wear := some 748 } }))

theorem witness_WearClassChangesAreNotified :
    Handed .protect (bytes protectReq) (wearing 749) ∧ (wearing 749).device ≠ .faulted ∧
    parseProtect (bytes protectReq) = .ok ⟨0#64, [], [7#8]⟩ ∧ lookup (wearing 749) 0#64 .unicast = .ok 2 ∧
    (slotOf (wearing 749) 2).quarantined = false ∧ (slotOf (wearing 749) 2).suspended = false ∧
    (genWith (slotOf (wearing 749) 2) .current).map (fun g => (g.1, g.2.params.generation, g.2.ceiling, classOf g.2)) =
      some (.a, 1, 1024, .fresh) ∧
    (wearing 749).cache.bars[(2 : Fin 32)] = none ∧ findEntry (wearing 749) 2 1 = some (ready 1 .active (some 749) 0) ∧
    then? (exec .protect (wearing 749)) (fun t => t.notices == [.wearChanged 2 1 .fresh .due 750]) = true ∧
    then? (exec .protect (wearing 748)) (fun t => t.notices.isEmpty) = true :=
  ⟨⟨rfl, rfl⟩, by decide, rfl, rfl, rfl, rfl, by decide +kernel, rfl, rfl, by decide +kernel, by decide +kernel⟩

/-- Six entries of slots 10 to 15, the least recently taken but one of them unpinned, with this dirty flag. -/
def crowded (dirty : Bool) : List Entry :=
  let e (slot : Fin 32) : Entry := { ready 1 .active (some 7) 3 with slot := slot }
  [e 10, e 11, e 12, e 13, { e 14 with dirty := dirty }, { e 15 with pinPort := true }]

/-- A PROTECT handed over with these entries and so many queued jobs. -/
def evicting (es : List Entry) (jobs : Nat) : State :=
  let s := queued (List.replicate jobs (plainJob (.suspend 9))) framed
  holding .protect protectReq { s with cache := { s.cache with entries := es } }

theorem witness_FillsEvictTheLeastRecentlyTaken :
    (Handed .protect (bytes protectReq) (evicting [] 0) ∧ (evicting [] 0).device ≠ .faulted ∧
      parseProtect (bytes protectReq) = .ok ⟨0#64, [], [7#8]⟩ ∧ lookup (evicting [] 0) 0#64 .unicast = .ok 2 ∧
      genWith (slotOf (evicting [] 0) 2) .current = some (.a, live) ∧ classOf live ≠ .spent ∧
      (evicting [] 0).cache.bars[(2 : Fin 32)] = none ∧ findEntry (evicting (crowded false) 0) 2 1 = none ∧
      (evicting [] 0).cache.waits = []) ∧
    (evicting [] 0).cache.entries.length < 6 ∧
    (∀ dirty, 6 ≤ (crowded dirty).length ∧ (crowded dirty).map (fun e => (evictable e, e.dirty)) =
      [(true, false), (true, false), (true, false), (true, false), (true, dirty), (false, false)]) ∧
    ((evicting (crowded true) 7).writer.queue.length = 7 ∧ (evicting (crowded true) 8).writer.queue.length = 8 ∧
      ∀ j ∈ (evicting (crowded true) 8).writer.queue, isHighFor 14 .a j = false) ∧
    then? (exec .protect (evicting (crowded false) 0)) (fun t => t.cache.entries.map (·.slot) == [2, 10, 11, 12, 13, 15]) = true ∧
    then? (exec .protect (evicting (crowded true) 8)) (fun t => t.cache.waits.map (·.slot) == [2]) = true :=
  ⟨⟨⟨rfl, rfl⟩, by decide, rfl, rfl, rfl, by decide, rfl, rfl, rfl⟩, by decide, fun d => ⟨by cases d <;> decide, by cases d <;> rfl⟩,
    ⟨rfl, rfl, by decide⟩, rfl, rfl⟩

/-- A frame command handed over with a body, at an image of slot 2. -/
def refusing (c : Cmd) (b : List Nat) (img : SlotImg) : State := holding c b (withSlot img)

theorem witness_FrameCommandsAreRefusedInOrder :
    (Handed .protect (bytes [0]) (holding .protect [0] served) ∧ parseProtect (bytes [0]) = .error .badLength) ∧
    (Handed .unprotect (bytes [0]) (holding .unprotect [0] served) ∧ parseUnprotect (bytes [0]) = .error .badLength) ∧
    (Handed .activate (bytes [0]) (holding .activate [0] served) ∧ parseActivate (bytes [0]) = .error .badLength) ∧
    (Handed .protect (bytes protectReq) (holding .protect protectReq served) ∧
      parseProtect (bytes protectReq) = .ok ⟨0#64, [], [7#8]⟩ ∧ lookup served 0#64 .unicast = .error .roleNotBound) ∧
    (lookup (refusing .protect protectReq .blank) 0#64 .unicast = .ok 2 ∧
      (slotOf (refusing .protect protectReq (quarantineImg .blank)) 2).quarantined = true ∧
      (slotOf (refusing .protect protectReq { SlotImg.blank with suspended := true }) 2).suspended = true ∧
      genWith (slotOf (refusing .protect protectReq .blank) 2) .current = none ∧
      (genWith (slotOf (refusing .protect protectReq { SlotImg.blank with cellA := some { live with wear := some 1000 } }) 2)
        .current).map (fun g => classOf g.2) = some .spent) ∧
    (parseUnprotect (bytes (unprotectReq 6)) = .ok ⟨0#64, .unicast, 6, [], [7#8], bytes (z 12)⟩ ∧
      Handed .unprotect (bytes (unprotectReq 6)) (refusing .unprotect (unprotectReq 6) .blank) ∧
      genWith (slotOf (refusing .unprotect (unprotectReq 6) .blank) 2) .current = none) ∧
    (parseActivate (bytes activateReq) = .ok ⟨0#64, .unicast, 2, bytes (z 16)⟩ ∧
      Handed .activate (bytes activateReq) (refusing .activate activateReq .blank)) :=
  ⟨⟨⟨rfl, rfl⟩, by decide +kernel⟩, ⟨⟨rfl, rfl⟩, by decide +kernel⟩, ⟨⟨rfl, rfl⟩, by decide +kernel⟩,
    ⟨⟨rfl, rfl⟩, by decide +kernel, rfl⟩, ⟨rfl, rfl, rfl, rfl, rfl⟩, ⟨by decide +kernel, ⟨rfl, rfl⟩, rfl⟩,
    by decide +kernel, rfl, rfl⟩

/-- Slot 2 is barred by this policy. -/
def barred (a : TamperAct) (s : State) : State := { s with cache := { s.cache with bars := vset s.cache.bars 2 (some a) } }

/-- R79, R94: PROTECT, UNPROTECT and ACTIVATE at a barred slot, and at an entry that carries a cause. -/
theorem witness_FrameCommandsAreRefusedInOrder_cache :
    (let s := holding .protect protectReq (barred .erase framed)
     Handed .protect (bytes protectReq) s ∧ lookup s 0#64 .unicast = .ok 2 ∧ (slotOf s 2).quarantined = false ∧
      (slotOf s 2).suspended = false ∧ genWith (slotOf s 2) .current = some (.a, live) ∧ classOf live ≠ .spent ∧
      s.cache.bars[(2 : Fin 32)] = some .erase ∧
      then? (exec .protect s) (fun t => status t = some .slotErased) = true) ∧
    (let s := holding .unprotect (unprotectReq 6) (barred .suspend framed)
     Handed .unprotect (bytes (unprotectReq 6)) s ∧ lookup s 0#64 .unicast = .ok 2 ∧ s.cache.entries = [] ∧
      s.cache.bars[(2 : Fin 32)] = some .suspend ∧
      then? (exec .unprotect s) (fun t => status t = some .slotSuspended) = true) ∧
    (let s := holding .activate activateReq (barred .erase renewed)
     Handed .activate (bytes activateReq) s ∧ lookup s 0#64 .unicast = .ok 2 ∧ genNumber (slotOf s 2) .staged = some 2 ∧
      s.cache.bars[(2 : Fin 32)] = some .erase ∧
      then? (exec .activateCommand s) (fun t => status t = some .slotErased) = true) ∧
    (let e : Entry := { ready 1 .active (some 7) 0 with pinRenewal := true, withhold := some .erased }
     let s := holding .protect protectReq (caching e framed)
     findEntry s 2 1 = some e ∧ s.cache.bars[(2 : Fin 32)] = none ∧ Withhold.erased ≠ .retired ∧
      then? (exec .protect s) (fun t => status t = some .slotErased) = true) :=
  ⟨⟨⟨rfl, rfl⟩, rfl, rfl, rfl, rfl, by decide, rfl, by decide +kernel⟩, ⟨⟨rfl, rfl⟩, rfl, rfl, rfl, by decide +kernel⟩,
    ⟨⟨rfl, rfl⟩, rfl, rfl, rfl, by decide +kernel⟩, rfl, rfl, by decide, by decide +kernel⟩

theorem witness_FrameProtectEndAnswersTheFrame :
    let s := setExec (.protect protectOp) (computing .port (.frameProtect [] [] [] [7#8])
      (caching { ready 1 .active (some 8) 0 with pinPort := true } framed))
    let w := setExec (.protect protectOp) (computing .port (.frameProtect [] [] [] [7#8])
      (caching { ready 1 .active (some 8) 0 with pinPort := true, withhold := some .erased } framed))
    (running s = true ∧ s.engine.job = some ⟨.port, .frameProtect [] [] [] [7#8], false⟩ ∧
      s.port.exec = .protect protectOp ∧ protectOp.stage = .frame 7 .fresh ∧ causeOf s 2 1 = none) ∧
    causeOf w 2 1 = some .erased ∧ Withhold.erased ≠ .retired := ⟨⟨rfl, rfl, rfl, rfl, rfl⟩, rfl, by decide⟩

/-- An UNPROTECT handed over at an entry with high-water 5. -/
def unprotecting (counter : Nat) : State := holding .unprotect (unprotectReq counter) (caching (ready 1 .active (some 7) 5) framed)

/-- An UNPROTECT handed over in an OVERLAP: the READY entry of the current generation 3 has high-water 5, that of the overlap
generation 1 this one. -/
def twoTrials (counter other : Nat) : State :=
  let s := withSlot { SlotImg.blank with
    floor := 3, cellA := some live
    cellB := some { live with params := { GenParams.manufacture with generation := 3 }, activation := some ⟨2, 0⟩ } }
  holding .unprotect (unprotectReq counter) { s with cache := { s.cache with entries :=
    [{ ready 3 .active (some 7) 5 with cell := .b }, ready 1 .acceptOnly none other] } }

theorem witness_UnprotectComparesWithTheHighWater :
    (Handed .unprotect (bytes (unprotectReq 5)) (unprotecting 5) ∧ (unprotecting 5).device ≠ .faulted ∧
      parseUnprotect (bytes (unprotectReq 5)) = .ok ⟨0#64, .unicast, 5, [], [7#8], bytes (z 12)⟩ ∧
      lookup (unprotecting 5) 0#64 .unicast = .ok 2 ∧ (slotOf (unprotecting 5) 2).quarantined = false ∧
      (slotOf (unprotecting 5) 2).suspended = false ∧ genWith (slotOf (unprotecting 5) 2) .current = some (.a, live) ∧
      phaseOf (slotOf (unprotecting 5) 2) ≠ .overlap ∧ (unprotecting 5).cache.bars[(2 : Fin 32)] = none ∧
      findEntry (unprotecting 5) 2 1 = some (ready 1 .active (some 7) 5) ∧ (5 : Nat) ≤ (ready 1 .active (some 7) 5).h) ∧
    (Handed .unprotect (bytes (unprotectReq 6)) (unprotecting 6) ∧
      parseUnprotect (bytes (unprotectReq 6)) = .ok ⟨0#64, .unicast, 6, [], [7#8], bytes (z 12)⟩ ∧
      (ready 1 .active (some 7) 5).h < 6) ∧
    (∀ counter other, let s := twoTrials counter other
      Handed .unprotect (bytes (unprotectReq counter)) s ∧ s.device ≠ .faulted ∧ lookup s 0#64 .unicast = .ok 2 ∧
      (slotOf s 2).quarantined = false ∧ (slotOf s 2).suspended = false ∧ s.cache.bars[(2 : Fin 32)] = none ∧
      (genWith (slotOf s 2) .current).map (fun g => (g.1, g.2.params.generation)) = some (.b, 3) ∧
      findEntry s 2 3 = some { ready 3 .active (some 7) 5 with cell := .b } ∧
      phaseOf (slotOf s 2) = .overlap ∧ genNumber (slotOf s 2) .overlap = some 1 ∧
      findEntry s 2 1 = some (ready 1 .acceptOnly none other)) ∧
    then? (exec .unprotect (twoTrials 6 9)) (fun t => t.cache.entries.map (fun e => (e.gen, e.pinPort)) ==
      [(3, true), (1, false)]) = true ∧
    then? (exec .unprotect (twoTrials 5 5)) (fun t => status t = some .counterStale) = true ∧
    then? (exec .unprotect (twoTrials 5 4)) (fun t => t.cache.entries.map (fun e => (e.gen, e.pinPort)) ==
      [(1, true), (3, false)]) = true :=
  ⟨⟨⟨rfl, rfl⟩, by decide, rfl, rfl, rfl, rfl, rfl, by decide, rfl, rfl, by decide⟩, ⟨⟨rfl, rfl⟩, rfl, by decide⟩,
    fun _ _ => ⟨⟨rfl, rfl⟩, nofun, rfl, rfl, rfl, rfl, rfl, rfl, rfl, rfl, rfl⟩, rfl, rfl, rfl⟩

/-- The entry of the trial in hand with this cause. -/
def caused (w : Option Withhold) : Entry := { ready 1 .active (some 7) 5 with pinPort := true, withhold := w }

/-- The job runs on a WRITE_THROUGH slot with so many queued jobs. -/
def through (jobs : Nat) : State :=
  tryingWith frame.2 [] (caching (caused none) (queued (List.replicate jobs (plainJob (.suspend 9)))
    (setSlot framed 2 { slotOf framed 2 with mode := .writeThrough })))

/-- The job runs with a wrong tag for the current generation 3; generation 1, in overlap, is left, with this high-water. -/
def lastTrial (h : Nat) : State :=
  let s := withSlot { SlotImg.blank with
    floor := 3, cellA := some live
    cellB := some { live with params := { GenParams.manufacture with generation := 3 }, activation := some ⟨2, 0⟩ } }
  let op := { unprotectOp [⟨1, .overlap⟩] with cell := .b, trial := ⟨3, .current⟩ }
  setExec (.unprotect op) (computing .port (.frameUnprotect [] [] [] frame.1 [])
    { s with cache := { s.cache with entries :=
        [{ caused none with cell := .b, gen := 3 }, { ready 1 .acceptOnly none h with gen := 1 }] } })

theorem witness_FrameUnprotectEndRaisesTheHighWater :
    (running (trying frame.2) = true ∧ (trying frame.2).engine.job = some ⟨.port, .frameUnprotect [] [] [] frame.1 frame.2, false⟩ ∧
      (trying frame.2).port.exec = .unprotect (unprotectOp []) ∧ (unprotectOp []).stage = .frame ∧
      findEntry (trying frame.2) 2 1 = some (caused none) ∧ (slotOf (trying frame.2) 2).mode = .writeBack ∧
      Config.frames.recover [] [] [] frame.1 frame.2 = some [7#8]) ∧
    ((slotOf (through 0) 2).mode = .writeThrough ∧ (through 0).device ≠ .faulted ∧ (through 0).writer.queue.length < 8 ∧
      8 ≤ (through 8).writer.queue.length ∧ (∀ q ∈ (through 8).writer.queue, isHighFor 2 .a q = false) ∧
      then? (exec (.frameUnprotectEnd true) (through 0)) (fun t => t.writer.queue ==
        [⟨.highWater 2 .a 1 6, none, true, false⟩]) = true) ∧
    (Config.frames.recover [] [] [] frame.1 [] = none ∧ (unprotectOp []).rest = [] ∧
      (caused (some .retired)).withhold = some .retired ∧ (caused (some .erased)).withhold = some .erased ∧
      Withhold.erased ≠ .retired) ∧
    (cellHolding (slotOf (lastTrial 5) 2) 1 = some .a ∧ (slotOf (lastTrial 5) 2).quarantined = false ∧
      (lastTrial 5).cache.bars[(2 : Fin 32)] = none ∧ findEntry (lastTrial 5) 2 1 = some (ready 1 .acceptOnly none 5) ∧
      (ready 1 .acceptOnly none 5).h < (unprotectOp []).counter ∧ (unprotectOp []).counter ≤ (ready 1 .acceptOnly none 6).h ∧
      then? (exec (.frameUnprotectEnd false) (lastTrial 5)) (fun t => t.engine.job.isSome) = true ∧
      then? (exec (.frameUnprotectEnd false) (lastTrial 6)) (fun t => status t = some .tagMismatch) = true) :=
  ⟨⟨rfl, rfl, rfl, rfl, rfl, rfl, recover_protect [] [] [] [7#8]⟩,
    ⟨rfl, by decide, by decide, by decide, by decide,
      then_of (exec_frameUnprotectEnd rfl rfl (recover_protect [] [] [] [7#8])) rfl⟩,
    ⟨recover_none_of_length (by decide), rfl, rfl, rfl, by decide⟩,
    rfl, rfl, rfl, rfl, by decide, by decide,
    then_of (exec_frameUnprotectEnd rfl rfl (recover_none_of_length (by decide))) rfl,
    then_of (exec_frameUnprotectEnd rfl rfl (recover_none_of_length (by decide))) rfl⟩

/-- The job runs for generation 3, current beside the overlap 1, whose overlap two acceptances end, after so many. -/
def gracing (progress : Nat) : State :=
  let s := withSlot { SlotImg.blank with
    floor := 3, cellA := some live, graceProgress := progress
    cellB := some { live with
      params := { GenParams.manufacture with generation := 3, graceCount := 2 }, activation := some ⟨2, 0⟩ } }
  setExec (.unprotect { unprotectOp [] with cell := .b, trial := ⟨3, .current⟩ })
    (computing .port (.frameUnprotect [] [] [] frame.1 frame.2) (caching { caused none with cell := .b, gen := 3 } s))

theorem witness_GraceProgressCountsAcceptances :
    (running (gracing 0) = true ∧ (gracing 0).engine.job = some ⟨.port, .frameUnprotect [] [] [] frame.1 frame.2, false⟩ ∧
      findEntry (gracing 0) 2 3 = some { caused none with cell := .b, gen := 3 } ∧
      Config.frames.recover [] [] [] frame.1 frame.2 = some [7#8] ∧
      phaseOf (slotOf (gracing 0) 2) = .overlap ∧ genNumber (slotOf (gracing 0) 2) .current = some 3 ∧
      genNumber (slotOf (gracing 0) 2) .overlap = some 1 ∧ phaseOf (slotOf (trying frame.2) 2) ≠ .overlap ∧
      then? (exec (.frameUnprotectEnd true) (gracing 0)) (fun t => (slotOf t 2).graceProgress == 1) = true ∧
      then? (exec (.frameUnprotectEnd true) (gracing 1)) (fun t => (slotOf t 2).graceProgress == 2 &&
        (liveJobs t).any fun q => q.job == .overlapEnd 2 1 .count) = true ∧
      then? (exec (.frameUnprotectEnd true) (gracing 2)) (fun t => (slotOf t 2).graceProgress == 2) = true) ∧
    (genWith (slotOf (gracing 1) 2) .overlap = some (.a, live) ∧
      then? (exec (.storeWriteReadBack .matched) (writing (.queued (plainJob (.overlapEnd 2 1 .time))) [.cellBody 2 .a .empty] false
        (gracing 1))) (fun t => (slotOf t 2).graceProgress == 0) = true) :=
  ⟨⟨rfl, rfl, rfl, recover_protect [] [] [] [7#8], rfl, rfl, rfl, by decide,
      then_of (exec_frameUnprotectEnd rfl rfl (recover_protect [] [] [] [7#8])) rfl,
      then_of (exec_frameUnprotectEnd rfl rfl (recover_protect [] [] [] [7#8])) rfl,
      then_of (exec_frameUnprotectEnd rfl rfl (recover_protect [] [] [] [7#8])) rfl⟩, rfl, rfl⟩

/-- An ACTIVATE handed over at a slot with a staged generation and its READY entry. -/
def activating : State :=
  holding .activate activateReq (caching { ready 2 .verifyOnly none 0 with cell := .b } renewed)

theorem witness_ActivateAsksForTheTokenCheck :
    (Handed .activate (bytes activateReq) activating ∧ activating.device ≠ .faulted ∧
      parseActivate (bytes activateReq) = .ok ⟨0#64, .unicast, 2, bytes (z 16)⟩ ∧
      lookup activating 0#64 .unicast = .ok 2 ∧ (slotOf activating 2).quarantined = false ∧
      (slotOf activating 2).suspended = false ∧ genWith (slotOf activating 2) .staged = some (.b, staged) ∧
      staged.params.generation = 2 ∧ activating.cache.bars[(2 : Fin 32)] = none ∧
      findEntry activating 2 2 = some { ready 2 .verifyOnly none 0 with cell := .b }) ∧
    genWith (slotOf (holding .activate activateReq framed) 2) .staged = none :=
  ⟨⟨⟨rfl, rfl⟩, by decide, by decide +kernel, rfl, rfl, rfl, rfl, rfl, rfl, rfl⟩, rfl⟩

theorem witness_TokenCheckEndQueuesTheActivate :
    (running (checking []) = true ∧ (checking []).engine.job = some ⟨.port, .token [] [] [], false⟩ ∧
      (checking []).port.exec = .activate ⟨2, .b, 2, [], .token⟩ ∧ ([] : List Byte) ≠ cmac [] []) ∧
    (let s := checking (cmac [] [])
     s.engine.job = some ⟨.port, .token [] [] (cmac [] []), false⟩ ∧ s.port.exec = .activate ⟨2, .b, 2, cmac [] [], .token⟩ ∧
       causeOf s 2 2 = none ∧ genNumber (slotOf s 2) .staged = some 2 ∧ s.warning.taken = false ∧
       s.writer.queue.length < 8 ∧ s.device ≠ .faulted) ∧
    ([Withhold.retired, .erased, .suspended, .quarantined].all fun w => causeOf (checkingUnder w) 2 2 == some w) = true ∧
    (let s := { checking (cmac [] []) with slots := framed.slots }
     causeOf s 2 2 = none ∧ genNumber (slotOf s 2) .staged ≠ some 2) ∧
    ({ checking (cmac [] []) with warning := ⟨true, false⟩ } : State).warning.taken = true :=
  ⟨⟨rfl, rfl, rfl, ne_cmac_of_length (by decide)⟩, ⟨rfl, rfl, rfl, rfl, rfl, by decide, by decide⟩, rfl, ⟨rfl, by decide +kernel⟩, rfl⟩

/-- The engine and its lines. -/
def engined (e : Engine) : State := { served with engine := e }

theorem witness_EngineGrantAlternates :
    running served = true ∧ (engined ⟨some ⟨.port, .fill 0 .a 1, false⟩, none, none, .port⟩).engine.job.isSome = true ∧
    (let e := (engined ⟨none, some (.fill 0 .a 1), some (.fill 1 .a 1), .renewal⟩).engine
     e.job = none ∧ e.portLine = some (.fill 0 .a 1) ∧ e.last = .renewal) ∧
    (let e := (engined ⟨none, some (.fill 0 .a 1), some (.fill 1 .a 1), .port⟩).engine
     e.job = none ∧ e.renewalLine = some (.fill 1 .a 1) ∧ e.last = .port) ∧
    (let e := (engined ⟨none, none, some (.fill 1 .a 1), .renewal⟩).engine
     e.portLine = none ∧ e.renewalLine = some (.fill 1 .a 1)) ∧
    (served.engine.portLine = none ∧ served.engine.renewalLine = none) :=
  ⟨rfl, rfl, ⟨rfl, rfl, rfl⟩, ⟨rfl, rfl, rfl⟩, ⟨rfl, rfl⟩, rfl, rfl⟩

theorem witness_FillEndMakesReadyOrQuarantines :
    let s := computing .port (.fill 0 .a 1) (caching (fillingEntry .port 0 .a 1) served)
    running s = true ∧ s.engine.job = some ⟨.port, .fill 0 .a 1, false⟩ ∧
      findEntry s 0 1 = some (fillingEntry .port 0 .a 1) ∧ (fillingEntry .port 0 .a 1).filling = true ∧
      (fillingEntry .port 0 .a 1).cell = .a ∧ (fillingEntry .port 0 .a 1).withhold = none ∧
      storedKey s 0 .a = some (List.replicate 32 0#8) ∧
      cellOf (slotOf s 0) .a = some ⟨.manufacture, some ⟨1, 0⟩, 256, 0, false, none⟩ ∧
      roleIn (slotOf s 0) .a = some .current ∧ storedKey spoiltFill 0 .a = none ∧
      findEntry spoiltFill 0 1 = some (fillingEntry .port 0 .a 1) :=
  ⟨rfl, rfl, rfl, rfl, rfl, rfl, storedKey_stored (r := ⟨.manufacture, List.replicate 32 0#8⟩) rfl, rfl, rfl, storedKey_invalid rfl, rfl⟩

/-- The READY AUTHORITY entry of the commissioning party. -/
def signing : Entry := { ready 1 .active (some 256) 0 with slot := 1 }

/-- An ARM bundle with this sequence number and last byte of the signer is at the head of the queue. -/
def presented (sequence signer : Nat) : State :=
  caching signing (closed ([5, 0, 0, 0, sequence] ++ z 7 ++ [signer] ++ z 35))

/-- The bundle of `presented`. -/
def presentedBundle (sequence signer : Nat) : Option Bundle := parseBundle (ctxOf (presented sequence signer) 0).buffer

/-- The ARM bundle at the head of the queue, with these entries, so many queued jobs of another slot and these. -/
def presentedTo (es : List Entry) (k : Nat) (jobs : List QJob) : State :=
  let s := queued (others k ++ jobs) (closed armBundle)
  { s with cache := { s.cache with entries := es } }

/-- After CONTEXT_TAKEN: the slots of the entries, how many jobs are queued and how many fills wait. -/
def takenWith (s : State) (slots : List (Fin 32)) (jobs waits : Nat) : Bool :=
  then? (exec .contextTaken s) fun t =>
    t.cache.entries.map (·.slot) == slots && t.writer.queue.length == jobs && t.cache.waits.length == waits &&
    t.renewal.verif.any (·.stage == .authEntry)

theorem witness_ContextTakenBeginsVerification :
    (running (closed (6 :: z 47)) = true ∧ (closed (6 :: z 47)).device = .serving ∧
      (closed (6 :: z 47)).renewal.verif = none ∧ (closed (6 :: z 47)).renewal.queue = 0 :: [] ∧
      parseBundle (ctxOf (closed (6 :: z 47)) 0).buffer = none) ∧
    ((presentedBundle 1 9).map (fun b => findParty (presented 1 9) b.signer) = some none) ∧
    ((presentedBundle 0 0).map (fun b => (b.sequence, findParty (presented 0 0) b.signer)) = some (0, some 0) ∧
      boundSlot (presented 0 0) 0 .authority = some 1 ∧ usableGen (presented 0 0) 1 = some (.a, 1) ∧
      (assocOf (presented 0 0) 0).floor.getD 0 = 0) ∧
    ((presentedBundle 1 0).map (fun b => (b.sequence, findParty (presented 1 0) b.signer,
        authorised (presented 1 0) .commissioning b.body)) = some (1, some 0, true) ∧
      (presented 1 0).cache.bars[(1 : Fin 32)] = none ∧ findEntry (presented 1 0) 1 1 = some signing) ∧
    (findEntry (closed armBundle) 1 1 = none ∧ (closed armBundle).cache.entries.length < 6 ∧ (closed armBundle).cache.waits = []) ∧
    (then? (exec .contextTaken (presentedTo [{ signing with withhold := some .suspended, pinPort := true }] 0 []))
        (fun t => t.notices == [.renewalFinished 0 .signerUnavailable]) = true ∧
      takenWith (presentedTo [{ signing with filling := true, pinPort := true }] 0 []) [1] 0 0 = true ∧
      (let s := presentedTo [] 0 []
       takenWith { s with cache := { s.cache with waits := [⟨1, .a, 1, true, false, .port⟩] } } [] 0 1) = true) ∧
    (∀ dirty, 6 ≤ (crowded dirty).length ∧ findEntry (presentedTo (crowded dirty) 0 []) 1 1 = none ∧
      (crowded dirty).map (fun e => (evictable e, e.dirty)) =
        [(true, false), (true, false), (true, false), (true, false), (true, dirty), (false, false)]) ∧
    (takenWith (presentedTo (crowded false) 8 []) [1, 10, 11, 12, 13, 15] 8 0 = true ∧
      takenWith (presentedTo (crowded true) 7 [plainJob (.highWater 14 .a 1 2)]) [1, 10, 11, 12, 13, 15] 8 0 = true ∧
      takenWith (presentedTo (crowded true) 7 []) [1, 10, 11, 12, 13, 15] 8 0 = true ∧
      takenWith (presentedTo (crowded true) 8 []) [10, 11, 12, 13, 14, 15] 8 1 = true) ∧
    (boundSlot (setAssoc served 0 { assocOf served 0 with bindings := .all none }) 0 .authority = none ∧
      usableGen (setSlot served 1 (quarantineImg (slotOf served 1))) 1 = none ∧
      authorised served .installer (.revoke 0#64 none) = false) :=
  ⟨⟨rfl, rfl, rfl, rfl, rfl⟩, rfl, ⟨rfl, rfl, rfl, rfl⟩, ⟨rfl, rfl, rfl⟩, ⟨rfl, by decide, rfl⟩,
    ⟨by decide +kernel, by decide +kernel, by decide +kernel⟩, fun d => ⟨by cases d <;> decide, by cases d <;> rfl, by cases d <;> rfl⟩,
    ⟨by decide +kernel, by decide +kernel, by decide +kernel, by decide +kernel⟩, rfl, rfl, rfl⟩

/-- A verification of a bundle of the commissioning party with this body. -/
def bodyVerif (body : BundleBody) (stage : VerifStage) : Verif :=
  { armVerif stage with bundle := ⟨1, 0#64, body, [], cmac [] []⟩ }

/-- Its tag check runs on this tag. -/
def tagging (body : BundleBody) (tag : List Byte) (s : State) : State :=
  caching signing (computing .renewal (.bundleTag [] [] tag) (verifying (bodyVerif body .tagCheck) s))

/-- The end of a passing tag check fails the context with an outcome. -/
def failsWith (body : BundleBody) (c : Code) (s : State) : Bool :=
  then? (exec (.bundleTagCheckEnd true) (tagging body (cmac [] []) s)) fun t =>
    (ctxOf t 0).result.map (·.outcome) == some c

/-- The jobs that are planned at the end of a passing tag check. -/
def plansJobs (body : BundleBody) (jobs : List StoreJob) (s : State) : Bool :=
  then? (exec (.bundleTagCheckEnd true) (tagging body (cmac [] []) s)) fun t =>
    (t.renewal.verif.map fun v => (v.stage, v.plan)) == some (.receipt, jobs)

/-- An enrolment of this party at an index with a slot for UNICAST. -/
def enrolling (index : Fin 8) (party : Id64) (cls : PartyClass) (slot : Fin 32) : BundleBody :=
  .enrol index party cls ⟨.bind slot .keep .writeBack, .leave, .leave, .leave⟩

theorem witness_TagCheckEndGoesToTheKindChecks :
    (let s := tagging (.arm (Inputs.all none)) [] served
     running s = true ∧ s.device ≠ .faulted ∧ s.engine.job = some ⟨.renewal, .bundleTag [] [] [], false⟩ ∧
      s.renewal.verif = some (bodyVerif (.arm (Inputs.all none)) .tagCheck) ∧ (ctxOf s 0).dropPending = false ∧
      findEntry s 1 1 = some signing ∧ signing.withhold = none ∧ ([] : List Byte) ≠ cmac [] []) ∧
    (findParty framed 7#64 = none ∧ findParty framed 0#64 = some 0 ∧ boundSlot framed 0 .unicast = some 2) ∧
    (duplicateParty framed 1 0#64 = true ∧ duplicateParty framed 1 9#64 = false ∧
      slotConflict framed 1 ⟨some 2, none, none, none⟩ .unicast = true ∧
      slotNotEmpty framed 0 ⟨none, none, some 0, some 1⟩ = true ∧
      rolesAllowed .switch ⟨none, none, none, some 9⟩ = false ∧ rolesAllowed .switch ⟨some 9, none, none, none⟩ = true) :=
  ⟨⟨rfl, by decide, rfl, rfl, rfl, rfl, rfl, ne_cmac_of_length (by decide)⟩, ⟨rfl, rfl, rfl⟩, rfl, rfl, rfl, rfl, rfl, rfl⟩

theorem passing_tag (body : BundleBody) (s : State) (h : running s = true) :
    exec (.bundleTagCheckEnd true) (tagging body (cmac [] []) s) =
      settled (renewalJobEnd false .tagCheck (fun v => tagEnd v true) (engineFree (tagging body (cmac [] []) s))) :=
  exec_bundleTagCheckEnd (show running (tagging body (cmac [] []) s) = true from h) rfl (beq_self_eq_true _)

/-- An INSTALL of generation 2 for slot 2 whose target, floor or signer has been changed. -/
theorem witness_InstallIsCheckedAtItsTarget :
    (let i := installBody .immediate
     (lookup framed i.target i.role = .ok 2 ∧ (slotOf framed 2).floor ≠ 65535 ∧ (slotOf framed 2).floor < i.generation ∧
       genNumber (slotOf framed 2) .staged = none ∧ boundSlot framed 0 .kek = some 0 ∧
       usableGen framed 0 = some (.a, 1) ∧ framed.cache.bars[(0 : Fin 32)] = none) ∧
     (findParty framed 7#64 = none ∧ boundSlot served 0 .unicast = none ∧ i.generation ≤ (slotOf renewed 2).floor ∧
       genNumber (slotOf renewed 2) .staged = some 2 ∧
       usableGen (setSlot framed 0 (quarantineImg (slotOf framed 0))) 0 = none)) ∧
    failsWith (.install (installBody .immediate)) .roleNotBound served = true ∧
    failsWith (.install (installBody .immediate)) .staleGeneration renewed = true ∧
    failsWith (.install (installBody .immediate)) .unwrapFailed (setSlot framed 0 (quarantineImg (slotOf framed 0))) = true ∧
    failsWith (.install { installBody .immediate with target := 7#64 }) .targetUnknown framed = true :=
  ⟨⟨⟨rfl, by decide, by decide, rfl, rfl, rfl, rfl⟩, rfl, rfl, by decide, rfl, rfl⟩, then_of (passing_tag _ _ rfl) rfl,
    then_of (passing_tag _ _ rfl) rfl, then_of (passing_tag _ _ rfl) rfl, then_of (passing_tag _ _ rfl) rfl⟩

theorem test_tag_check_end_plans_a_revocation :
    plansJobs (.revoke 0#64 (some .unicast)) [.revokeSlot 2 false] framed = true := then_of (passing_tag _ _ rfl) rfl

theorem witness_KeyUnwrapEndPlansTheStage :
    (let s := unwrapping []
     running s = true ∧ s.device ≠ .faulted ∧ s.engine.job = some ⟨.renewal, .keyUnwrap [] [], false⟩ ∧
      s.renewal.verif = some installVerif ∧ installVerif.stage = .keyUnwrap ∧
      installVerif.bundle.body = .install (installBody .immediate) ∧ installVerif.target = some (2, ⟨0, .unicast⟩) ∧
      (ctxOf s installVerif.ctx).dropPending = false ∧ Config.keyWrap.recover [] [] = none) ∧
    (let w := Config.keyWrap.wrap [] (bytes (z 16))
     (unwrapping w).engine.job = some ⟨.renewal, .keyUnwrap [] w, false⟩ ∧
      Config.keyWrap.recover [] w = some (bytes (z 16))) ∧
    (installBody .immediate).rule = .immediate ∧ (installBody .onCommand).rule ≠ .immediate :=
  ⟨⟨rfl, by decide, rfl, rfl, rfl, rfl, rfl, rfl, unwrap_none_of_length (by decide)⟩, ⟨rfl, unwrap_wrap _ _⟩, rfl, by decide⟩

theorem witness_ReceiptEndMakesTheContextStoring :
    let s := computing .renewal (.receipt [] []) (verifying (armVerif .receipt) served)
    running s = true ∧ s.device ≠ .faulted ∧ s.engine.job = some ⟨.renewal, .receipt [] [], false⟩ ∧
      s.renewal.verif = some (armVerif .receipt) ∧ (armVerif .receipt).stage = .receipt ∧
      (ctxOf s 0).dropPending = false := ⟨rfl, by decide, rfl, rfl, rfl, rfl⟩

/-- A tamper work list waits for the Store Writer. -/
def tampered : State :=
  { served with writer := { served.writer with
      tamper := some ⟨[.slot 2 .suspend, .closing], eventRecord .live served [], [], [], false⟩ } }

/-- The list has this item first, and the device is in this state. -/
def working (it : TamperItem) (d : DevState) : State :=
  { inState d with writer := { served.writer with
      tamper := some ⟨[it, .closing], eventRecord .live served [], [], [], false⟩ } }

/-- The flush list writes the h of a dirty entry, for this generation. -/
def flushing (gen : Nat) : State :=
  let s := caching { ready 1 .active (some 7) 5 with dirty := true } framed
  { s with device := .holding .power, writer := { s.writer with flush := [⟨2, .a, gen, 0, true⟩] } }

theorem witness_JobTakeFollowsTheSources :
    (running tampered = true ∧ tampered.writer.job = none ∧ tampered.device ≠ .faulted ∧
      tampered.writer.tamper.map (·.items) = some (.slot 2 .suspend :: [.closing])) ∧
    ((working .opening .serving).writer.tamper.map (·.items) = some (.opening :: [.closing]) ∧
      (working (.slot 2 .erase) .faulted).writer.tamper.map (·.items) = some (.slot 2 .erase :: [.closing]) ∧
      (working .closing .loading).writer.tamper.map (·.items) = some (.closing :: [.closing])) ∧
    ((flushing 1).writer.tamper = none ∧ (flushing 1).writer.flush = [⟨2, .a, 1, 0, true⟩] ∧
      servingOrHolding (flushing 1) = true ∧ findEntry (flushing 1) 2 1 = some { ready 1 .active (some 7) 5 with dirty := true } ∧
      counterStands (flushing 1) 2 .a 1 = true ∧ cellOf (slotOf (flushing 1) 2) .a = some live ∧ live.highWater < 5 ∧
      counterStands (flushing 7) 2 .a 7 = false ∧
      then? (exec .jobTake (flushing 1)) (fun t => t.writer.job.map (·.task) == some (.flush ⟨2, .a, 1, 5, false⟩)) = true) ∧
    (let s := queued [plainJob .hour] served
     s.writer.tamper = none ∧ s.writer.flush = [] ∧ s.writer.queue = plainJob .hour :: [] ∧ s.device = .serving ∧
       verdict s (plainJob .hour).job = .write (.strip 0 0 :: [])) ∧
    (served.writer.queue = [] ∧ (queued [plainJob .hour] (inState (.holding .power))).device = .holding .power) ∧
    ((working .closing .faulted).device = .faulted ∧
      then? (exec .jobTake (working .closing .faulted)) (fun t => t.writer.job.isNone) = true) :=
  ⟨⟨rfl, rfl, by decide, rfl⟩, ⟨rfl, rfl, rfl⟩, ⟨rfl, rfl, rfl, rfl, rfl, rfl, by decide, rfl, rfl⟩, ⟨rfl, rfl, rfl, rfl, rfl⟩,
    ⟨rfl, rfl⟩, rfl, rfl⟩

/-- This job of context 0 is at the head of the queue. -/
def taking (j : StoreJob) (s : State) : State :=
  queued [⟨j, some 0, false, false⟩] (context { Ctx.idle with state := .storing } s)

/-- The writes that the Store Writer holds after it has taken a job. -/
def takes (j : StoreJob) (s : State) : Option (List ArrayWrite) :=
  match exec .jobTake (taking j s) with
  | .next t => t.writer.job.map (·.writes)
  | .fault _ | .refused _ => none

/-- The outcome of context 0 after the Store Writer has taken its job. -/
def dropsTo (j : StoreJob) (s : State) : Option Code :=
  match exec .jobTake (taking j s) with
  | .next t => (ctxOf t 0).result.map (·.outcome)
  | .fault _ | .refused _ => none

/-- The writes of a STAGE of a generation into a cell of slot 2 with incoming floor 3 (Table 9-2). -/
def stageInto (c : CellId) (gen : Nat) : List ArrayWrite :=
  [.activation 2 c none, .ceiling 2 c false 256, .ceiling 2 c true 256, .highWater 2 c false 3, .highWater 2 c true 3,
    .cellBody 2 c (.gen (stageBody gen).stored), .floor 2 true gen]

/-- Slot 2 QUARANTINED. -/
def spoilt : State := setSlot framed 2 (quarantineImg (slotOf framed 2))

/-- Cell B of slot 2 is EMPTY in the image, and the array still holds a body there. -/
def leftOver (b : CellBody) : State := { framed with array := updCellRec framed.array 2 .b fun r => { r with body := b } }

/-- R175, R179: a cell that is EMPTY in the image alone is emptied first. -/
theorem witness_JobTakeFollowsTheSources_leftOver :
    (StagesInto (slotOf framed 2) .b ∧ cellOf (slotOf framed 2) .b = none ∧ (storedCell framed 2 .b).body = .empty) ∧
    (cellOf (slotOf (leftOver .invalid) 2) .b = none ∧ (storedCell (leftOver .invalid) 2 .b).body ≠ .empty) ∧
    takes (.stage 2 ⟨0, .unicast⟩ (stageBody 2) 3) (leftOver .invalid) = some (.cellBody 2 .b .empty :: stageInto .b 2) ∧
    takes (.stage 2 ⟨0, .unicast⟩ (stageBody 2) 3) (leftOver (.gen (stageBody 1).stored)) =
      some (.cellBody 2 .b .empty :: stageInto .b 2) :=
  ⟨⟨⟨rfl, rfl⟩, rfl, rfl⟩, ⟨rfl, by decide⟩, rfl, rfl⟩

/-- Table 9-2, for the jobs of a slot. -/
theorem witness_JobTakeFollowsTheSources_slots :
    (takes (.stage 2 ⟨0, .unicast⟩ (stageBody 2) 3) framed = some (stageInto .b 2) ∧
      takes (.stage 2 ⟨0, .unicast⟩ (stageBody 3) 3) renewed = some (.cellBody 2 .b .empty :: stageInto .b 3) ∧
      takes (.stage 2 ⟨0, .unicast⟩ (stageBody 2) 3) spoilt = some
        (.cellBody 2 .a .empty :: .cellBody 2 .b .empty :: .headerBody 2 ⟨some ⟨0, .unicast⟩, .keep, .writeBack, false⟩ ::
          stageInto .a 2)) ∧
    (takes (.activate 2 2) renewed = some [.activation 2 .b (some ⟨2, 0⟩), .cellBody 2 .a .empty] ∧
      takes (.activate 2 2) (setSlot renewed 2 { slotOf renewed 2 with cellA := none }) =
        some [.activation 2 .b (some ⟨1, 0⟩)]) ∧
    takes (.overlapEnd 2 1 .time) atHour = some [.cellBody 2 .a .empty] ∧
    takes (.revokeSlot 2 true) framed = some [.headerBody 2 ⟨none, .keep, .writeBack, false⟩, .floor 2 true 1,
      .cellBody 2 .a .empty, .cellBody 2 .b .empty] ∧
    takes (.suspend 2) framed = some [.headerBody 2 ⟨some ⟨0, .unicast⟩, .keep, .writeBack, true⟩] ∧
    takes (.resume 2) framed = some [.headerBody 2 ⟨some ⟨0, .unicast⟩, .keep, .writeBack, false⟩] ∧
    takes (.header 9 none .erase .writeThrough) framed = some [.headerBody 9 ⟨none, .erase, .writeThrough, false⟩] ∧
    (takes (.reserve 2 .a 1 257) framed = some [.ceiling 2 .a false 257] ∧ takes (.reserve 2 .a 1 256) framed = none) ∧
    (takes (.highWater 2 .a 1 1) framed = some [.highWater 2 .a false 1] ∧ takes (.highWater 2 .a 1 0) framed = none) ∧
    takes (.cellRepair 2 .b) framed = some [.cellBody 2 .b .empty] ∧
    takes (.floorRepair 2) framed = some [.floor 2 true 1] :=
  ⟨⟨rfl, rfl, rfl⟩, ⟨rfl, rfl⟩, rfl, rfl, rfl, rfl, rfl, ⟨rfl, rfl⟩, ⟨rfl, rfl⟩, rfl, rfl⟩

/-- Entry 1 without a floor. -/
def floorless : State := setAssoc framed 1 (.blank none)

/-- Table 9-2, for the other jobs. -/
theorem witness_JobTakeFollowsTheSources_entries :
    takes .hour { framed with clock := ⟨0, 7⟩ } = some [.strip 0 7] ∧
    takes (.association 1 .empty) framed = some [.assocBody 1 emptyBody] ∧
    (takes (.association 1 (.enrol 7#64 .switch ⟨.bind 9 .keep .writeBack, .unbind, .leave, .leave⟩)) framed =
        some [.assocBody 1 ⟨true, 7#64, .switch, ⟨some 9, none, none, none⟩⟩] ∧
      takes (.association 1 (.enrol 7#64 .switch (Roles.all .leave))) floorless =
        some [.assocFloor 1 false 0, .assocFloor 1 true 0, .assocBody 1 ⟨true, 7#64, .switch, Roles.all none⟩]) ∧
    takes (.bundleFloor 0 0#64 .commissioning 1) framed = some [.assocFloor 0 true 1] ∧
    (takes (.armRecord (Inputs.all none)) framed = some [.arm false ⟨Inputs.all none, 2⟩] ∧
      takes (.armRecord (Inputs.all none)) { framed with monitor := { framed.monitor with armLost := true } } =
        some [.arm false ⟨Inputs.all none, 0⟩]) :=
  ⟨rfl, rfl, ⟨rfl, rfl⟩, rfl, rfl, rfl⟩

/-- R13, R14, R16, R18, R22, R23, R69, R72, R171, R188: each reason of a drop. -/
theorem witness_JobTakeFollowsTheSources_drops :
    (dropsTo (.stage 2 ⟨0, .unicast⟩ (stageBody 1) 0) framed = some .staleGeneration ∧
      dropsTo (.stage 2 ⟨0, .kek⟩ (stageBody 2) 0) framed = some .roleNotBound) ∧
    (dropsTo (.activate 2 3) renewed = some .notStaged ∧
      dropsTo (.activate 2 2) (setSlot renewed 2 (quarantineImg (slotOf renewed 2))) = some .notStaged) ∧
    (dropsTo (.header 2 none .keep .writeBack) framed = some .slotNotEmpty ∧
      dropsTo (.header 2 (some ⟨0, .kek⟩) .keep .writeBack) framed = some .slotBound) ∧
    (dropsTo (.association 1 (.enrol 0#64 .switch (Roles.all .leave))) framed = some .duplicateParty ∧
      dropsTo (.association 1 (.enrol 7#64 .switch ⟨.leave, .leave, .bind 9 .keep .writeBack, .leave⟩)) framed =
        some .roleNotAllowed ∧
      dropsTo (.association 1 (.enrol 7#64 .switch ⟨.bind 2 .keep .writeBack, .leave, .leave, .leave⟩)) framed =
        some .slotBound ∧
      dropsTo (.association 0 (.enrol 7#64 .headEnd ⟨.unbind, .leave, .leave, .leave⟩)) framed = some .slotNotEmpty) ∧
    (dropsTo (.bundleFloor 0 0#64 .headEnd 1) framed = some .signerUnknown ∧
      dropsTo (.bundleFloor 0 0#64 .commissioning 0) framed = some .staleBundle) ∧
    dropsTo (.armRecord ⟨some .high, none, none, none⟩) (armedFor .low framed) = some .notMatching ∧
    (exec .jobTake (queued [plainJob (.overlapEnd 2 1 .time)] framed) = .next framed ∧
      exec .jobTake (queued [plainJob (.reserve 2 .a 2 300)] framed) = .next framed ∧
      exec .jobTake (queued [plainJob (.highWater 2 .b 1 3)] framed) = .next framed ∧
      exec .jobTake (queued [plainJob (.cellRepair 2 .a)] framed) = .next framed ∧
      exec .jobTake (queued [plainJob (.floorRepair 2)] spoilt) = .next spoilt) :=
  ⟨⟨rfl, rfl⟩, ⟨rfl, rfl⟩, ⟨rfl, rfl⟩, ⟨rfl, rfl, rfl, rfl⟩, ⟨rfl, rfl⟩, rfl, rfl, rfl, rfl, rfl, rfl⟩

/-- The jobs that this command waits on find their generation gone. -/
def gone (e : Executor) (j : StoreJob) (w : Option Withhold) (s : State) : Option Code :=
  match exec .jobTake (setExec e (queued [⟨j, none, true, false⟩] (caching (caused w) s))) with
  | .next t => status t
  | .fault _ | .refused _ => none

/-- R44, R111, R158: the answers to a command whose job is dropped; R46, R51: a job that makes no write. -/
theorem witness_JobTakeFollowsTheSources_waiters :
    (let p := Executor.protect { protectOp with stage := .reserve }
     gone p (.reserve 2 .b 1 300) none framed = some .generationRetired ∧
       gone p (.reserve 2 .b 1 300) (some .erased) framed = some .slotErased ∧
       gone p (.reserve 2 .a 1 300) none spoilt = some .slotQuarantined) ∧
    (let u := Executor.unprotect { unprotectOp [] with stage := .high }
     gone u (.highWater 2 .b 1 9) none framed = some .ok ∧ gone u (.highWater 2 .b 1 9) (some .retired) framed = some .ok ∧
       gone u (.highWater 2 .b 1 9) (some .erased) framed = some .slotErased ∧
       gone u (.highWater 2 .a 1 9) none spoilt = some .slotQuarantined ∧
       gone u (.highWater 2 .a 1 0) none framed = some .ok) ∧
    gone (.activate ⟨2, .b, 2, [], .store⟩) (.activate 2 2) none framed = some .notStaged ∧
    (then? (exec .jobTake (queued [plainJob (.reserve 2 .a 1 256)]
        (caching { ready 1 .active (some 256) 0 with resvPending := true } framed)))
      (fun t => t.cache.entries == [ready 1 .active (some 256) 0] && t.writer == framed.writer) = true ∧
      then? (exec .jobTake (queued [plainJob (.highWater 2 .a 1 0)]
        (caching { ready 1 .active (some 7) 0 with dirty := true, flushReq := true } framed)))
      (fun t => t.cache.entries == [ready 1 .active (some 7) 0]) = true) :=
  ⟨⟨rfl, rfl, rfl⟩, ⟨rfl, rfl, rfl, rfl, rfl⟩, rfl, rfl, rfl⟩

/-- A STAGE of a STORING context is at the head of the queue. -/
def staging (gen : Nat) (role : Role) : State :=
  queued [⟨.stage 2 ⟨0, role⟩ (stageBody gen) 0, some 0, false, false⟩]
    (context { Ctx.idle with state := .storing } framed)

theorem witness_StageIsRevalidatedAtTheTake :
    (running (staging 1 .unicast) = true ∧ (staging 1 .unicast).writer.job = none ∧
      (staging 1 .unicast).writer.tamper = none ∧ (staging 1 .unicast).writer.flush = [] ∧
      (staging 1 .unicast).device = .serving ∧ (ctxOf (staging 1 .unicast) 0).state = .storing ∧
      (stageBody 1).params.generation ≤ (slotOf (staging 1 .unicast) 2).floor) ∧
    ((slotOf (staging 2 .kek) 2).floor < (stageBody 2).params.generation ∧
      genNumber (slotOf (staging 2 .kek) 2) .staged = none ∧ (slotOf (staging 2 .kek) 2).binding ≠ some ⟨0, .kek⟩) ∧
    (slotOf (staging 2 .unicast) 2).binding = some ⟨0, .unicast⟩ ∧
    genNumber (slotOf renewed 2) .staged = some 2 :=
  ⟨⟨rfl, rfl, rfl, rfl, rfl, rfl, by decide⟩, ⟨by decide, rfl, by decide⟩, rfl, rfl⟩

/-- A PROTECT waits for room. -/
def roomWanted : State := setExec (.protect { protectOp with stage := .room }) framed

/-- Who may wait for room: nobody before the place of the order that is asked about. -/
theorem no_command {s t : State} (h : s.port.exec = .free) : ¬ServesCommand s t := by simp [ServesCommand, h]
theorem no_fill {s t : State} {b : Bool} (h : s.cache.waits = []) : ¬ServesFill b s t := by
  rintro ⟨before, w, after, _, _, hw, _⟩
  simp [h] at hw
theorem no_flush {s t : State} (h : s.cache.entries = []) : ¬ServesFlush s t := by
  rintro ⟨newer, e, older, _, he, _⟩
  simp [h] at he
theorem no_mark {s t : State} (h : ∀ i, (slotOf s i).repairA = false ∧ (slotOf s i).repairB = false ∧
    (slotOf s i).repairFloor = false ∧ (slotOf s i).actDue = none ∧ (slotOf s i).ovlDue = none) : ¬ServesMark s t := by
  rintro ⟨_, i, job, img, hm, _⟩
  obtain ⟨a, b, c, d, e⟩ := h i
  simp [MarkCalls, a, b, c, d, e] at hm
theorem no_context {s t : State} (h : s.renewal.storing = []) : ¬ServesContext s t := by
  rintro ⟨_, before, i, after, _, _, _, hs, _⟩
  simp [h] at hs
theorem no_hour {s t : State} (h : s.writer.stripPending = false) : ¬ServesHour s t := by simp [ServesHour, h]

/-- No mark of manufacture calls for a job. -/
theorem served_marks (i : Fin 32) : (slotOf served i).repairA = false ∧ (slotOf served i).repairB = false ∧
    (slotOf served i).repairFloor = false ∧ (slotOf served i).actDue = none ∧ (slotOf served i).ovlDue = none := by
  revert i; decide +kernel

/-- A Renewal Engine fill waits for room. -/
def fillWanted (port : Bool) : State :=
  { served with cache := { served.cache with waits := [⟨1, .a, 1, port, true, .renewal⟩] } }

/-- An entry is flush-requested. -/
def flushWanted : State := caching { ready 1 .active (some 7) 5 with dirty := true, flushReq := true } served

/-- Cell A of slot 31 is to be repaired. -/
def repairWanted : State := setSlot served 31 { slotOf served 31 with repairA := true }

/-- A STORING context has a job to queue. -/
def jobWanted : State :=
  let s := context { Ctx.idle with state := .storing, jobs := [(.suspend 2, .queued), (.resume 2, .notQueued)] } served
  { s with renewal := { s.renewal with storing := [0] } }

/-- The strip-pending mark is set. -/
def hourWanted : State := { served with writer := { served.writer with stripPending := true } }

/-- The drain of a HOLD is met as soon as nothing is under way. -/
theorem drainMet_served (b : Bool) : DrainMet (setExec (.hold b) served) := by
  refine ⟨rfl, rfl, rfl, ⟨rfl, fun i job img hm => ?_, nofun, rfl⟩, nofun⟩
  obtain ⟨h1, h2, h3, h4, h5⟩ := served_marks i
  have hs : MarkCalls served i job img := hm
  simp [MarkCalls, h1, h2, h3, h4, h5] at hs

theorem witness_HoldWaitsForItsDrain :
    (running (holding .hold [] served) = true ∧ (holding .hold [] served).device = .serving ∧
      (holding .hold [] served).port.exec = .handed .hold []) ∧
    (ctxOf (holding .hold [] (context { Ctx.idle with state := .closed } served)) 0).state = .closed ∧
    (∀ i, (ctxOf (holding .hold [] served) i).state ≠ .closed ∧ (ctxOf (holding .hold [] served) i).state ≠ .verifying ∧
      (ctxOf (holding .hold [] served) i).state ≠ .storing) ∧
    (∀ b, (setExec (.hold b) served).port.exec = .hold b ∧ DrainMet (setExec (.hold b) served)) ∧
    (¬DrainMet (setExec (.hold false) (queued [plainJob .hour] served)) ∧
      ¬DrainMet (setExec (.hold false) hourWanted) ∧ ¬DrainMet (setExec (.hold false) (fillWanted false)) ∧
      ¬DrainMet (setExec (.hold false) repairWanted) ∧ ¬DrainMet (setExec (.hold false) jobWanted) ∧
      ∃ t, exec .holdDrained (setExec (.hold false) served) = .next t ∧ t.device = .holding .command) :=
  ⟨⟨rfl, rfl, rfl⟩, rfl, by decide, fun b => ⟨rfl, drainMet_served b⟩,
    fun h => List.cons_ne_nil _ _ h.queue, fun h => Bool.noConfusion h.waiters.strip,
    fun h => List.cons_ne_nil _ _ h.waiters.fills, fun h => h.waiters.marks 31 _ _ (.inl ⟨rfl, rfl, rfl⟩),
    fun h => absurd (h.waiters.contexts 0 (.head _) (.resume 2, .notQueued) (.tail _ (.head _))) (by decide), _, rfl, rfl⟩

/-- A PROTECT that waits for room is served where the queue has a free place and no RESERVE for its cell. -/
theorem serves_protect {s : State} {op : ProtectOp} {x : CellImg} (h : s.port.exec = .protect op) (hs : op.stage = .room)
    (hx : cellOf (slotOf s op.slot) op.cell = some x) (hq : s.writer.queue = []) : ∃ t, ServesCommand s t := by
  simp only [ServesCommand, h]
  exact ⟨_, hs, x, _, hx, .inr ⟨by simp [hq], by simp [hq], rfl⟩, rfl⟩
theorem serves_fill {s : State} {w : WaitFill} (b : Bool) (hw : s.cache.waits = [w]) (hb : w.port = b)
    (he : s.cache.entries.length < 6) (hj : s.engine.job = none) (hl : lineOf s (otherReq w.line) = none) :
    ∃ t, ServesFill b s t := by
  refine ⟨{ s with
    engine := { (setLine w.line none s).engine with job := some ⟨w.line, .fill w.slot w.cell w.gen, false⟩, last := w.line }
    cache := { s.cache with
      entries := ⟨w.slot, w.cell, w.gen, true, none, [], none, 0, false, false, false, w.port, w.renewal, none⟩ ::
        s.cache.entries
      waits := s.cache.waits.filter fun x => !(x.slot == w.slot && x.gen == w.gen) } },
    [], w, [], _, _, hw, hb, nofun, .inl ⟨he, rfl, rfl⟩, rfl, rfl, rfl, rfl, rfl, ?_, ?_, ?_, rfl, rfl, rfl, rfl, rfl⟩
  · cases hc : w.line <;> rfl
  · intro _ _; cases hc : w.line <;> exact ⟨rfl, rfl, rfl⟩
  · rintro (h | h)
    · exact absurd hj h
    · exact absurd hl h
theorem serves_flush {s : State} {e : Entry} (he : s.cache.entries = [e]) (hf : e.flushReq = true) (hw : e.withhold = none)
    (hq : s.writer.queue = []) : ∃ t, ServesFlush s t :=
  ⟨_, [], e, [], _, he, hf, hw, .inr ⟨by simp [hq], by simp [hq], rfl⟩, nofun, rfl⟩
theorem serves_mark {s : State} {i : Fin 32} (hr : (slotOf s i).repairA = true) (hq : s.writer.queue = [])
    (h : ∀ j, j < i → (slotOf s j).repairA = false ∧ (slotOf s j).repairB = false ∧ (slotOf s j).repairFloor = false ∧
      (slotOf s j).actDue = none ∧ (slotOf s j).ovlDue = none) : ∃ t, ServesMark s t := by
  refine ⟨_, by simp [hq], i, _, _, .inl ⟨hr, rfl, rfl⟩, ?_, rfl⟩
  intro j hj job img
  obtain ⟨a, b, c, d, e⟩ := h j hj
  simp [MarkCalls, a, b, c, d, e]
theorem serves_context {s : State} {i : Fin 2} {j k : StoreJob} (hs : s.renewal.storing = [i])
    (hj : (ctxOf s i).jobs = [(j, .queued), (k, .notQueued)]) (hq : s.writer.queue = []) : ∃ t, ServesContext s t :=
  ⟨_, by simp [hq], [], i, [], [(j, .queued)], k, [], hs, nofun, hj, by simp, rfl⟩
theorem serves_hour {s : State} (h : s.writer.stripPending = true) (hq : s.writer.queue = []) : ∃ t, ServesHour s t :=
  ⟨_, h, .inr ⟨by simp [hq], by simp [hq], rfl⟩⟩

/-- Each place of the order has a state in which it is served and no earlier one is, and in the state of manufacture nobody is. -/
theorem witness_RoomIsGivenInOrder :
    (running roomWanted = true ∧ roomWanted.device = .serving ∧ ∃ t, ServesCommand roomWanted t) ∧
    ((∀ t, ¬ServesCommand (fillWanted true) t) ∧ ∃ t, ServesFill true (fillWanted true) t) ∧
    ((∀ t, ¬ServesCommand (fillWanted false) t) ∧ (∀ t, ¬ServesFill true (fillWanted false) t) ∧
      ∃ t, ServesFill false (fillWanted false) t) ∧
    ((∀ serves ∈ roomOrder.take 3, ∀ t, ¬serves flushWanted t) ∧ ∃ t, ServesFlush flushWanted t) ∧
    ((∀ serves ∈ roomOrder.take 4, ∀ t, ¬serves repairWanted t) ∧ ∃ t, ServesMark repairWanted t) ∧
    ((∀ serves ∈ roomOrder.take 5, ∀ t, ¬serves jobWanted t) ∧ ∃ t, ServesContext jobWanted t) ∧
    ((∀ serves ∈ roomOrder.take 6, ∀ t, ¬serves hourWanted t) ∧ ∃ t, ServesHour hourWanted t) ∧
    ∀ serves ∈ roomOrder, ∀ t, ¬serves served t := by
  have marks : ∀ i : Fin 32, i < 31 → (slotOf repairWanted i).repairA = false ∧ (slotOf repairWanted i).repairB = false ∧
    (slotOf repairWanted i).repairFloor = false ∧ (slotOf repairWanted i).actDue = none ∧
    (slotOf repairWanted i).ovlDue = none := by decide +kernel
  refine ⟨⟨rfl, rfl, serves_protect rfl rfl rfl rfl⟩, ⟨fun _ => no_command rfl, serves_fill true rfl rfl (by decide) rfl rfl⟩,
    ⟨fun _ => no_command rfl, fun t h => ?_, serves_fill false rfl rfl (by decide) rfl rfl⟩,
    ⟨?_, serves_flush rfl rfl rfl rfl⟩, ⟨?_, serves_mark (i := 31) rfl rfl marks⟩, ⟨?_, serves_context rfl rfl rfl⟩,
    ⟨?_, serves_hour rfl rfl⟩, ?_⟩
  · obtain ⟨before, w, after, _, _, hw, hp, hn, _⟩ := h
    have : before ++ w :: after = [⟨1, .a, 1, false, true, .renewal⟩] := hw.symm
    cases before with
    | nil => cases this; cases hp
    | cons x before => simp at this
  all_goals
    simp only [roomOrder, List.take, List.mem_cons, List.not_mem_nil, or_false, forall_eq_or_imp, forall_eq]
  · exact ⟨fun _ => no_command rfl, fun _ => no_fill rfl, fun _ => no_fill rfl⟩
  · exact ⟨fun _ => no_command rfl, fun _ => no_fill rfl, fun _ => no_fill rfl, fun _ => no_flush rfl⟩
  · exact ⟨fun _ => no_command rfl, fun _ => no_fill rfl, fun _ => no_fill rfl, fun _ => no_flush rfl,
      fun _ => no_mark served_marks⟩
  · exact ⟨fun _ => no_command rfl, fun _ => no_fill rfl, fun _ => no_fill rfl, fun _ => no_flush rfl,
      fun _ => no_mark served_marks, fun _ => no_context rfl⟩
  · exact ⟨fun _ => no_command rfl, fun _ => no_fill rfl, fun _ => no_fill rfl, fun _ => no_flush rfl,
      fun _ => no_mark served_marks, fun _ => no_context rfl, fun _ => no_hour rfl⟩

/-- R44, R86, R157, R177, R88: what the waiter served receives. -/
theorem witness_RoomIsGivenInOrder_effects :
    then? (exec .roomGiven roomWanted) (fun t => t.writer.queue == [⟨.reserve 2 .a 1 512, none, true, false⟩] &&
      t.port.exec == .protect { protectOp with stage := .reserve }) = true ∧
    then? (exec .roomGiven (queued (reserve 600 false :: others 7) roomWanted)) (fun t =>
      t.writer.queue == reserve 600 true :: others 7) = true ∧
    then? (exec .roomGiven (setExec (.unprotect { unprotectOp [] with stage := .room }) framed)) (fun t =>
      t.writer.queue == [⟨.highWater 2 .a 1 (unprotectOp []).counter, none, true, false⟩]) = true ∧
    then? (exec .roomGiven (setExec (.activate ⟨2, .b, 2, [], .room⟩) renewed)) (fun t =>
      t.writer.queue == [⟨.activate 2 2, none, true, false⟩] && t.port.exec == .activate ⟨2, .b, 2, [], .store⟩) = true ∧
    then? (exec .roomGiven (fillWanted true)) (fun t => t.cache.waits.isEmpty && t.engine.last == .renewal &&
      t.cache.entries.map (fun e => (e.slot, e.filling, e.pinPort, e.pinRenewal)) == [(1, true, true, true)]) = true ∧
    then? (exec .roomGiven (setExec (.hold false) flushWanted)) (fun t =>
      t.writer.queue == [⟨.highWater 2 .a 1 5, none, false, true⟩] && t.cache.entries == [ready 1 .active (some 7) 5]) = true ∧
    then? (exec .roomGiven jobWanted) (fun t => t.writer.queue == [⟨.resume 2, some 0, false, false⟩] &&
      (ctxOf t 0).jobs == [(.suspend 2, .queued), (.resume 2, .queued)]) = true ∧
    exec .roomGiven (inState (.holding .command)) = .next (inState (.holding .command)) :=
  ⟨rfl, rfl, rfl, rfl, rfl, rfl, rfl, rfl⟩

/-- The arm record that selects nothing is written into the first copy. -/
def arming : State :=
  writing (.queued (plainJob (.armRecord (Inputs.all none)))) [.arm false ⟨Inputs.all none, 2⟩] true served

/-- The opening write of a list is made again. -/
def opened : State :=
  let r := eventRecord .live served []
  let s := writing .opening [.tamper r] true served
  { s with writer := { s.writer with tamper := some ⟨[.closing], r, [], [], false⟩ } }

/-- A job of the STORING context 0 makes its last write again. -/
def storingWrite (j : StoreJob) (w : ArrayWrite) : State :=
  writing (.queued ⟨j, some 0, false, false⟩) [w] true
    (context { Ctx.idle with state := .storing, jobs := [(j, .queued)] } framed)

/-- What a second mismatch leaves of entry 0 and of context 0, and the next strip position. -/
def failsTo (s : State) (entry : AssocState) (strip : Fin 16) : Bool :=
  then? (exec (.storeWriteReadBack (.mismatched .spoilt)) s) fun t =>
    (assocOf t 0).state == entry && t.writer.nextStrip == strip &&
    (ctxOf t 0).result.map (·.outcome) == some .storeFailed && (ctxOf t 0).state == .failed

theorem witness_WritesAreReadBackAndRetried :
    (let s := writing (.queued (plainJob (.suspend 2))) [.headerBody 2 ⟨none, .keep, .writeBack, true⟩, .strip 0 0] true framed
     running s = true ∧ s.device ≠ .faulted ∧ (s.writer.job.map (·.retried)) = some true ∧
      (s.writer.job.map (·.writes.length)) = some 2 ∧ (striping.writer.job.map (·.retried)) = some false ∧
      jobSlot (plainJob (.suspend 2)).job = some 2) ∧
    (opened.writer.job.map (fun r => (r.task, r.retried)) = some (.opening, true) ∧
      then? (exec (.storeWriteReadBack (.mismatched .kept)) opened) (fun t => t.device = .faulted && t.array.tamper.isNone) = true) ∧
    (arming.writer.job.map (·.retried) = some true ∧ arming.monitor.armLost = false ∧
      then? (exec (.storeWriteReadBack (.mismatched .written)) arming)
        (fun t => t.array.armFirst.isNone && t.array.armSecond.isSome) = true) ∧
    (∀ j w, let s := storingWrite j w
      running s = true ∧ (s.writer.job.map (fun r => (r.task, r.retried))) = some (.queued ⟨j, some 0, false, false⟩, true) ∧
      s.device ≠ .faulted ∧ (ctxOf s 0).state = .storing ∧ s.renewal.verif = none) ∧
    failsTo (storingWrite (.association 0 .empty) (.assocBody 0 emptyBody)) (.damaged .write) 0 = true ∧
    failsTo (storingWrite (.bundleFloor 0 0#64 .commissioning 9) (.assocFloor 0 false 9)) (.damaged .write) 0 = true ∧
    failsTo (storingWrite .hour (.strip 0 9)) .active 1 = true :=
  ⟨⟨rfl, by decide, rfl, rfl, rfl, rfl⟩, ⟨rfl, rfl⟩, ⟨rfl, rfl, rfl⟩, fun _ _ => ⟨rfl, rfl, nofun, rfl, rfl⟩, by decide +kernel,
    by decide +kernel, by decide +kernel⟩

/-- The command in flight when the opening write fails for good, and these queued jobs: the command is answered FAULTED. -/
def answeredInFaulted (e : Executor) (jobs : List QJob) : Bool :=
  let s := queued jobs (setExec e opened)
  then? (exec (.storeWriteReadBack (.mismatched .kept)) s) fun t =>
    t.device == .faulted && t.writer.queue.length == jobs.length && t.port == (respond .faulted [] s).port

/-- R184, R205, R207: who waits on the Store Writer is answered, who waits on the Crypto Engine goes on. -/
theorem witness_WritesAreReadBackAndRetried_waiting :
    answeredInFaulted (.hold false) [] = true ∧
    answeredInFaulted (.protect { protectOp with stage := .room }) [] = true ∧
    answeredInFaulted (.protect { protectOp with stage := .reserve }) [reserve 512 true] = true ∧
    answeredInFaulted (.unprotect { unprotectOp [] with stage := .high }) [⟨.highWater 2 .a 1 6, none, true, false⟩] = true ∧
    answeredInFaulted (.activate ⟨2, .b, 2, [], .store⟩) [⟨.activate 2 2, none, true, false⟩] = true ∧
    then? (exec (.storeWriteReadBack (.mismatched .kept)) (setExec (.protect protectOp) opened)) (fun t =>
      t.device == .faulted && t.port == (setExec (.protect protectOp) opened).port) = true :=
  ⟨rfl, rfl, rfl, rfl, rfl, rfl⟩

/-- A job with its last write. -/
def lastWrite (j : StoreJob) (w : ArrayWrite) (s : State) : State := writing (.queued (plainJob j)) [w] false s

theorem witness_CompletedJobsChangeTheirImage :
    running striping = true ∧ striping.writer.job = some ⟨.queued (plainJob .hour), [.strip 0 9], false, 0, false, false⟩ ∧
    genWith (slotOf renewed 2) .staged = some (.b, staged) ∧ cellOf (slotOf framed 2) .a = some live ∧
    (let s := lastWrite (.activate 2 2) (.activation 2 .b (some ⟨2, 0⟩)) renewed
     s.writer.job = some ⟨.queued (plainJob (.activate 2 2)), [.activation 2 .b (some ⟨2, 0⟩)], false, 0, false, false⟩) ∧
    (genWith (slotOf atHour 2) .overlap = some (.a, live)) ∧
    then? (exec (.storeWriteReadBack .matched) (lastWrite (.overlapEnd 2 1 .time) (.cellBody 2 .a .empty) atHour))
      (fun t => (slotOf t 2).cellA.isNone && t.notices == [.overlapEnded 2 1 .time]) = true ∧
    then? (exec (.storeWriteReadBack .matched) (lastWrite (.stage 2 ⟨0, .unicast⟩ (stageBody 4) 0) (.floor 2 false 4)
        (setSlot framed 2 (quarantineImg (slotOf framed 2)))))
      (fun t => !(slotOf t 2).quarantined && (slotOf t 2).cellB.map (·.params.generation) == some 4 && (slotOf t 2).floor == 4) = true ∧
    then? (exec (.storeWriteReadBack .matched) (lastWrite (.association 0 .empty) (.assocBody 0 emptyBody) served))
      (fun t => assocOf t 0 == .blank (some 0)) = true ∧
    then? (exec (.storeWriteReadBack .matched) (lastWrite (.highWater 2 .a 1 9) (.highWater 2 .a false 9) framed))
      (fun t => (slotOf t 2).cellA.map (·.highWater) == some 9) = true :=
  ⟨rfl, rfl, rfl, rfl, rfl, rfl, rfl, rfl, rfl, rfl⟩

/-- The last write of a job of the STORING context 0, with more jobs after it. -/
def storingLast (j : StoreJob) (w : ArrayWrite) (more : Nat) : State :=
  writing (.queued ⟨j, some 0, false, false⟩) [w] false (context { Ctx.idle with
    state := .storing, jobs := (j, .queued) :: List.replicate more (.suspend 2, .queued), success := .revoked } framed)

/-- The last write of the RESERVE up to this ceiling that a PROTECT waits on, its next value 256. -/
def reservedTo (v : Nat) (wear : Option Nat) : State :=
  writing (.queued ⟨.reserve 2 .a 1 v, none, true, false⟩) [.ceiling 2 .a false v] false
    (setExec (.protect { protectOp with stage := .reserve })
      (caching { ready 1 .active (some 256) 0 with pinPort := true, resvPending := true }
        (withSlot { SlotImg.blank with floor := 1, cellA := some { live with wear := wear } })))

/-- The last write of the HIGHWATER that an UNPROTECT waits on, its entry with this cause. -/
def highTo (w : Option Withhold) : State :=
  writing (.queued ⟨.highWater 2 .a 1 6, none, true, false⟩) [.highWater 2 .a false 6] false
    (setExec (.unprotect { unprotectOp [] with stage := .high, plain := [7#8] }) (caching (caused w) framed))

/-- Slot 2 with a staged generation 2 that keeps its predecessor as overlap, and the entries of both. -/
def succeeding (hours : Nat) : State :=
  let next := { staged with params := { staged.params with graceHours := hours } }
  let s := withSlot { SlotImg.blank with floor := 2, cellA := some live, cellB := some next }
  queued [plainJob (.highWater 2 .a 1 9), plainJob (.highWater 2 .b 2 3)] { s with cache := { s.cache with entries :=
    [{ ready 1 .active (some 7) 5 with dirty := true }, { ready 2 .verifyOnly none 4 with cell := .b, flushReq := true }] } }

/-- R17, R23, R92, R93: an ACTIVATE that keeps the previous current generation, for a PROTECT too, and one that empties its cell. -/
theorem witness_CompletedJobsChangeTheirImage_activation :
    (let s := lastWrite (.activate 2 2) (.activation 2 .b (some ⟨2, 0⟩)) (succeeding 5)
     then? (exec (.storeWriteReadBack .matched) s) (fun t =>
       t.cache.entries.map (fun e => (e.gen, e.role, e.n, e.h, e.dirty, e.flushReq)) ==
         [(1, some .acceptOnly, none, 5, true, false), (2, some .active, some 0, 4, false, true)] &&
       phaseOf (slotOf t 2) == .overlap && (slotOf t 2).cellB.map (·.unused) == some false && t.writer.queue == s.writer.queue &&
       t.notices == [.activated 2 2 (some 1) true]) = true ∧
     then? (exec (.storeWriteReadBack .matched) (setExec (.protect protectOp) s)) (fun t =>
       (findEntry t 2 1).map (fun e => (e.role, e.n)) == some (some .acceptOnly, some 7)) = true) ∧
    then? (exec (.storeWriteReadBack .matched) (lastWrite (.activate 2 2) (.cellBody 2 .a .empty) (succeeding 0))) (fun t =>
      t.cache.entries.map (·.gen) == [2] && phaseOf (slotOf t 2) == .single && t.writer.queue == [plainJob (.highWater 2 .b 2 3)] &&
      t.notices == [.activated 2 2 (some 1) false]) = true :=
  ⟨⟨rfl, rfl⟩, rfl⟩

/-- The last write of an ACTIVATE without grace while an UNPROTECT waits on its frame job under the previous generation, another
requester's job being granted. -/
def overtaken : State :=
  let s := lastWrite (.activate 2 2) (.cellBody 2 .a .empty) (succeeding 0)
  setExec (.unprotect (unprotectOp [⟨2, .current⟩])) { s with
    cache := { s.cache with entries := [{ ready 1 .active (some 7) 5 with pinPort := true },
      { ready 2 .verifyOnly none 4 with cell := .b }] }
    engine := { s.engine with job := some ⟨.renewal, .fill 9 .a 1, false⟩, portLine := some (.frameUnprotect [] [] [] [] []) } }

/-- R92, R99, R108: those who hold entries are in order; the UNPROTECT goes on to the new generation, whose entry is ACTIVE. -/
theorem witness_CompletedJobsChangeTheirImage_holders :
    OneEntryEach overtaken ∧ HoldersInOrder overtaken ∧ HoldersInOrder State.reset ∧
    (findEntry overtaken 2 2).map (fun e => (e.role, e.withhold)) = some (some .verifyOnly, none) ∧
    then? (exec (.storeWriteReadBack .matched) overtaken) (fun t =>
      (findEntry t 2 2).map (fun e => (e.role, e.n, e.h, e.pinPort)) == some (some .active, some 0, 4, true)) = true := by
  refine ⟨by unfold OneEntryEach; decide, ⟨?_, nofun, by decide, ?_, nofun⟩, ⟨nofun, nofun, nofun, nofun, nofun⟩, rfl, rfl⟩
  · rintro op ⟨⟩ _ h
    exact absurd rfl h
  · rintro op ⟨⟩
    decide

/-- R15, R18, R19, R23, R90, R93: generations that leave their cells, and a slot that becomes WRITE_THROUGH. -/
theorem witness_CompletedJobsChangeTheirImage_removals :
    (phaseOf (slotOf atHour 2) = .overlap ∧ StagesInto (slotOf atHour 2) .a ∧
      then? (exec (.storeWriteReadBack .matched) (lastWrite (.stage 2 ⟨0, .unicast⟩ (stageBody 4) 0) (.floor 2 false 4)
        (queued [plainJob (.highWater 2 .a 1 9)] atHour))) (fun t => t.cache.entries.isEmpty && t.writer.queue.isEmpty &&
          t.notices == [.overlapEnded 2 1 .superseded] && (slotOf t 2).cellB == (slotOf atHour 2).cellB &&
          phaseOf (slotOf t 2) == .staged) = true) ∧
    then? (exec (.storeWriteReadBack .matched) (lastWrite (.revokeSlot 2 false) (.cellBody 2 .b .empty)
      { succeeding 5 with cache := { (succeeding 5).cache with entries :=
        [{ ready 1 .active (some 7) 5 with pinPort := true, withhold := some .retired }, ready 2 .verifyOnly none 4] } })) (fun t =>
      t.cache.entries.map (fun e => (e.gen, e.withhold)) == [(1, some .erased)] && t.writer.queue.isEmpty &&
      phaseOf (slotOf t 2) == .vacant && (slotOf t 2).floor == 2) = true ∧
    then? (exec (.storeWriteReadBack .matched) (lastWrite (.header 2 (some ⟨0, .unicast⟩) .keep .writeThrough)
      (.headerBody 2 ⟨some ⟨0, .unicast⟩, .keep, .writeThrough, false⟩)
      (caching { ready 1 .active (some 7) 5 with dirty := true } framed))) (fun t =>
      t.cache.entries == [ready 1 .active (some 7) 5] && t.writer.queue == [plainJob (.highWater 2 .a 1 5)]) = true :=
  ⟨⟨rfl, ⟨rfl, rfl⟩, rfl⟩, rfl, rfl⟩

/-- R152, R46, R86, R158: what the requester of a completed job is told. -/
theorem witness_CompletedJobsChangeTheirImage_requester :
    (then? (exec (.storeWriteReadBack .matched) (storingLast (.suspend 2) (.headerBody 2 ⟨none, .keep, .writeBack, true⟩) 0))
        (fun t => (ctxOf t 0).state = .done && t.notices == [.renewalFinished 0 .revoked]) = true ∧
      then? (exec (.storeWriteReadBack .matched) (storingLast (.suspend 2) (.headerBody 2 ⟨none, .keep, .writeBack, true⟩) 1))
        (fun t => (ctxOf t 0).state = .storing && (ctxOf t 0).jobs.length == 1) = true) ∧
    (findEntry (reservedTo 512 (some 0)) 2 1 =
        some { ready 1 .active (some 256) 0 with pinPort := true, resvPending := true } ∧
      then? (exec (.storeWriteReadBack .matched) (reservedTo 512 (some 0))) (fun t =>
        t.port.exec == .protect { protectOp with stage := .frame 256 .fresh } && (findEntry t 2 1).bind (·.n) == some 257) = true ∧
      then? (exec (.storeWriteReadBack .matched) (reservedTo 512 (some 1000))) (fun t => status t = some .keySpent) = true) ∧
    (then? (exec (.storeWriteReadBack .matched) (highTo none)) (fun t => status t = some .ok && t.port.exec == .free) = true ∧
      causeOf (highTo (some .erased)) 2 1 = some .erased ∧
      then? (exec (.storeWriteReadBack .matched) (highTo (some .erased))) (fun t => status t = some .slotErased) = true) ∧
    then? (exec (.storeWriteReadBack .matched) (commandStore true)) (fun t => status t = some .ok &&
      body t == some (bytes [2, 0, 2, 0, 1, 0])) = true :=
  ⟨⟨rfl, rfl⟩, ⟨rfl, rfl, rfl⟩, ⟨rfl, rfl, rfl⟩, rfl⟩

/-- The last write of a tamper slot item of slot 2, which is barred. -/
def treating (act : TamperAct) (retried : Bool) : State :=
  let s := writing (.item 2 act) [.headerBody 2 ⟨none, .keep, .writeBack, true⟩] retried framed
  { s with
    cache := { s.cache with bars := vset s.cache.bars 2 (some act) }
    writer := { s.writer with tamper := some ⟨[.closing], eventRecord .live framed [], [], [], false⟩ } }

/-- The loader's closing write. -/
def closingWrite : State :=
  let r := eventRecord .live framed []
  let s := writing (.closing r) [.tamper r] false framed
  { s with writer := { s.writer with tamper := some ⟨[], r, [], [2], true⟩ } }

/-- The last write of a flush item. -/
def flushWrite (retried : Bool) : State :=
  writing (.flush ⟨2, .a, 1, 9, false⟩) [.highWater 2 .a false 9] retried
    (caching { ready 1 .active (some 7) 9 with dirty := true } framed)

theorem witness_TamperAndFlushItemsEnd :
    (running (treating .erase false) = true ∧ (treating .erase false).writer.job.map (fun r => (r.writes.length, r.stale)) = some (1, false) ∧
      then? (exec (.storeWriteReadBack .matched) (treating .erase false)) (fun t => (slotOf t 2).cellA.isNone &&
        t.cache.bars[(2 : Fin 32)].isNone && t.writer.tamper.map (·.completed) == some [2]) = true ∧
      then? (exec (.storeWriteReadBack .matched) (treating .suspend false)) (fun t => (slotOf t 2).suspended) = true ∧
      then? (exec (.storeWriteReadBack (.mismatched .kept)) (treating .suspend true)) (fun t => (slotOf t 2).quarantined &&
        t.cache.bars[(2 : Fin 32)].isNone && t.writer.tamper.map (·.failed) == some [(2, .suspend)]) = true) ∧
    (closingWrite.writer.tamper.map (fun x => (x.items, x.resumed)) = some ([], true) ∧
      then? (exec (.storeWriteReadBack .matched) closingWrite) (fun t => t.writer.tamper.isNone &&
        t.notices.map noticeKey == [.tamper]) = true) ∧
    ((flushWrite false).device ≠ .faulted ∧ cellOf (slotOf (flushWrite false) 2) .a = some live ∧
      then? (exec (.storeWriteReadBack .matched) (flushWrite false)) (fun t => (slotOf t 2).cellA.map (·.highWater) == some 9 &&
        (findEntry t 2 1).map (·.dirty) == some false) = true ∧
      then? (exec (.storeWriteReadBack (.mismatched .kept)) (flushWrite true)) (fun t => (slotOf t 2).quarantined) = true) :=
  ⟨⟨rfl, rfl, rfl, rfl, rfl⟩, ⟨rfl, rfl⟩, by decide, rfl, rfl, rfl⟩

theorem witness_TornWritesKeepTwoPositionFields :
    twoValue ⟨some 3, some 5⟩ = some 5 ∧ (5 : Nat) ≤ 6 ∧ twoValue ⟨none, some 5⟩ = some 5 ∧
      twoValue ⟨some 5, some 5⟩ = some 5 := ⟨rfl, by decide, rfl, rfl⟩

/-- R40, R53: the bounds of the clamps, at 256, 511, 512 and 65,536; 4,000,000,000; 24 and 87,600; 720. -/
theorem witness_InstallFieldsAreClamped :
    clampStep 256 = 256 ∧ clampStep 511 = 256 ∧ clampStep 512 = 512 ∧ clampStep 65536 = 65536 ∧
      clampStep 0 = 256 ∧ clampStep 65535 = 32768 ∧ clampStep 4294967295 = 65536 ∧
      clampUse 4000000001 = 4000000000 ∧ clampLife 1 = 24 ∧ clampLife 87601 = 87600 ∧ clampGrace 0 1 = 720 ∧
      fieldNat (bytes (1 :: z 36 ++ [255, 255, 255, 255])) 0 1 = 1 ∧
      fieldNat (bytes (1 :: z 36 ++ [255, 255, 255, 255])) 37 4 = 4294967295 := by decide

/-- R54: 949.05 rounds up to 950, which is URGENT; 999.1 rounds up to 1000, which is SPENT. -/
theorem witness_WearIsSpentAtItsLimits :
    wearFigure { GenParams.manufacture with lifetime := 10000 } 0 9491 = 950 ∧
      wearFigure { GenParams.manufacture with lifetime := 10000 } 0 9991 = 1000 ∧
      wearFigure { GenParams.manufacture with lifetime := 10000 } 0 9990 = 999 ∧
      wearFigure .manufacture 4294967295 0 = 1000 ∧ wearFigure .manufacture 4294967294 0 = 0 := by decide

end Sys2Proof.Tests
end

section
/-! PROOFS. Facts about the state's reads: the cells and roles of a slot, the entries of the cache, the answers of the port. -/

namespace Sys2Proof.Machine

variable {s t : State} {img : SlotImg}

/-! ### Slots and cells -/

@[simp] theorem setSlot_slotOf (s : State) (i : Fin 32) : setSlot s i (slotOf s i) = s := by
  simp [setSlot, slotOf, vset]

@[simp] theorem setCtx_ctxOf (s : State) (i : Fin 2) : setCtx s i (ctxOf s i) = s := by simp [setCtx, ctxOf, vset]

@[simp] theorem setCell_cellOf (img : SlotImg) (c : CellId) : setCell img c (cellOf img c) = img := by cases c <;> rfl

@[simp] theorem cellOf_setCell (img : SlotImg) (c : CellId) (x : Option CellImg) : cellOf (setCell img c x) c = x := by
  cases c <;> rfl

@[simp] theorem cellOf_setCell_otherCell (img : SlotImg) (c : CellId) (x : Option CellImg) :
    cellOf (setCell img c x) (otherCell c) = cellOf img (otherCell c) := by cases c <;> rfl

@[simp] theorem otherCell_otherCell (c : CellId) : otherCell (otherCell c) = c := by cases c <;> rfl

theorem eq_otherCell {c d : CellId} (h : d ≠ c) : d = otherCell c := by cases c <;> cases d <;> first | rfl | contradiction

/-! ### Roles (R6) -/

theorem roleIn_empty {c : CellId} (h : cellOf img c = none) : roleIn img c = none := by rw [roleIn, h]; rfl

theorem cellWith_role {r : GenRole} {c : CellId} (h : cellWith img r = some c) : roleIn img c = some r := by
  unfold cellWith at h
  split at h
  · cases h; assumption
  · split at h <;> cases h
    assumption

/-- A cell with a role is the one found, where the other cell has another role. -/
theorem cellWith_eq {r : GenRole} {c : CellId} (h : roleIn img c = some r) (ho : roleIn img (otherCell c) ≠ some r) :
    cellWith img r = some c := by
  cases c with
  | a => exact if_pos h
  | b => exact (if_neg ho).trans (if_pos h)

/-- The generation found with a role stands in its cell with that role. -/
theorem genWith_cell {r : GenRole} {c : CellId} {x : CellImg} (h : genWith img r = some (c, x)) :
    cellWith img r = some c ∧ cellOf img c = some x := by
  unfold genWith at h
  split at h
  · cases h
  · rename_i d hd
    cases hc : cellOf img d with
    | none => simp [hc] at h
    | some y =>
      simp only [hc, Option.map_some, Option.some.injEq, Prod.mk.injEq] at h
      obtain ⟨rfl, rfl⟩ := h
      exact ⟨hd, hc⟩

theorem genWith_role {r : GenRole} {c : CellId} {x : CellImg} (h : genWith img r = some (c, x)) : roleIn img c = some r :=
  cellWith_role (genWith_cell h).1

theorem genWith_of_cellWith {r : GenRole} {c : CellId} {x : CellImg} (h : cellWith img r = some c)
    (hx : cellOf img c = some x) : genWith img r = some (c, x) := by simp only [genWith, h, hx, Option.map_some]

/-- No generation has the role exactly where no cell has it. -/
theorem cellWith_of_genWith_none {r : GenRole} (h : genWith img r = none) : cellWith img r = none := by
  cases hc : cellWith img r with
  | none => rfl
  | some c =>
    cases hx : cellOf img c with
    | none => simpa [roleIn_empty hx] using cellWith_role hc
    | some x => simp [genWith_of_cellWith hc hx] at h

theorem genNumber_of_genWith {r : GenRole} {c : CellId} {x : CellImg} (h : genWith img r = some (c, x)) :
    genNumber img r = some x.params.generation := by simp only [genNumber, h, Option.map_some]

theorem genNumber_some {r : GenRole} {g : Nat} (h : genNumber img r = some g) :
    ∃ c x, genWith img r = some (c, x) ∧ x.params.generation = g := by
  obtain ⟨⟨c, x⟩, hx, hg⟩ := Option.map_eq_some_iff.1 h
  exact ⟨c, x, hx, hg⟩

/-- A current or overlap generation has been activated. -/
theorem activation_of_role {c : CellId} {r : GenRole} (h : roleIn img c = some r) (hr : r ≠ .staged) :
    ∃ x a, cellOf img c = some x ∧ x.activation = some a := by
  cases hx : cellOf img c with
  | none => simp [roleIn_empty hx] at h
  | some x =>
    cases ha : x.activation with
    | none =>
      rw [roleIn, hx] at h
      simp only [genRole, ha, Option.some.injEq] at h
      exact absurd h.symm hr
    | some a => exact ⟨x, a, rfl, ha⟩

/-- An unstamped generation is staged. -/
theorem roleIn_unstamped {c : CellId} {x : CellImg} (hx : cellOf img c = some x) (ha : x.activation = none) :
    roleIn img c = some .staged := by rw [roleIn, hx]; simp only [genRole, ha]

/-! ### Phases (Table 1-3) -/

theorem phaseOf_quarantined (h : img.quarantined = true) : phaseOf img = .quarantined := if_pos h

/-! ### Entries (R77) -/

theorem findEntry_key {i : Fin 32} {g : Nat} {e : Entry} (h : findEntry s i g = some e) : e.slot = i ∧ e.gen = g := by
  simpa using List.find?_some h

theorem findEntry_mem {i : Fin 32} {g : Nat} {e : Entry} (h : findEntry s i g = some e) : e ∈ s.cache.entries :=
  List.mem_of_find?_eq_some h

theorem findEntry_congr (h : t.cache.entries = s.cache.entries) (i : Fin 32) (g : Nat) : findEntry t i g = findEntry s i g :=
  congrArg (List.find? _) h

/-- A change of an entry in place that keeps slot and generation. -/
theorem findEntry_updEntry {i : Fin 32} {g : Nat} {f : Entry → Entry} (hf : ∀ e, (f e).slot = e.slot ∧ (f e).gen = e.gen) :
    findEntry (updEntry i g f s) i g = (findEntry s i g).map f := by
  show (s.cache.entries.map _).find? _ = (s.cache.entries.find? _).map f
  induction s.cache.entries with
  | nil => rfl
  | cons e es ih =>
    simp only [List.map_cons, List.find?_cons]
    cases hk : (e.slot == i && e.gen == g) with
    | true => simp [(hf e).1, (hf e).2, hk]
    | false => simpa [hk] using ih

theorem findEntry_updEntry_other {i j : Fin 32} {g k : Nat} {f : Entry → Entry}
    (hf : ∀ e, (f e).slot = e.slot ∧ (f e).gen = e.gen) (h : j ≠ i ∨ k ≠ g) :
    findEntry (updEntry i g f s) j k = findEntry s j k := by
  show (s.cache.entries.map _).find? _ = s.cache.entries.find? _
  induction s.cache.entries with
  | nil => rfl
  | cons e es ih =>
    simp only [List.map_cons, List.find?_cons]
    cases hk : (e.slot == i && e.gen == g) with
    | true =>
      have hj : (e.slot == j && e.gen == k) = false := by
        simp only [Bool.and_eq_true, beq_iff_eq] at hk
        rw [Bool.and_eq_false_iff, hk.1, hk.2]
        exact h.imp (fun h => by simpa using h.symm) fun h => by simpa using h.symm
      simpa [(hf e).1, (hf e).2, hj] using ih
    | false => simp only [Bool.false_eq_true, if_false, ih]

@[simp] theorem findEntry_setExec {x : Executor} {i : Fin 32} {g : Nat} : findEntry (setExec x s) i g = findEntry s i g := rfl
@[simp] theorem findEntry_setQueue {q : List QJob} {i : Fin 32} {g : Nat} : findEntry (setQueue q s) i g = findEntry s i g := rfl
@[simp] theorem findEntry_setSlot {x : SlotImg} {i j : Fin 32} {g : Nat} : findEntry (setSlot s j x) i g = findEntry s i g := rfl

/-! ### Answers -/

theorem portSettle_of_not_faulted (h : s.device ≠ .faulted) : portSettle s = s := by simp [portSettle, h]

/-- A command that is not left waiting is not answered in FAULTED. -/
theorem portSettle_of_not_stuck (h : portStuck s = false) : portSettle s = s := by simp [portSettle, h]

/-- What the answer in FAULTED leaves: every part but cache, writer and port. -/
theorem portSettle_cases (s : State) : portSettle s = s ∨ portSettle s = finish .faulted [] s := by
  unfold portSettle
  split
  · exact .inr rfl
  · exact .inl rfl

end Sys2Proof.Machine
end

section
/-! PROOFS. The images change only with store jobs or resets (R1, R12, R59, R160): every other command keeps what they say, by the
frames `Beside` of its operations and the three changes that leave `Beside` but not the images. -/

namespace Sys2Proof.Machine

/-- What the images say of the slots, the association entries and the arm record in force is the same. -/
structure SameImages (r s : State) : Prop where
  slots : ∀ i, slotCore (slotOf s i) = slotCore (slotOf r i)
  assocs : s.assocs = r.assocs
  arm : s.monitor.arm = r.monitor.arm
  armCount : s.monitor.armCount = r.monitor.armCount
  armLost : s.monitor.armLost = r.monitor.armLost

variable {r s t : State}

theorem sameImages_refl (s : State) : SameImages s s := ⟨fun _ => rfl, rfl, rfl, rfl, rfl⟩

theorem SameImages.trans (h : SameImages r s) (k : SameImages s t) : SameImages r t :=
  ⟨fun i => (k.slots i).trans (h.slots i), k.assocs.trans h.assocs, k.arm.trans h.arm, k.armCount.trans h.armCount,
    k.armLost.trans h.armLost⟩

theorem Beside.sameImages (h : Beside r s) : SameImages r s :=
  ⟨h.slots, h.assocs, congrArg (·.arm) h.monitor, congrArg (·.armCount) h.monitor, congrArg (·.armLost) h.monitor⟩

/-- Parts that hold no image may change. -/
theorem sameImages_parts {device warning clock notices pins writer cache port} (h : SameImages r s) :
    SameImages r { s with device, warning, clock, notices, pins, writer, cache, port } :=
  ⟨h.slots, h.assocs, h.arm, h.armCount, h.armLost⟩

/-- The lines may change, and the monitor in its levels, its holds and what it has compared. -/
theorem sameImages_levels {pins debounced holds armSecond matching compared} (h : SameImages r s) :
    SameImages r { s with pins, monitor := { s.monitor with debounced, holds, armSecond, matching, compared } } :=
  ⟨h.slots, h.assocs, h.arm, h.armCount, h.armLost⟩

theorem sameImages_tamperEvent {origin : Origin} : SameImages s (tamperEvent origin s) :=
  (sameImages_parts (sameImages_refl s)).trans
    (beside_voidJobs (beside_causes (beside_causes (beside_tamperCtx (beside_tamperCtx
      (beside_raise (beside_refl _))))))).sameImages

theorem sameImages_compareNow {origin : Origin} : SameImages s (compareNow origin s) := by
  unfold compareNow
  split
  · exact sameImages_levels (sameImages_refl s)
  · split
    · exact (sameImages_levels (sameImages_refl s)).trans sameImages_tamperEvent
    · exact sameImages_refl s

theorem sameImages_compareLive : SameImages s (compareLive s) := by
  unfold compareLive
  split
  · exact sameImages_compareNow
  · exact sameImages_refl s

theorem sameImages_resumeServing : SameImages s (resumeServing s) :=
  (sameImages_parts (sameImages_refl s)).trans
    (beside_giveAll (beside_foldl (fun _ _ => beside_markOverlap (beside_markActivation (beside_refl _))) _
      (beside_refl _))).sameImages

theorem sameImages_leaveLoading : SameImages s (leaveLoading s) := by
  have marks : Beside s (allSlots.foldl loadWear (allSlots.foldl loadMarks s)) :=
    beside_foldl (fun _ _ => beside_loadWear (beside_refl _)) _
      (beside_foldl (fun _ _ => beside_loadMarks (beside_refl _)) _ (beside_refl s))
  unfold leaveLoading; dsimp -proj only
  generalize allSlots.foldl loadWear (allSlots.foldl loadMarks s) = u at marks ⊢
  have left : SameImages s { u with device := leaveState u, warning := ⟨u.pins.pfail, false⟩ } :=
    sameImages_parts marks.sameImages
  split
  · exact left.trans (beside_giveAll (beside_raise (beside_refl _))).sameImages
  · exact left.trans (beside_raise (beside_refl _)).sameImages

theorem sameImages_judgeRequest {c : Cmd} {body : List Byte} : SameImages s (judgeRequest c body s) := by
  unfold judgeRequest
  split
  · exact (beside_handOver (beside_refl s)).sameImages
  · split
    · exact (beside_respond (beside_refl s)).sameImages
    · split
      · exact (beside_handOver (beside_refl s)).sameImages
      · exact sameImages_resumeServing.trans (beside_handOver (beside_refl _)).sameImages

theorem sameImages_judgeFrame {bytes : List Byte} : SameImages s (judgeFrame bytes s) := by
  unfold judgeFrame; dsimp -proj only
  have stored : SameImages s { s with port := { s.port with rx := bytes.take 303, rxCount := bytes.length } } :=
    sameImages_parts (sameImages_refl s)
  split
  · exact stored.trans (beside_respond (beside_refl _)).sameImages
  · exact stored.trans sameImages_judgeRequest

theorem sameImages_endWrite {bytes : List Byte} : SameImages s (endWrite bytes s) := by
  unfold endWrite
  split
  · exact (beside_endTransfer (beside_refl s)).sameImages.trans sameImages_judgeFrame
  · exact (beside_endTransfer (beside_refl s)).sameImages
  all_goals exact sameImages_refl s

theorem sameImages_holdDrained {failed : Bool} : SameImages s (holdDrained failed s) := by
  unfold holdDrained
  split
  · exact (beside_finish (beside_refl s)).sameImages
  · exact (sameImages_parts (sameImages_refl s)).trans (beside_finish (beside_refl _)).sameImages

theorem sameImages_readNotices : SameImages s (readNotices s) :=
  (sameImages_parts (sameImages_refl s)).trans (beside_respond (beside_refl _)).sameImages

theorem sameImages_hourEdge : SameImages s (hourEdge s) := by
  unfold hourEdge
  split
  · exact (beside_hourBoundary (beside_refl s)).sameImages
  · exact sameImages_parts (sameImages_refl s)

theorem sameImages_warningTaken : SameImages s (warningTaken s) :=
  (sameImages_parts (sameImages_refl s)).trans (beside_portAtWarning (beside_dropQueue (beside_powerFailCtx (beside_powerFailCtx
    (beside_fixBudget (beside_refl _)))))).sameImages

/-- A command on a request handed over keeps the images where its run does. -/
theorem sameImages_onHanded {c : Cmd} {run : List Byte → State → State} (hr : ∀ b, SameImages s (run b s))
    (e : onHanded c run s = .next t) : SameImages s t := by
  unfold onHanded at e
  split at e <;> cases e
  · exact sameImages_refl s
  · exact hr _

theorem beside_onHanded {c : Cmd} {run : List Byte → State → State} (hr : ∀ b, Beside s (run b s))
    (e : onHanded c run s = .next t) : SameImages s t := sameImages_onHanded (fun b => (hr b).sameImages) e

/-- The commands on an intake context, by their runs. -/
theorem beside_onHandedContext {c : Cmd} {run : List Byte → Fin 2 → State → State} (hr : ∀ b i, Beside s (run b i s))
    (e : onHanded c (fun b => onContext b (run b)) s = .next t) : SameImages s t :=
  beside_onHanded (fun b => beside_onContext (hr b) (beside_refl s)) e

/-- The end of an engine job: the engine is free, the job's requester goes on, and a stuck command is answered. -/
theorem beside_settled {u : State} (h : Beside s u) (e : settled u = .next t) : SameImages s t := by
  cases e
  exact (beside_portSettle h).sameImages

/-- No command but a reset, a JOB_TAKE or a read-back changes what the images say (R1, R12, R59, R160). -/
theorem sameImages_exec (c : Instr) (hc : isReset c = false) (h1 : c ≠ .jobTake) (h2 : ∀ b, c ≠ .storeWriteReadBack b)
    (e : exec c s = .next t) : SameImages s t := by
  have free : Beside s (engineFree s) := beside_engineFree (beside_refl s)
  cases c with
  | powerOnReset | nrstReset | powerLoss | nrstRelease => cases hc
  | jobTake => exact absurd rfl h1
  | storeWriteReadBack b => exact absurd rfl (h2 b)
  | leaveLoading =>
    simp only [exec, execLeaveLoading] at e
    cases e
    split
    · exact sameImages_leaveLoading
    · exact sameImages_refl s
  | writeTransfer b =>
    simp only [exec, execWriteTransfer] at e
    split at e <;> cases e
    · exact (beside_withTransfer (beside_refl s)).sameImages.trans sameImages_endWrite
    · exact sameImages_refl s
  | readTransfer =>
    simp only [exec, execReadTransfer] at e
    split at e <;> cases e
    · exact (beside_endRead (beside_withTransfer (beside_refl s))).sameImages
    · exact sameImages_refl s
  | invalidDirectionTransfer =>
    simp only [exec, execInvalidDirectionTransfer] at e
    split at e <;> cases e
    · exact (beside_endInvalid (beside_withTransfer (beside_refl s))).sameImages
    · exact sameImages_refl s
  | directionByteReceived =>
    simp only [exec, execDirectionByteReceived] at e
    split at e <;> cases e
    · exact (beside_beginTransfer (beside_refl s)).sameImages
    · exact sameImages_refl s
  | identify => exact beside_onHanded (fun _ => beside_respond (beside_refl s)) e
  | readNotices => exact sameImages_onHanded (fun _ => sameImages_readNotices) e
  | hold =>
    exact beside_onHanded (run := fun _ s => portSettle (runHold s))
      (fun _ => beside_portSettle (beside_runHold (beside_refl s))) e
  | holdDrained =>
    simp only [exec, execHoldDrained] at e
    split at e
    · split at e <;> cases e
      · exact sameImages_holdDrained
      · exact sameImages_refl s
    all_goals cases e; exact sameImages_refl s
  | protect =>
    exact beside_onHanded (run := fun b s => portSettle (protectBodyRun b s))
      (fun _ => beside_portSettle (beside_protectBodyRun (beside_refl s))) e
  | unprotect =>
    exact beside_onHanded (run := fun b s => portSettle (unprotectBodyRun b s))
      (fun _ => beside_portSettle (beside_unprotectBodyRun (beside_refl s))) e
  | activateCommand =>
    exact beside_onHanded (run := fun b s => portSettle (activateBodyRun b s))
      (fun _ => beside_portSettle (beside_activateBodyRun (beside_refl s))) e
  | slotQuery => exact beside_onHanded (fun _ => beside_slotQuery (beside_refl s)) e
  | directoryFirst => exact beside_onHanded (fun _ => beside_directoryFirst (beside_refl s)) e
  | directoryNext => exact beside_onHanded (fun _ => beside_directoryNext (beside_refl s)) e
  | associationQuery => exact beside_onHanded (fun _ => beside_associationQuery (beside_refl s)) e
  | renewOpen => exact beside_onHandedContext (fun _ _ => beside_renewOpen (beside_refl s)) e
  | renewPart => exact beside_onHandedContext (fun _ _ => beside_renewPart (beside_refl s)) e
  | renewClose => exact beside_onHandedContext (fun _ _ => beside_renewClose (beside_refl s)) e
  | renewResult => exact beside_onHandedContext (fun _ _ => beside_renewResult (beside_refl s)) e
  | renewDrop => exact beside_onHandedContext (fun _ _ => beside_renewDrop (beside_refl s)) e
  | intakeTimerExpiry =>
    simp only [exec, execIntakeTimerExpiry] at e
    split at e <;> cases e
    · exact (beside_ctxFail (beside_refl s)).sameImages
    · exact sameImages_refl s
  | stickEdge =>
    simp only [exec, execStickEdge] at e
    split at e
    · split at e <;> rw [← Host.Outcome.next.inj e]
      · exact sameImages_parts (sameImages_refl s)
      · exact sameImages_hourEdge
    · cases e; exact sameImages_refl s
  | hourBoundary =>
    simp only [exec, execHourBoundary] at e
    split at e <;> rw [← Host.Outcome.next.inj e]
    · exact (beside_hourBoundary (beside_refl s)).sameImages
    · exact sameImages_refl s
  | tamperInputLevelChange =>
    simp only [exec, execTamperInputLevelChange] at e
    split at e <;> cases e
    · exact sameImages_levels (sameImages_refl s)
    · exact sameImages_parts (sameImages_refl s)
  | debounceHoldExpiry =>
    simp only [exec, execDebounceHoldExpiry] at e
    split at e <;> cases e
    · exact (sameImages_levels (sameImages_refl s)).trans sameImages_compareLive
    · exact sameImages_refl s
  | firstComparison =>
    simp only [exec, execFirstComparison] at e
    split at e <;> cases e
    · exact (sameImages_levels (sameImages_refl s)).trans sameImages_compareNow
    · exact sameImages_refl s
  | pfailAssert =>
    simp only [exec, execPfailAssert] at e
    split at e
    · cases e; exact sameImages_parts (sameImages_refl s)
    · split at e <;> cases e
      case h_1 | h_2 =>
        split
        · exact sameImages_parts (sameImages_refl s)
        · exact (sameImages_parts (sameImages_refl s)).trans sameImages_warningTaken
      all_goals exact sameImages_parts (sameImages_refl s)
  | pfailDeasserted => cases e; exact sameImages_parts (sameImages_refl s)
  | pfailWithdraw =>
    simp only [exec, execPfailWithdraw] at e
    split at e <;> cases e
    · split
      · exact (sameImages_parts (sameImages_refl s)).trans sameImages_resumeServing
      · exact sameImages_parts (sameImages_refl s)
    · exact sameImages_refl s
  | roomGiven =>
    simp only [exec, execRoomGiven] at e
    split at e <;> cases e
    · cases h : giveOne s with
      | none => exact sameImages_refl s
      | some u => exact (beside_giveOne h (beside_refl s)).sameImages
    · exact sameImages_refl s
  | engineGrant =>
    simp only [exec, execEngineGrant] at e
    cases e
    split
    · exact (beside_grantNext (beside_refl s)).sameImages
    · exact sameImages_refl s
  | fillUnwrapEnd =>
    simp only [exec, execFillUnwrapEnd] at e
    split at e
    · exact beside_settled (beside_endFill (beside_refl s)) e
    · cases e; exact sameImages_refl s
  | frameProtectEnd =>
    simp only [exec, execFrameProtectEnd] at e
    split at e
    · exact beside_settled (beside_endFrameProtect free) e
    · cases e; exact sameImages_refl s
  | frameUnprotectEnd =>
    simp only [exec, execFrameUnprotectEnd] at e
    split at e
    · exact beside_settled (beside_endFrameUnprotect free) e
    · cases e; exact sameImages_refl s
  | tokenCheckEnd =>
    simp only [exec, execTokenCheckEnd] at e
    split at e
    · exact beside_settled (beside_endToken free) e
    · cases e; exact sameImages_refl s
  | keyUnwrapEnd =>
    simp only [exec, execKeyUnwrapEnd] at e
    split at e
    · exact beside_settled (beside_renewalJobEnd (fun _ => beside_unwrapEnd free) free) e
    · cases e; exact sameImages_refl s
  | bundleTagCheckEnd =>
    simp only [exec, execBundleTagCheckEnd] at e
    split at e
    · exact beside_settled (beside_renewalJobEnd (fun _ => beside_tagEnd free) free) e
    · cases e; exact sameImages_refl s
  | receiptEnd =>
    simp only [exec, execReceiptEnd] at e
    split at e
    · exact beside_settled (beside_renewalJobEnd (fun _ => beside_becomeStoring free) free) e
    · cases e; exact sameImages_refl s
  | contextTaken =>
    simp only [exec, execContextTaken] at e
    split at e
    · cases e; exact sameImages_refl s
    · split at e <;> cases e
      · exact (beside_beginVerification (beside_refl s)).sameImages
      · exact sameImages_refl s

/-- Settles O6: the frame of every command but the resets, JOB_TAKE and the read-back. -/
theorem imagesChangeOnlyWithStoreJobsOrResets : Obligations.ImagesChangeOnlyWithStoreJobsOrResets := by
  intro c s t e hc h1 h2
  obtain ⟨slots, assocs, arm, armCount, armLost⟩ := sameImages_exec c hc h1 h2 e
  exact ⟨slots, assocs, arm, armCount, armLost⟩

end Sys2Proof.Machine
end

section
/-! PROOFS. The queries and the directory (R29 to R32, R75). -/

namespace Sys2Proof.Machine

variable {s : State}

/-- A request handed over runs its command on its body. -/
theorem onHanded_of_handed {c : Cmd} {body : List Byte} {run : List Byte → State → State} (h : Handed c body s) :
    onHanded c run s = .next (run body s) := by
  obtain ⟨hr, he⟩ := h
  simp [onHanded, handed, hr, he]

theorem fieldNat_single (b : Byte) : fieldNat [b] 0 1 = b.toNat := by simp [fieldNat, field, beNat]

/-! ### Queries -/

theorem slotQuery_inRange {b : Byte} {i : Fin 32} (h : b.toNat = i.val) :
    slotQuery [b] s = respond .ok (slotDescriptor s i) s := by
  have hb : fieldNat [b] 0 1 = i.val := (fieldNat_single b).trans h
  simp only [slotQuery, hb, i.isLt, dite_true]

theorem slotQuery_outOfRange {b : Byte} (h : 32 ≤ b.toNat) : slotQuery [b] s = respond .badValue [] s :=
  dif_neg (by rw [fieldNat_single]; omega)

theorem associationQuery_inRange {b : Byte} {i : Fin 8} (h : b.toNat = i.val) :
    associationQuery [b] s = respond .ok (assocDescriptor s i) s := by
  have hb : fieldNat [b] 0 1 = i.val := (fieldNat_single b).trans h
  simp only [associationQuery, hb, i.isLt, dite_true]

theorem associationQuery_outOfRange {b : Byte} (h : 8 ≤ b.toNat) : associationQuery [b] s = respond .badValue [] s :=
  dif_neg (by rw [fieldNat_single]; omega)

/-- A generation part has 23 bytes (Table 10-7). -/
theorem generationPart_length (s : State) (i : Fin 32) (r : GenRole) (x : CellImg) :
    (generationPart s i r x).length = 23 := by simp [generationPart, be16, be32]

theorem slotDescriptor_length (s : State) (i : Fin 32) :
    (slotDescriptor s i).length = 11 + 23 * (shownGenerations (slotOf s i)).length := by
  simp [slotDescriptor, be16, generationPart_length, List.length_flatMap, List.sum_replicate]
  omega

theorem shownGenerations_quarantined {img : SlotImg} (h : img.quarantined = true) : shownGenerations img = [] := if_pos h

/-- Three roles would need three cells. -/
theorem role_missing (img : SlotImg) :
    genWith img .current = none ∨ genWith img .overlap = none ∨ genWith img .staged = none := by
  by_contra h
  simp only [not_or, ← ne_eq, Option.ne_none_iff_exists'] at h
  obtain ⟨⟨⟨c, x⟩, hc⟩, ⟨⟨o, y⟩, ho⟩, ⟨⟨t, z⟩, ht⟩⟩ := h
  have rc := genWith_role hc
  have ro := genWith_role ho
  have rt := genWith_role ht
  have hco : c ≠ o := by rintro rfl; simp [rc] at ro
  have hct : c ≠ t := by rintro rfl; simp [rc] at rt
  have hot : o ≠ t := by rintro rfl; simp [ro] at rt
  cases c <;> cases o <;> cases t <;> contradiction

theorem shownGenerations_length_le (img : SlotImg) : (shownGenerations img).length ≤ 2 := by
  unfold shownGenerations
  split
  · exact Nat.zero_le 2
  · rcases role_missing img with h | h | h <;> simp only [List.filterMap_cons, List.filterMap_nil, h, Option.map_none] <;>
      repeat' split
    all_goals simp

/-- Settles O18, by the range of the number and the lengths of the descriptor's parts. -/
theorem queriesAnswerAnyNumberInRange : Obligations.QueriesAnswerAnyNumberInRange := by
  intro b s
  refine ⟨fun h => ⟨fun i hi => ?_, fun hb => ?_⟩, fun h => ⟨fun i hi => ?_, fun hb => ?_⟩, fun i => ⟨?_, ?_, fun hq => ?_⟩⟩
  · exact (onHanded_of_handed h).trans (congrArg _ (slotQuery_inRange hi))
  · exact (onHanded_of_handed h).trans (congrArg _ (slotQuery_outOfRange hb))
  · exact (onHanded_of_handed h).trans (congrArg _ (associationQuery_inRange hi))
  · exact (onHanded_of_handed h).trans (congrArg _ (associationQuery_outOfRange hb))
  · exact slotDescriptor_length s i
  · exact shownGenerations_length_le _
  · rw [slotDescriptor_length, shownGenerations_quarantined hq]
    rfl

/-! ### The directory -/

/-- The first slot that `p` selects. -/
theorem find_allSlots {p : Fin 32 → Bool} {i : Fin 32} (hi : p i = true) (h : ∀ j, j < i → p j = false) :
    allSlots.find? p = some i := by
  refine List.find?_eq_some_iff_getElem.2 ⟨hi, i.val, by simp [allSlots], by simp [allSlots], fun j hj => ?_⟩
  have hk : j < 32 := by omega
  simpa [allSlots] using h ⟨j, hk⟩ hj

theorem nextListed_some {cursor : Option (Fin 32)} {i : Fin 32} (hi : phaseOf (slotOf s i) ≠ .vacant)
    (hc : ∀ c, cursor = some c → c < i)
    (h : ∀ j, j < i → (∀ c, cursor = some c → c < j) → phaseOf (slotOf s j) = .vacant) :
    nextListed s cursor = some i := by
  refine find_allSlots (by simpa [hi, Option.all_eq_true] using hc) fun j hj => ?_
  by_cases hv : ∀ c, cursor = some c → c < j
  · simp [h j hj hv]
  · rw [Bool.and_eq_false_iff]
    exact .inl (by simpa [Option.all_eq_true, ← Bool.not_eq_true] using hv)

theorem nextListed_none {cursor : Option (Fin 32)}
    (h : ∀ i, (∀ c, cursor = some c → c < i) → phaseOf (slotOf s i) = .vacant) : nextListed s cursor = none := by
  refine List.find?_eq_none.2 fun i _ hi => ?_
  simp only [Bool.and_eq_true, Option.all_eq_true, decide_eq_true_eq, bne_iff_ne] at hi
  exact hi.2 (h i hi.1)

/-- Settles O19: both directory commands answer the slot that `nextListed` finds. -/
theorem directoryListsTheSlotsInOrder : Obligations.DirectoryListsTheSlotsInOrder := by
  intro body s
  refine ⟨fun h => ⟨fun i hi hj => ?_, fun hv => ?_⟩, fun i hq => ?_, fun hc => ?_, fun h => ⟨fun i hi hc hj => ?_, fun hv => ?_⟩⟩
  · have hn : nextListed s none = some i := nextListed_some hi (fun _ => nofun) fun j hji _ => hj j hji
    exact (onHanded_of_handed h).trans (by simp only [directoryFirst, hn])
  · have hn : nextListed s none = none := nextListed_none fun i _ => hv i
    exact (onHanded_of_handed h).trans (by simp only [directoryFirst, hn])
  · simp [phaseOf_quarantined hq]
  · obtain ⟨-, -, -, hp, -⟩ := hc
    rw [hp]; rfl
  · exact (onHanded_of_handed h).trans (by simp only [directoryNext, nextListed_some hi hc hj])
  · exact (onHanded_of_handed h).trans (by simp only [directoryNext, nextListed_none hv])

end Sys2Proof.Machine
end

section
/-! PROOFS. What the Store Writer makes of each job it takes (R12 to R23, R69, R72, R171, R175, R179, R188): `verdict` follows
`TakeRules`. -/

namespace Sys2Proof.Machine

variable {s : State}

/-! ### STAGE and ACTIVATE -/

theorem stageTarget_of_stagesInto {img : SlotImg} {c : CellId} (h : StagesInto img c) : stageTarget img = c := by
  unfold StagesInto at h
  unfold stageTarget
  cases hp : phaseOf img with
  | vacant | quarantined =>
    simp only [hp] at h ⊢
    exact h.symm
  | single =>
    simp only [hp] at h ⊢
    obtain ⟨hr, hc⟩ := h
    have hw : cellWith img .current = some (otherCell c) :=
      cellWith_eq hr (by rw [otherCell_otherCell, roleIn_empty hc]; nofun)
    simp [hw]
  | staged =>
    simp only [hp] at h ⊢
    simp [cellWith_eq h.1 h.2]
  | overlap =>
    simp only [hp] at h ⊢
    simp [cellWith_eq h.1 (by rw [h.2]; nofun)]

theorem takeStage_stale {slot : Fin 32} {b : Binding} {g : GenRecord} {f : Nat}
    (h : g.params.generation ≤ (slotOf s slot).floor ∨
      ∃ k, genNumber (slotOf s slot) .staged = some k ∧ g.params.generation ≤ k) :
    takeStage s slot b g f = .drop .staleGeneration := by
  refine if_pos ?_
  rcases h with h | ⟨k, hk, hg⟩
  · simp [h]
  · simp [hk, hg]

/-- A STAGE above the floor and above any staged generation is judged by its binding (R14). -/
theorem takeStage_fresh {slot : Fin 32} {b : Binding} {g : GenRecord} {f : Nat}
    (hf : (slotOf s slot).floor < g.params.generation)
    (hk : ∀ k, genNumber (slotOf s slot) .staged = some k → k < g.params.generation) :
    takeStage s slot b g f =
      if (slotOf s slot).binding = some b then .write (stageWrites s slot g f) else .drop .roleNotBound := by
  have stale : ¬((decide (g.params.generation ≤ (slotOf s slot).floor) ||
      (genNumber (slotOf s slot) .staged).any (g.params.generation ≤ ·)) = true) := by
    simp only [Bool.or_eq_true, decide_eq_true_eq, Option.any_eq_true, not_or, not_exists, not_and, not_le]
    exact ⟨hf, hk⟩
  unfold takeStage
  dsimp only
  rw [if_neg stale]
  by_cases hb : (slotOf s slot).binding = some b <;> simp [hb]

theorem stageWrites_quarantined {slot : Fin 32} {g : GenRecord} {f : Nat} (h : (slotOf s slot).quarantined = true) :
    stageWrites s slot g f = [.cellBody slot .a .empty, .cellBody slot .b .empty, .headerBody slot (headerOf (slotOf s slot))] ++
      stageTail s slot .a g f := if_pos h

theorem stageWrites_cell {slot : Fin 32} {g : GenRecord} {f : Nat} {c : CellId} (h : (slotOf s slot).quarantined = false)
    (hc : StagesInto (slotOf s slot) c) :
    stageWrites s slot g f = if cellOf (slotOf s slot) c = none ∧ (storedCell s slot c).body = .empty
      then stageTail s slot c g f else .cellBody slot c .empty :: stageTail s slot c g f := by
  simp only [stageWrites, h, stageTarget_of_stagesInto hc, Bool.false_eq_true, if_false]

theorem takeActivate_drop {slot : Fin 32} {gen : Nat}
    (h : (slotOf s slot).quarantined = true ∨ genNumber (slotOf s slot) .staged ≠ some gen) :
    takeActivate s slot gen = .drop .notStaged := by
  unfold takeActivate
  dsimp only
  split
  · rfl
  · split
    · rfl
    · rename_i hq _ c x hg
      refine if_neg fun hx => ?_
      exact h.elim hq fun h => h (hx ▸ genNumber_of_genWith hg)

theorem takeActivate_write {slot : Fin 32} {c : CellId} {x : CellImg} (hq : (slotOf s slot).quarantined = false)
    (hg : genWith (slotOf s slot) .staged = some (c, x)) :
    takeActivate s slot x.params.generation = .write (activateWrites s slot c x) := by simp [takeActivate, hq, hg]

theorem activateWrites_first {slot : Fin 32} {c : CellId} {x : CellImg} (h : genWith (slotOf s slot) .current = none) :
    activateWrites s slot c x = [.activation slot c (some ⟨1, s.clock.hour⟩)] := by
  simp only [activateWrites, nextStamp, h, cellWith_of_genWith_none h]

theorem activateWrites_next {slot : Fin 32} {c p : CellId} {x y : CellImg} {a : Activation}
    (h : genWith (slotOf s slot) .current = some (p, y)) (ha : y.activation = some a) :
    activateWrites s slot c x = .activation slot c (some ⟨a.stamp + 1, s.clock.hour⟩) ::
      if x.params.graceHours = 0 ∧ x.params.graceCount = 0 then [.cellBody slot p .empty] else [] := by
  simp [activateWrites, nextStamp, h, (genWith_cell h).1, ha, noGrace]

/-! ### OVERLAP_END, HEADER, counters -/

theorem takeOverlapEnd_drop {slot : Fin 32} {gen : Nat}
    (h : (slotOf s slot).quarantined = true ∨ genNumber (slotOf s slot) .overlap ≠ some gen) :
    takeOverlapEnd s slot gen = .drop .notStaged := by
  unfold takeOverlapEnd
  dsimp only
  split
  · rfl
  · split
    · rfl
    · rename_i hq _ c x hg
      refine if_neg fun hx => ?_
      exact h.elim hq fun h => h (hx ▸ genNumber_of_genWith hg)

theorem takeOverlapEnd_write {slot : Fin 32} {c : CellId} {x : CellImg} (hq : (slotOf s slot).quarantined = false)
    (hg : genWith (slotOf s slot) .overlap = some (c, x)) :
    takeOverlapEnd s slot x.params.generation = .write [.cellBody slot c .empty] := by simp [takeOverlapEnd, hq, hg]

theorem cellHolds_iff {img : SlotImg} {c : CellId} {gen : Nat} :
    cellHolds img c gen = true ↔ (cellOf img c).map (·.params.generation) = some gen := by
  cases h : cellOf img c <;> simp [cellHolds, h]

theorem counterStands_iff {slot : Fin 32} {c : CellId} {gen : Nat} : counterStands s slot c gen = true ↔
    (slotOf s slot).quarantined = false ∧ (cellOf (slotOf s slot) c).map (·.params.generation) = some gen := by
  simp [counterStands, cellHolds_iff]

theorem counterStands_cell {slot : Fin 32} {c : CellId} {x : CellImg} (hq : (slotOf s slot).quarantined = false)
    (hx : cellOf (slotOf s slot) c = some x) : counterStands s slot c x.params.generation = true :=
  counterStands_iff.2 ⟨hq, by rw [hx]; rfl⟩

theorem counterStands_gone {slot : Fin 32} {c : CellId} {gen : Nat} (h : (slotOf s slot).quarantined = true ∨
    (cellOf (slotOf s slot) c).map (·.params.generation) ≠ some gen) : counterStands s slot c gen = false := by
  rw [← Bool.not_eq_true, counterStands_iff]
  rintro ⟨hq, hx⟩
  exact h.elim (by simp [hq]) fun h => h hx

theorem takeReserve_gone {slot : Fin 32} {c : CellId} {gen v : Nat} (h : counterStands s slot c gen = false) :
    takeReserve s slot c gen v = .drop .generationRetired := if_pos (by simp [h])

theorem takeHigh_gone {slot : Fin 32} {c : CellId} {gen v : Nat} (h : counterStands s slot c gen = false) :
    takeHigh s slot c gen v = .drop .generationRetired := if_pos (by simp [h])

theorem takeReserve_stands {slot : Fin 32} {c : CellId} {gen v : Nat} {x : CellImg} (h : counterStands s slot c gen = true)
    (hx : cellOf (slotOf s slot) c = some x) :
    takeReserve s slot c gen v = .write (if v ≤ x.ceiling then [] else [ceilingWrite s slot c v]) := by
  simp [takeReserve, h, hx]

theorem takeHigh_stands {slot : Fin 32} {c : CellId} {gen v : Nat} {x : CellImg} (h : counterStands s slot c gen = true)
    (hx : cellOf (slotOf s slot) c = some x) :
    takeHigh s slot c gen v = .write (if v ≤ x.highWater then [] else [highWrite s slot c v]) := by
  simp [takeHigh, h, hx]

/-! ### ASSOCIATION (R69) -/

@[simp] theorem roleGet_rolesOf {α : Type} (f : Role → α) (r : Role) : roleGet (rolesOf f) r = f r := by cases r <;> rfl

theorem roles_ext {α : Type} {x y : Roles α} (h : ∀ r, roleGet x r = roleGet y r) : x = y := by
  obtain ⟨a, b, c, d⟩ := x
  obtain ⟨e, f, g, i⟩ := y
  exact (Roles.mk.injEq ..).symm ▸ ⟨h .unicast, h .broadcast, h .kek, h .authority⟩

theorem mem_allRoles (r : Role) : r ∈ allRoles := by cases r <;> decide

theorem mem_allAssocs (i : Fin 8) : i ∈ allAssocs := List.mem_finRange i

/-- The resolved entry is the one that `Resolves` describes. -/
theorem resolveEnrol_eq {i : Fin 8} {choices : Roles RoleChoice} {new : Roles (Option (Fin 32))}
    (h : Resolves s i choices new) : resolveEnrol s i choices = new := by
  refine roles_ext fun r => ?_
  obtain ⟨hb, hu, hl⟩ := h r
  rw [resolveEnrol, roleGet_rolesOf]
  cases hc : roleGet choices r with
  | bind slot p m => exact (hb slot p m hc).symm
  | unbind => exact (hu hc).symm
  | leave => exact (hl hc).symm

theorem duplicateParty_iff {i : Fin 8} {party : Id64} : duplicateParty s i party = true ↔ OtherCarries s i party := by
  simp [duplicateParty, OtherCarries, mem_allAssocs, and_assoc]

theorem rolesAllowed_iff {cls : PartyClass} {new : Roles (Option (Fin 32))} :
    (!rolesAllowed cls new) = true ↔ RoleBarred cls new := by
  simp [rolesAllowed, RoleBarred, mem_allRoles]

theorem namesSlot_iff {b : Roles (Option (Fin 32))} {slot : Fin 32} :
    namesSlot b slot = true ↔ ∃ q, roleGet b q = some slot := by simp [namesSlot, mem_allRoles]

theorem slotConflict_iff {i : Fin 8} {new : Roles (Option (Fin 32))} {r : Role} : slotConflict s i new r = true ↔
    ∃ slot, roleGet new r = some slot ∧
      ((∃ q, q ≠ r ∧ roleGet new q = some slot) ∨ (∃ j : Fin 8, j ≠ i ∧ ∃ q, roleGet (assocOf s j).bindings q = some slot) ∨
        ∃ b, (slotOf s slot).binding = some b ∧ b ≠ ⟨i, r⟩) := by
  unfold slotConflict
  cases hs : roleGet new r with
  | none => simp
  | some slot =>
    cases hb : (slotOf s slot).binding <;>
      simp [hb, mem_allRoles, mem_allAssocs, namesSlot_iff, or_assoc]

theorem slotTaken_iff {i : Fin 8} {new : Roles (Option (Fin 32))} :
    allRoles.any (slotConflict s i new) = true ↔ SlotTaken s i new := by
  simp only [List.any_eq_true, mem_allRoles, true_and, slotConflict_iff, SlotTaken]

theorem slotNotEmpty_iff {i : Fin 8} {new : Roles (Option (Fin 32))} :
    slotNotEmpty s i new = true ↔ LetsGoHeld s i new := by
  simp only [slotNotEmpty, List.any_eq_true, mem_allRoles, true_and, LetsGoHeld]
  refine exists_congr fun r => ?_
  cases roleGet (assocOf s i).bindings r <;> simp

/-- The checks of an ASSOCIATION of the ENROL form are made on the resolved entry. -/
theorem takeAssociation_drop {i : Fin 8} {party : Id64} {cls : PartyClass} {choices : Roles RoleChoice}
    {new : Roles (Option (Fin 32))} {c : Code} (h : Resolves s i choices new)
    (hc : associationCheck s i party cls new = some c) : takeAssociation s i (.enrol party cls choices) = .drop c := by
  simp only [takeAssociation, resolveEnrol_eq h, hc]

theorem takeAssociation_write {i : Fin 8} {party : Id64} {cls : PartyClass} {choices : Roles RoleChoice}
    {new : Roles (Option (Fin 32))} (h : Resolves s i choices new) (hc : associationCheck s i party cls new = none) :
    takeAssociation s i (.enrol party cls choices) =
      .write ((if (assocOf s i).floor = none then [.assocFloor i false 0, .assocFloor i true 0] else []) ++
        [.assocBody i ⟨true, party, cls, new⟩]) := by
  simp only [takeAssociation, resolveEnrol_eq h, hc, Option.isNone_iff_eq_none]

/-! ### ARM_RECORD (R161, R171) -/

theorem inputsAll_iff {p : TamperInput → Bool} : inputsAll p = true ↔ ∀ i, p i = true := by
  simp only [inputsAll, Bool.and_eq_true]
  constructor
  · rintro ⟨⟨⟨a, b⟩, c⟩, d⟩ i
    cases i <;> assumption
  · exact fun h => ⟨⟨⟨h _, h _⟩, h _⟩, h _⟩

theorem groupMatches_iff {arm : ArmRecord} {levels : Inputs (Option Level)} : groupMatches arm levels = true ↔
    ∀ i l, inputGet arm i = some l → inputGet levels i = some l := by
  simp only [groupMatches, inputsAll_iff]
  refine forall_congr' fun i => ?_
  cases h : inputGet arm i <;> simp [inputMatches, h]

theorem takeArm_drop {record : ArmRecord}
    (h : ∃ i l, inputGet record i = some l ∧ inputGet s.monitor.debounced i ≠ some l) :
    takeArm s record = .drop .notMatching := by
  obtain ⟨i, l, hi, hl⟩ := h
  exact if_neg fun hg => hl (groupMatches_iff.1 hg i l hi)

theorem takeArm_write {record : ArmRecord}
    (h : ∀ i l, inputGet record i = some l → inputGet s.monitor.debounced i = some l) :
    takeArm s record = .write [if s.monitor.armLost then .arm false ⟨record, 0⟩
      else .arm (!s.monitor.armSecond) ⟨record, (s.monitor.armCount + 1) % 4294967296⟩] := by
  rw [takeArm, if_pos (groupMatches_iff.2 h), nextArm]
  cases s.monitor.armLost <;> rfl

/-! ### Positions (R175) -/

theorem writesSecond_iff (t : TwoPos) : writesSecond t = true ↔
    t.first ≠ none ∧ (t.second = none ∨ ∃ a b, t.first = some a ∧ t.second = some b ∧ b ≤ a) := by
  obtain ⟨first, second⟩ := t
  cases first <;> cases second <;> simp [writesSecond]

/-! ### The rules together -/

theorem takeRules_verdict (s : State) : TakeRules s (verdict s) where
  position := writesSecond_iff
  stageStale _ _ _ _ h := takeStage_stale h
  stageUnbound _ _ _ _ hf hk hb := (takeStage_fresh hf hk).trans (if_neg hb)
  stage slot target b f hf hk hb := by
    have hw : verdict s (.stage slot target b f) = .write (stageWrites s slot b f) :=
      (takeStage_fresh hf hk).trans (if_pos hb)
    refine ⟨fun hq => hw.trans (congrArg _ (stageWrites_quarantined hq)), fun hq c hc => ⟨fun he => ?_, fun he => ?_⟩⟩
    · exact hw.trans (congrArg _ ((stageWrites_cell hq hc).trans (if_pos he)))
    · exact hw.trans (congrArg _ ((stageWrites_cell hq hc).trans (if_neg he)))
  notStaged _ _ h := takeActivate_drop h
  activate slot c x hq hg := ⟨fun h => (takeActivate_write hq hg).trans (congrArg _ (activateWrites_first h)),
    fun _ _ _ h ha => (takeActivate_write hq hg).trans (congrArg _ (activateWrites_next h ha))⟩
  noOverlap _ _ _ h := ⟨_, takeOverlapEnd_drop h⟩
  overlapEnd _ _ _ _ hq hg := takeOverlapEnd_write hq hg
  revoke _ _ := rfl
  suspend _ := rfl
  resume _ := rfl
  unbind _ _ _ := ⟨fun h => if_pos h, fun h => if_neg h⟩
  bind slot b p m := by
    refine ⟨fun h => if_pos ?_, fun other h ho => if_neg ?_⟩
    · rcases h with h | h <;> simp [h]
    · simpa [h] using ho
  genGone _ _ _ _ h := ⟨⟨_, takeReserve_gone (counterStands_gone h)⟩, ⟨_, takeHigh_gone (counterStands_gone h)⟩⟩
  reserve slot c x n hq hx := by
    have hw := takeReserve_stands (v := n) (counterStands_cell hq hx) hx
    exact ⟨fun h => hw.trans (by rw [if_pos h]), fun h => hw.trans (by rw [if_neg (by omega)]; rfl)⟩
  highWater slot c x n hq hx := by
    have hw := takeHigh_stands (v := n) (counterStands_cell hq hx) hx
    exact ⟨fun h => hw.trans (by rw [if_pos h]), fun h => hw.trans (by rw [if_neg (by omega)]; rfl)⟩
  hour := rfl
  emptied _ := ⟨_, rfl, rfl⟩
  enrol i party cls choices new h := by
    simp only [← duplicateParty_iff, ← rolesAllowed_iff, ← slotTaken_iff, ← slotNotEmpty_iff]
    refine ⟨fun h1 => takeAssociation_drop h (if_pos h1), fun h1 => ⟨fun h2 => takeAssociation_drop h ?_, fun h2 =>
      ⟨fun h3 => takeAssociation_drop h ?_, fun h3 => ⟨fun h4 => takeAssociation_drop h ?_, fun h4 =>
        takeAssociation_write h ?_⟩⟩⟩⟩
    · rw [associationCheck, if_neg h1, if_pos h2]
    · rw [associationCheck, if_neg h1, if_neg h2, if_pos h3]
    · rw [associationCheck, if_neg h1, if_neg h2, if_neg h3, if_pos h4]
    · rw [associationCheck, if_neg h1, if_neg h2, if_neg h3, if_neg h4]
  bundleFloor i party cls n := by
    refine ⟨fun h => if_pos ?_, fun ha hi => ⟨fun h => ?_, fun h => ?_⟩⟩
    · simpa using h
    · simp [verdict, takeBundleFloor, ha, hi, h]
    · simp [verdict, takeBundleFloor, ha, hi, h]
  arm _ := ⟨takeArm_drop, takeArm_write⟩
  cellRepair slot c := by
    refine ⟨fun h => ⟨.storeFailed, if_pos ?_⟩, fun hq hc => if_neg (by simp [hq, hc])⟩
    rcases h with h | h
    · simp [h]
    · simp [Option.isSome_iff_ne_none.2 h]
  floorRepair slot := ⟨fun h => ⟨.storeFailed, if_pos h⟩, fun h => if_neg (by simp [h])⟩

end Sys2Proof.Machine
end

section
/-! PROOFS. What the ends of jobs and of contexts do to the parts that proofs about them read: contexts, queue, entries, and the
command in flight. -/

namespace Sys2Proof.Machine

variable {s t : State}

/-! ### Contexts (R125, R126, R152, R153) -/

theorem ctxOf_congr (h : t.renewal.ctxs = s.renewal.ctxs) (i : Fin 2) : ctxOf t i = ctxOf s i :=
  congrArg (fun v : Vector Ctx 2 => v[i]) h

/-- A context that fails: its record has the fields reached and no receipt (R125). -/
theorem ctxOf_ctxFail (i : Fin 2) (c : Code) (s : State) :
    (ctxOf (ctxFail i c s) i).state = .failed ∧ (ctxOf (ctxFail i c s) i).jobs = [] ∧
      (ctxOf (ctxFail i c s) i).result = some ⟨c, { (ctxOf s i).fields with receipt := none }⟩ := by
  simp [ctxFail]

theorem ctxOf_ctxFail_other {i j : Fin 2} {c : Code} (h : j ≠ i) : ctxOf (ctxFail i c s) j = ctxOf s j := by
  simp [ctxFail, ctxOf_setCtx_other h]

/-- A notice that is raised is in the Notice Set (R199). -/
theorem mem_raiseIn (n : Notice) (ns : List Notice) : n ∈ raiseIn n ns := by
  induction ns with
  | nil => simp [raiseIn]
  | cons m rest ih =>
    unfold raiseIn
    split
    · exact .head _
    · exact .tail _ ih

theorem notices_ctxFail (i : Fin 2) (c : Code) (s : State) : Notice.renewalFinished i c ∈ (ctxFail i c s).notices :=
  mem_raiseIn _ _

/-- What the failure of a context leaves (R125). -/
theorem ctxFail_parts (i : Fin 2) (c : Code) (s : State) :
    ∃ r ns, ctxFail i c s = { s with renewal := { s.renewal with ctxs := r }, notices := ns } := ⟨_, _, rfl⟩

/-- The task in hand without its context (R125). -/
def unlinkTask (i : Fin 2) : Task → Task
  | .queued q => .queued (unlinkJob i q)
  | t => t

theorem unlinkJobs_eq (i : Fin 2) (s : State) : unlinkJobs i s =
    { s with writer := { s.writer with job := s.writer.job.map fun r => { r with task := unlinkTask i r.task } } } := by
  have same : (fun r : Running => { r with task := match r.task with | .queued q => .queued (unlinkJob i q) | t => t }) =
      fun r => { r with task := unlinkTask i r.task } := by
    funext r
    cases h : r.task <;> rfl
  exact congrArg (fun f => ({ s with writer := { s.writer with job := s.writer.job.map f } } : State)) same

/-- What the failure of a STORING context leaves: its queued jobs go, one in progress loses it (R153). -/
theorem failStoring_parts (i : Fin 2) (c : Code) (s : State) : ∃ r ns, failStoring i c s =
    { s with
      renewal := r, notices := ns
      writer := { s.writer with
        queue := s.writer.queue.filter fun q => q.ctx != some i
        job := s.writer.job.map fun r => { r with task := unlinkTask i r.task } } } := by
  unfold failStoring
  rw [unlinkJobs_eq]
  exact ⟨_, _, rfl⟩

theorem ctxOf_failStoring (i : Fin 2) (c : Code) (s : State) :
    (ctxOf (failStoring i c s) i).state = .failed ∧ (ctxOf (failStoring i c s) i).jobs = [] ∧
      (ctxOf (failStoring i c s) i).result = some ⟨c, { (ctxOf s i).fields with receipt := none }⟩ :=
  ctxOf_ctxFail i c (leaveStoring i (unlinkJobs i (removeCtxJobs i s)))

theorem ctxOf_failStoring_other {i j : Fin 2} {c : Code} (h : j ≠ i) : ctxOf (failStoring i c s) j = ctxOf s j :=
  ctxOf_ctxFail_other h

/-- A job of a STORING context that fails or is dropped fails the context, unless the device is FAULTED (R137, R153). -/
theorem ctxJobFailed_storing {i : Fin 2} {c : Code} (hd : s.device ≠ .faulted) (h : (ctxOf s i).state = .storing) :
    ctxJobFailed i c s = failStoring i c s := by simp [ctxJobFailed, hd, h]

theorem ctxJobFailed_other {i : Fin 2} {c : Code} (h : (ctxOf s i).state ≠ .storing) : ctxJobFailed i c s = s := by
  simp [ctxJobFailed, h]

theorem ctxJobFailed_cases (i : Fin 2) (c : Code) (s : State) :
    ctxJobFailed i c s = s ∨ (ctxOf s i).state = .storing ∧ ctxJobFailed i c s = failStoring i c s := by
  unfold ctxJobFailed
  split
  · exact .inl rfl
  · rename_i h
    simp only [Bool.or_eq_true, decide_eq_true_eq, bne_iff_ne, not_or, not_not] at h
    exact .inr ⟨h.2, rfl⟩

/-- A completed job of a context changes the context and the Notice Set (R152). -/
theorem ctxJobDone_parts (i : Fin 2) (s : State) :
    ∃ r ns, ctxJobDone i s = { s with renewal := r, notices := ns } := by
  unfold ctxJobDone
  dsimp -proj only
  repeat' split
  all_goals exact ⟨_, _, rfl⟩

/-! ### Requesters told of a completed job (R12) -/

/-- The Port Executor's command goes on where it waited on the job. -/
def tellPort (q : QJob) (s : State) : State := if q.port then portCounterDone s else s

/-- The context of the job has one job less to wait for. -/
def tellContext (q : QJob) (s : State) : State :=
  match q.ctx with
  | none => s
  | some i => ctxJobDone i s

/-- A queued job completes: its effect, then its requesters, then a comparison after an ARM_RECORD (R12, R171). -/
theorem completeJob_eq (q : QJob) (hour : Nat) (both : Bool) (s : State) : completeJob q hour both s =
    if isArm q.job then compareLive (tellContext q (tellPort q (doneEffect q hour both s)))
    else tellContext q (tellPort q (doneEffect q hour both s)) := by
  cases hc : q.ctx <;> simp only [completeJob, tellContext, tellPort, hc]

theorem tellContext_parts (q : QJob) (s : State) : ∃ r ns, tellContext q s = { s with renewal := r, notices := ns } := by
  unfold tellContext
  split
  · exact ⟨_, _, rfl⟩
  · exact ctxJobDone_parts _ s

theorem beside_tellPort {r : State} {q : QJob} (h : Beside r s) : Beside r (tellPort q s) := by
  unfold tellPort
  split
  · exact beside_portCounterDone h
  · exact h

theorem beside_tellContext {r : State} {q : QJob} (h : Beside r s) : Beside r (tellContext q s) := by
  unfold tellContext
  split
  · exact h
  · exact beside_ctxJobDone h

theorem kept_tellPort {r : State} {q : QJob} (h : Kept r s) : Kept r (tellPort q s) := by
  unfold tellPort
  split
  · exact kept_portCounterDone h
  · exact h

theorem kept_tellContext {r : State} {q : QJob} (h : Kept r s) : Kept r (tellContext q s) := by
  unfold tellContext
  split
  · exact h
  · exact kept_ctxJobDone h

theorem portCounterDone_free (h : s.port.exec = .free) : portCounterDone s = s := by simp only [portCounterDone, h]

/-- Where no command waits on the job, none is told. -/
theorem tellPort_unanswered {q : QJob} (h : q.port = false ∨ s.port.exec = .free) : tellPort q s = s := by
  rcases h with h | h
  · simp [tellPort, h]
  · simp only [tellPort, portCounterDone_free h, ite_self]

/-! ### The queue -/

theorem requestCounter_queue {same : QJob → Bool} {job : StoreJob} {v : Nat} {port hold : Bool}
    (h : requestCounter same job v port hold s = some t) : ∃ q, t = setQueue q s := by
  unfold requestCounter at h
  split at h
  · cases h; exact ⟨_, rfl⟩
  · split at h <;> cases h
    exact ⟨_, rfl⟩

/-! ### A PROTECT takes a counter value (R43, R45, R103) -/

theorem core_cell {x y : SlotImg} (h : slotCore x = slotCore y) (c : CellId) :
    (cellOf x c).map cellCore = (cellOf y c).map cellCore := by
  simp only [slotCore, Prod.mk.injEq] at h
  obtain ⟨-, -, -, -, -, ha, hb⟩ := h
  cases c
  · exact ha
  · exact hb

theorem place_asks (q : Requester) (j : EngineJob) (s : State) :
    (place q j s).engine.job = some ⟨q, j, false⟩ ∨ lineOf (place q j s) q = some j := by
  unfold place
  split
  · exact .inl rfl
  · cases q <;> exact .inr rfl

@[simp] theorem setWear_cache {i : Fin 32} {c : CellId} : (setWear i c s).cache = s.cache := by
  unfold setWear
  repeat' split
  all_goals rfl

@[simp] theorem recomputeWear_cache {i : Fin 32} {c : CellId} : (recomputeWear i c s).cache = s.cache := by
  unfold recomputeWear
  dsimp only
  repeat' split
  all_goals simp

/-- The early reservation check changes the queue and a reservation-pending flag, if anything (R45). -/
theorem earlyReserve_cases (op : ProtectOp) (s : State) :
    earlyReserve op s = s ∨ ∃ q, earlyReserve op s = setPending op.slot op.gen true (setQueue q s) := by
  unfold earlyReserve
  split
  · split
    · exact .inl rfl
    · split
      · split
        · rename_i h
          obtain ⟨q, rfl⟩ := requestCounter_queue h
          exact .inr ⟨q, rfl⟩
        · exact .inl rfl
      · exact .inl rfl
  · exact .inl rfl

theorem findEntry_setPending (i : Fin 32) (g : Nat) (b : Bool) (s : State) :
    findEntry (setPending i g b s) i g = (findEntry s i g).map fun e => { e with resvPending := b } :=
  findEntry_updEntry fun _ => ⟨rfl, rfl⟩

theorem earlyReserve_n (op : ProtectOp) (s : State) :
    (findEntry (earlyReserve op s) op.slot op.gen).bind (·.n) = (findEntry s op.slot op.gen).bind (·.n) := by
  rcases earlyReserve_cases op s with h | ⟨q, h⟩ <;> rw [h]
  rw [findEntry_setPending, findEntry_setQueue]
  cases findEntry s op.slot op.gen <;> rfl

/-- The state as a value has been given out, before its frame job is asked for (R103). -/
def valueGiven (op : ProtectOp) (n : Nat) (s : State) : State :=
  recomputeWear op.slot op.cell (earlyReserve op (updEntry op.slot op.gen (fun e => { e with n := some (n + 1) }) s))

theorem giveValue_eq (op : ProtectOp) (key : List Byte) (n : Nat) (s : State) : giveValue op key n s =
    place .port (.frameProtect key (frameNonce (systemTitle (valueGiven op n s)) n) op.header op.payload)
      (setExec (.protect { op with stage := .frame n (shownClass (valueGiven op n s) op.slot op.cell) }) (valueGiven op n s)) := by
  unfold giveValue valueGiven
  rfl

theorem keys_withN (n : Option Nat) (e : Entry) :
    ({ e with n := n } : Entry).slot = e.slot ∧ ({ e with n := n } : Entry).gen = e.gen := ⟨rfl, rfl⟩

theorem beside_valueGiven (op : ProtectOp) (n : Nat) (s : State) : Beside s (valueGiven op n s) :=
  beside_recomputeWear (beside_earlyReserve (beside_updEntry (beside_refl s)))

theorem systemTitle_valueGiven (op : ProtectOp) (n : Nat) (s : State) :
    systemTitle (valueGiven op n s) = systemTitle s := by
  have array : (valueGiven op n s).array = s.array :=
    (kept_recomputeWear (kept_earlyReserve (kept_updEntry (keys_withN _) (kept_refl s)))).array
  rw [systemTitle, array, systemTitle]

theorem findEntry_valueGiven {op : ProtectOp} {n : Nat} {e : Entry} (he : findEntry s op.slot op.gen = some e) :
    (findEntry (valueGiven op n s) op.slot op.gen).bind (·.n) = some (n + 1) := by
  have entries : (valueGiven op n s).cache = _ := recomputeWear_cache
  rw [findEntry_congr (congrArg (·.entries) entries), earlyReserve_n, findEntry_updEntry (keys_withN _), he]
  rfl

/-- The value taken: the entry's next value rises by one, the class kept for the answer is the one shown, and the frame protect job is
asked for under the meter's title and the value (R43, R103, R104). -/
theorem giveValue_spec {op : ProtectOp} {key : List Byte} {n : Nat} {e : Entry} {x : CellImg}
    (he : findEntry s op.slot op.gen = some e) (hx : cellOf (slotOf s op.slot) op.cell = some x) :
    ∃ cls, (giveValue op key n s).port.exec = .protect { op with stage := .frame n cls } ∧
      (cellOf (slotOf (giveValue op key n s) op.slot) op.cell).map classOf = some cls ∧
      (findEntry (giveValue op key n s) op.slot op.gen).bind (·.n) = some (n + 1) ∧
      ((giveValue op key n s).engine.job =
          some ⟨.port, .frameProtect key (be64 (systemTitle s) ++ be32 n) op.header op.payload, false⟩ ∨
        (giveValue op key n s).engine.portLine =
          some (.frameProtect key (be64 (systemTitle s) ++ be32 n) op.header op.payload)) := by
  rw [giveValue_eq, systemTitle_valueGiven]
  refine ⟨shownClass (valueGiven op n s) op.slot op.cell, ?_, ?_, ?_, ?_⟩
  · rw [place_port]; rfl
  · have core := core_cell ((beside_valueGiven op n s).slots op.slot) op.cell
    rw [slotOf, place_slots]
    change (cellOf (slotOf (valueGiven op n s) op.slot) op.cell).map classOf = _
    rw [shownClass]
    cases hy : cellOf (slotOf (valueGiven op n s) op.slot) op.cell with
    | none => simp [hy, hx] at core
    | some y => rfl
  · rw [findEntry, place_cache]
    exact findEntry_valueGiven he
  · exact place_asks .port _ _

/-- A value below the ceiling is taken, unless the generation is spent (R103). -/
theorem takeValue_gives {op : ProtectOp} {e : Entry} {x : CellImg} {n : Nat} (he : findEntry s op.slot op.gen = some e)
    (hx : cellOf (slotOf s op.slot) op.cell = some x) (hn : e.n = some n) (hw : x.wear ≠ some 1000) (hm : n ≠ maxU32)
    (hc : n < x.ceiling) : takeValue op s = giveValue op e.key n s := by
  have hm' : n ≠ 4294967295 := hm
  simp [takeValue, he, hx, hn, hw, hm', hc]

theorem takeValue_spent {op : ProtectOp} {e : Entry} {x : CellImg} {n : Nat} (he : findEntry s op.slot op.gen = some e)
    (hx : cellOf (slotOf s op.slot) op.cell = some x) (hn : e.n = some n) (h : x.wear = some 1000 ∨ n = maxU32) :
    takeValue op s = finish .keySpent [] s := by
  have h' : x.wear = some 1000 ∨ n = 4294967295 := h
  simp [takeValue, he, hx, hn, h']

theorem causeOf_of_findEntry {i : Fin 32} {g : Nat} {e : Entry} (h : findEntry s i g = some e) :
    causeOf s i g = e.withhold := by rw [causeOf, h]; rfl

/-- A PROTECT whose RESERVE has completed takes its value where its entry carries no cause (R44). -/
theorem portCounterDone_protect {op : ProtectOp} (h : s.port.exec = .protect op) (hs : op.stage = .reserve)
    (hc : causeOf s op.slot op.gen = none) : portCounterDone s = takeValue op s := by
  simp only [portCounterDone, h, hs, hc, if_true, Option.isSome_none, Bool.false_eq_true, if_false]

theorem portCounterDone_unprotect {op : UnprotectOp} (h : s.port.exec = .unprotect op) (hs : op.stage = .high) :
    portCounterDone s = unprotectHighEnd op s := by
  simp only [portCounterDone, h, hs, if_true]

end Sys2Proof.Machine
end

section
/-! PROOFS. The Store Writer takes its next job: the sources in order, a job of the queue by its verdict, and the STAGE (R12, R14,
R176). -/

namespace Sys2Proof.Machine

variable {s t : State}

theorem exec_jobTake (hr : running s = true) (hj : s.writer.job = none) :
    exec .jobTake s = .next (portSettle (takeNext s)) := by simp [exec, execJobTake, hr, hj, settled]

/-! ### The sources -/

theorem takesTamper_none_of_tamper (h : s.writer.tamper = none) : takesTamper s = none := by simp [takesTamper, h]

theorem takeNext_tamper {w : TamperWork} {it : TamperItem} {rest : List TamperItem} (hw : s.writer.tamper = some w)
    (hi : w.items = it :: rest) (hd : it = .closing → s.device ≠ .faulted) : takeNext s = takeItem w s := by
  have ht : takesTamper s = some w := by
    cases it with
    | closing => simp [takesTamper, hw, hi, hd rfl]
    | opening | slot => simp [takesTamper, hw, hi]
  simp only [takeNext, ht]

theorem takeNext_flush {it : FlushItem} {rest : List FlushItem} (ht : s.writer.tamper = none)
    (hf : s.writer.flush = it :: rest) (hd : servingOrHolding s = true) : takeNext s = takeFlush it rest s := by
  simp only [takeNext, takesTamper_none_of_tamper ht, hf, hd, if_true]

theorem takeNext_queue {q : QJob} {rest : List QJob} (ht : s.writer.tamper = none) (hf : s.writer.flush = [])
    (hq : s.writer.queue = q :: rest) (hd : s.device = .serving ∨ s.device = .holding .command) :
    takeNext s = takeQueued q rest s := by
  have hd' : takesQueue s = true := by rcases hd with h | h <;> simp [takesQueue, h]
  simp only [takeNext, takesTamper_none_of_tamper ht, hf, hq, hd', if_true]

/-- With no item of a list to take, nothing is taken where the flush list is not served and the queue neither (R176). -/
theorem takeNext_nothing (ht : takesTamper s = none) (hf : s.writer.flush = [] ∨ servingOrHolding s = false)
    (hq : s.writer.queue = [] ∨ takesQueue s = false) : takeNext s = s := by
  unfold takeNext
  rw [ht]
  dsimp only
  split
  · rename_i h
    simp [hf.resolve_left (by simp [h])]
  · rename_i h
    simp [hq.resolve_left (by simp [h])]
  · rfl

theorem startTask_cons (k : Task) (w : ArrayWrite) (ws : List ArrayWrite) (s : State) : startTask k (w :: ws) s =
    { s with writer := { s.writer with job := some ⟨k, w :: ws, false, s.clock.hour, false, stagesBoth s k⟩ } } := rfl

theorem startTask_nil (k : Task) (s : State) :
    startTask k [] s = completeTask ⟨k, [], false, s.clock.hour, false, stagesBoth s k⟩ s := rfl

/-! ### Items of a tamper work list (R164, R165) -/

/-- The answer in FAULTED leaves the task in hand but for its waiter, the lists, the array and the images. -/
structure SettledFrom (s t : State) : Prop where
  job : t.writer.job = s.writer.job ∨
    t.writer.job = s.writer.job.map fun r => { r with task := unwaitedTask r.task }
  tamper : t.writer.tamper = s.writer.tamper
  array : t.array = s.array
  slots : t.slots = s.slots

theorem portSettle_settled (s : State) : SettledFrom s (portSettle s) := by
  rcases portSettle_cases s with h | h <;> rw [h]
  · exact ⟨.inl rfl, rfl, rfl, rfl⟩
  · exact ⟨.inr rfl, rfl, rfl, rfl⟩

/-- A task that no command waits on is in hand as it was. -/
theorem SettledFrom.job_eq {r : Running} (h : SettledFrom s t) (hj : s.writer.job = some r)
    (hr : unwaitedTask r.task = r.task) : t.writer.job = some r := by
  rcases h.job with h | h <;> rw [h, hj]
  simp [hr]

theorem SettledFrom.job_none (h : SettledFrom s t) (hj : s.writer.job = none) : t.writer.job = none := by
  rcases h.job with h | h <;> simp [h, hj]

/-- The work list with its first item taken. -/
def itemTaken (w : TamperWork) (rest : List TamperItem) (s : State) : State :=
  { s with writer := { s.writer with tamper := some { w with items := rest } } }

/-- The state with a task in hand. -/
def inHand (k : Task) (ws : List ArrayWrite) (s : State) : State :=
  { s with writer := { s.writer with job := some ⟨k, ws, false, s.clock.hour, false, false⟩ } }

/-- The task that an item of a list becomes. -/
def itemTask (w : TamperWork) : TamperItem → Task
  | .opening => .opening
  | .slot slot act => .item slot act
  | .closing => .closing { w.record with pendingSet := w.failed }

/-- The writes of an item of a list (R164, R165). -/
def writesOfItem (w : TamperWork) (s : State) : TamperItem → List ArrayWrite
  | .opening => [.tamper w.record]
  | .slot slot act => itemWrites s slot act
  | .closing => [.tamper { w.record with pendingSet := w.failed }]

theorem takeItem_eq {w : TamperWork} {it : TamperItem} {rest : List TamperItem} (hi : w.items = it :: rest)
    (hd : it = .closing → s.device ≠ .faulted) :
    takeItem w s = inHand (itemTask w it) (writesOfItem w s it) (itemTaken w rest s) := by
  cases it with
  | opening => simp only [takeItem, hi]; rfl
  | slot slot act => simp only [takeItem, hi]; cases act <;> rfl
  | closing => simp only [takeItem, hi, hd rfl, if_false]; rfl

theorem unwaitedTask_itemTask (w : TamperWork) (it : TamperItem) : unwaitedTask (itemTask w it) = itemTask w it := by
  cases it <;> rfl

/-! ### Flush items (R182, R183) -/

/-- The state with a flush item taken off its list, its entry clean where it was made from one. -/
def flushTaken (it : FlushItem) (rest : List FlushItem) (s : State) : State :=
  if it.fromEntry then
    updEntry it.slot it.gen (fun e => { e with dirty := false, flushReq := false })
      { s with writer := { s.writer with flush := rest } }
  else { s with writer := { s.writer with flush := rest } }

theorem flushTaken_parts (it : FlushItem) (rest : List FlushItem) (s : State) :
    ∃ c, flushTaken it rest s = { s with cache := c, writer := { s.writer with flush := rest } } := by
  unfold flushTaken
  split <;> exact ⟨_, rfl⟩

theorem takeFlush_drop {it : FlushItem} {rest : List FlushItem} {c : Code}
    (h : verdict s (.highWater it.slot it.cell it.gen (flushValue s it)) = .drop c) :
    takeFlush it rest s = flushTaken it rest s := by
  have h' : takeHigh (flushTaken it rest s) it.slot it.cell it.gen (flushValue s it) = .drop c := by
    obtain ⟨x, hx⟩ := flushTaken_parts it rest s
    rw [hx]; exact h
  unfold flushTaken at h' ⊢
  simp only [takeFlush, h']

theorem takeFlush_write {it : FlushItem} {rest : List FlushItem} {ws : List ArrayWrite}
    (h : verdict s (.highWater it.slot it.cell it.gen (flushValue s it)) = .write ws) :
    takeFlush it rest s = startTask (.flush { it with value := flushValue s it, fromEntry := false }) ws
      (flushTaken it rest s) := by
  have h' : takeHigh (flushTaken it rest s) it.slot it.cell it.gen (flushValue s it) = .write ws := by
    obtain ⟨x, hx⟩ := flushTaken_parts it rest s
    rw [hx]; exact h
  unfold flushTaken at h' ⊢
  simp only [takeFlush, h']

/-- A flush item made from an entry leaves it clean (R182). -/
theorem findEntry_flushTaken {it : FlushItem} {rest : List FlushItem} {e : Entry} (hi : it.fromEntry = true)
    (he : findEntry s it.slot it.gen = some e) : findEntry (flushTaken it rest s) it.slot it.gen =
      some { e with dirty := false, flushReq := false } := by
  rw [flushTaken, if_pos hi, findEntry_updEntry]
  · exact congrArg (Option.map _) he
  · exact fun _ => ⟨rfl, rfl⟩

theorem findEntry_doneHigh (slot : Fin 32) (c : CellId) (gen v : Nat) (s : State) :
    findEntry (doneHigh slot c gen v s) slot gen =
      (findEntry s slot gen).map fun e => if e.h = v then { e with dirty := false, flushReq := false } else e :=
  findEntry_updEntry (s := setSlot s slot _) fun e => by split <;> exact ⟨rfl, rfl⟩

/-! ### The head of the queue (R12, R176) -/

theorem takeQueued_drop {q : QJob} {rest : List QJob} {c : Code} (h : verdict s q.job = .drop c) :
    takeQueued q rest s = dropJob q c (setQueue rest s) := by
  have h' : verdict (setQueue rest s) q.job = .drop c := by rw [← h]; cases q.job <;> rfl
  simp only [takeQueued, h']

theorem takeQueued_write {q : QJob} {rest : List QJob} {ws : List ArrayWrite} (h : verdict s q.job = .write ws) :
    takeQueued q rest s = startTask (.queued q) ws (setQueue rest s) := by
  have h' : verdict (setQueue rest s) q.job = .write ws := by rw [← h]; cases q.job <;> rfl
  simp only [takeQueued, h']

theorem stagesBoth_iff {q : QJob} : stagesBoth s (.queued q) = true ↔
    ∃ slot b g f, q.job = .stage slot b g f ∧ (slotOf s slot).quarantined = true := by
  obtain ⟨job, ctx, port, holdFlush⟩ := q
  cases job <;> simp [stagesBoth]

/-- Only a RESERVE or HIGHWATER that is not above what is stored makes no write (R46, R51). -/
theorem verdict_nil {j : StoreJob} (h : verdict s j = .write []) :
    (∃ slot c gen v x, j = .reserve slot c gen v ∧ cellOf (slotOf s slot) c = some x ∧ v ≤ x.ceiling) ∨
    ∃ slot c gen v x, j = .highWater slot c gen v ∧ cellOf (slotOf s slot) c = some x ∧ v ≤ x.highWater := by
  cases j with
  | reserve slot c gen v =>
    simp only [verdict, takeReserve] at h
    split at h
    · cases h
    · split at h
      · cases h
      · split at h
        · exact .inl ⟨slot, c, gen, v, _, rfl, ‹_›, ‹_›⟩
        · cases h
  | highWater slot c gen v =>
    simp only [verdict, takeHigh] at h
    split at h
    · cases h
    · split at h
      · cases h
      · split at h
        · exact .inr ⟨slot, c, gen, v, _, rfl, ‹_›, ‹_›⟩
        · cases h
  | stage slot b g f =>
    simp only [verdict, takeStage, stageWrites, stageTail] at h
    repeat' split at h
    all_goals simp at h
  | association i form =>
    cases form with
    | empty => simp [verdict, takeAssociation] at h
    | enrol p c ch =>
      simp only [verdict, takeAssociation] at h
      split at h <;> simp at h
  | _ =>
    simp only [verdict, takeActivate, activateWrites, takeOverlapEnd, revokeWrites, suspendWrites, takeHeader, takeBundleFloor,
      takeArm, takeCellRepair, takeFloorRepair] at h
    repeat' split at h
    all_goals simp at h

/-- A RESERVE not above the ceiling changes the flag of its entry alone (R46). -/
theorem doneReserve_of_le {slot : Fin 32} {c : CellId} {gen v : Nat} {x : CellImg} (hx : cellOf (slotOf s slot) c = some x)
    (hv : v ≤ x.ceiling) : doneReserve slot c gen v s = setPending slot gen false s := by
  have same : ({ x with ceiling := max x.ceiling v } : CellImg) = x := by rw [max_eq_left hv]
  simp only [doneReserve, hx, Option.map_some, same]
  rw [← hx, setCell_cellOf, setSlot_slotOf]

theorem doneHigh_of_le {slot : Fin 32} {c : CellId} {gen v : Nat} {x : CellImg} (hx : cellOf (slotOf s slot) c = some x)
    (hv : v ≤ x.highWater) : doneHigh slot c gen v s =
      updEntry slot gen (fun e => if e.h = v then { e with dirty := false, flushReq := false } else e) s := by
  have same : ({ x with highWater := max x.highWater v } : CellImg) = x := by rw [max_eq_left hv]
  simp only [doneHigh, hx, Option.map_some, same]
  rw [← hx, setCell_cellOf, setSlot_slotOf]

/-- The effect of the head of the queue that completes as it is taken (R46, R51). -/
def effectAtTake (q : QJob) (rest : List QJob) (s : State) : State :=
  doneEffect q s.clock.hour (stagesBoth (setQueue rest s) (.queued q)) (setQueue rest s)

theorem effectAtTake_reserve {q : QJob} {rest : List QJob} {slot : Fin 32} {c : CellId} {gen v : Nat} {x : CellImg}
    (hj : q.job = .reserve slot c gen v) (hx : cellOf (slotOf s slot) c = some x) (hv : v ≤ x.ceiling) :
    effectAtTake q rest s = setPending slot gen false (setQueue rest s) := by
  simp only [effectAtTake, doneEffect, hj]
  exact doneReserve_of_le (s := setQueue rest s) hx hv

theorem effectAtTake_highWater {q : QJob} {rest : List QJob} {slot : Fin 32} {c : CellId} {gen v : Nat} {x : CellImg}
    (hj : q.job = .highWater slot c gen v) (hx : cellOf (slotOf s slot) c = some x) (hv : v ≤ x.highWater) :
    effectAtTake q rest s = updEntry slot gen (fun e => if e.h = v then { e with dirty := false, flushReq := false } else e)
      (setQueue rest s) := by
  simp only [effectAtTake, doneEffect, hj]
  exact doneHigh_of_le (s := setQueue rest s) hx hv

/-- A job that makes no write completes at once, and changes an entry alone (R46, R51). -/
theorem effectAtTake_parts {q : QJob} {rest : List QJob} (h : verdict s q.job = .write []) :
    ∃ es, effectAtTake q rest s = { setQueue rest s with cache := { s.cache with entries := es } } := by
  rcases verdict_nil h with ⟨slot, c, gen, v, x, hj, hx, hv⟩ | ⟨slot, c, gen, v, x, hj, hx, hv⟩
  · exact ⟨_, effectAtTake_reserve hj hx hv⟩
  · exact ⟨_, effectAtTake_highWater hj hx hv⟩

theorem takeQueued_nil {q : QJob} {rest : List QJob} (h : verdict s q.job = .write []) :
    takeQueued q rest s = tellContext q (tellPort q (effectAtTake q rest s)) := by
  have unarmed : isArm q.job = false := by
    rcases verdict_nil h with ⟨_, _, _, _, _, hj, -⟩ | ⟨_, _, _, _, _, hj, -⟩ <;> rw [hj] <;> rfl
  rw [takeQueued_write h, startTask_nil]
  exact (completeJob_eq ..).trans (if_neg (by simp [unarmed]))

end Sys2Proof.Machine
end

section
/-! PROOFS. The take of the queue's head: what a job that completes at once and a dropped job leave, and whom they tell (R12, R23, R44,
R46, R51, R111, R153); JOB_TAKE by its sources (R176) and the STAGE at its take (R14). -/

namespace Sys2Proof.Machine

variable {s t : State}

/-! ### A job that completes at once -/

/-- The parts that a completion leaves: the task in hand, the array, what the images say (R46, R51). -/
theorem takeQueued_nil_frame {q : QJob} {rest : List QJob} (h : verdict s q.job = .write []) (hj : s.writer.job = none) :
    (takeQueued q rest s).writer.job = none ∧ (takeQueued q rest s).array = s.array ∧
      (∀ i, slotCore (slotOf (takeQueued q rest s) i) = slotCore (slotOf s i)) ∧ (takeQueued q rest s).assocs = s.assocs ∧
      (takeQueued q rest s).device = s.device := by
  obtain ⟨es, he⟩ := effectAtTake_parts (rest := rest) h
  have beside : Beside (effectAtTake q rest s) (takeQueued q rest s) := by
    rw [takeQueued_nil h]
    exact beside_tellContext (beside_tellPort (beside_refl _))
  have kept : Kept (effectAtTake q rest s) (takeQueued q rest s) := by
    rw [takeQueued_nil h]
    exact kept_tellContext (kept_tellPort (kept_refl _))
  rw [he] at beside kept
  refine ⟨?_, kept.array, beside.slots, beside.assocs, beside.device⟩
  exact Option.map_eq_none_iff.1 (beside.writes.trans (by simp [hj]))

/-- Told of the end, a context leaves cache, port, writer and engine. -/
theorem tellContext_keeps (q : QJob) (s : State) : (tellContext q s).cache = s.cache ∧ (tellContext q s).port = s.port ∧
    (tellContext q s).writer = s.writer ∧ (tellContext q s).engine = s.engine ∧ (tellContext q s).slots = s.slots := by
  obtain ⟨r, ns, h⟩ := tellContext_parts q s
  rw [h]
  exact ⟨rfl, rfl, rfl, rfl, rfl⟩

theorem takeQueued_nil_unanswered {q : QJob} {rest : List QJob} (h : verdict s q.job = .write [])
    (hu : q.port = false ∨ s.port.exec = .free) : (takeQueued q rest s).writer.queue = rest ∧
      (takeQueued q rest s).cache = (effectAtTake q rest s).cache := by
  obtain ⟨es, he⟩ := effectAtTake_parts (rest := rest) h
  have hu' : q.port = false ∨ (effectAtTake q rest s).port.exec = .free := by rw [he]; exact hu
  obtain ⟨hc, -, hw, -⟩ := tellContext_keeps q (effectAtTake q rest s)
  rw [takeQueued_nil h, tellPort_unanswered hu', hw, hc, he]
  exact ⟨rfl, rfl⟩

theorem takeQueued_reserve_flag {q : QJob} {rest : List QJob} {slot : Fin 32} {c : CellId} {gen v : Nat} {e : Entry}
    (h : verdict s q.job = .write []) (hj : q.job = .reserve slot c gen v) (hu : q.port = false ∨ s.port.exec = .free)
    (he : findEntry s slot gen = some e) :
    findEntry (takeQueued q rest s) slot gen = some { e with resvPending := false } := by
  rcases verdict_nil h with ⟨_, _, _, _, x, hj', hx, hv⟩ | ⟨_, _, _, _, _, hj', -⟩ <;> rw [hj] at hj' <;> cases hj'
  rw [findEntry, (takeQueued_nil_unanswered h hu).2, effectAtTake_reserve hj hx hv]
  change findEntry (setPending slot gen false (setQueue rest s)) slot gen = _
  rw [findEntry_setPending, findEntry_setQueue, he]
  rfl

theorem takeQueued_highWater_flags {q : QJob} {rest : List QJob} {slot : Fin 32} {c : CellId} {gen v : Nat} {e : Entry}
    (h : verdict s q.job = .write []) (hj : q.job = .highWater slot c gen v) (hu : q.port = false ∨ s.port.exec = .free)
    (he : findEntry s slot gen = some e) : findEntry (takeQueued q rest s) slot gen =
      some (if e.h = v then { e with dirty := false, flushReq := false } else e) := by
  rcases verdict_nil h with ⟨_, _, _, _, _, hj', -⟩ | ⟨_, _, _, _, x, hj', hx, hv⟩ <;> rw [hj] at hj' <;> cases hj'
  have eff : effectAtTake q rest s = doneHigh slot c gen v (setQueue rest s) := by
    simp only [effectAtTake, doneEffect, hj]
  rw [findEntry, (takeQueued_nil_unanswered h hu).2, eff]
  change findEntry (doneHigh slot c gen v (setQueue rest s)) slot gen = _
  rw [findEntry_doneHigh, findEntry_setQueue, he]
  rfl

/-- A PROTECT that waits on a RESERVE not above the ceiling takes its value at once (R44, R46). -/
theorem takeQueued_protect {q : QJob} {rest : List QJob} {op : ProtectOp} {v n : Nat} {x : CellImg} {e : Entry}
    (h : verdict s q.job = .write []) (hp : q.port = true) (hj : q.job = .reserve op.slot op.cell op.gen v)
    (hx : s.port.exec = .protect op) (hs : op.stage = .reserve) (hc : cellOf (slotOf s op.slot) op.cell = some x)
    (he : findEntry s op.slot op.gen = some e) (hw : e.withhold = none) (hn : e.n = some n) (h1000 : x.wear ≠ some 1000)
    (hlt : n < x.ceiling) (hmax : n < 4294967295) :
    ∃ cls, (takeQueued q rest s).port.exec = .protect { op with stage := .frame n cls } ∧
      (findEntry (takeQueued q rest s) op.slot op.gen).bind (·.n) = some (n + 1) := by
  rcases verdict_nil h with ⟨_, _, _, _, y, hj', hy, hv⟩ | ⟨_, _, _, _, _, hj', -⟩ <;> rw [hj] at hj' <;> cases hj'
  have eff := effectAtTake_reserve (rest := rest) hj hy hv
  have he' : findEntry (effectAtTake q rest s) op.slot op.gen = some { e with resvPending := false } := by
    rw [eff, findEntry_setPending, findEntry_setQueue, he]
    rfl
  have told : tellPort q (effectAtTake q rest s) = giveValue op e.key n (effectAtTake q rest s) := by
    rw [tellPort, if_pos hp, portCounterDone_protect (by rw [eff]; exact hx) hs ((causeOf_of_findEntry he').trans hw)]
    have gives := takeValue_gives he' (by rw [eff]; exact hc) hn h1000 (Nat.ne_of_lt hmax) hlt
    exact gives
  obtain ⟨cls, hexec, -, hnext, -⟩ := giveValue_spec (key := e.key) (n := n) he' (by rw [eff]; exact hc)
  obtain ⟨kc, kp, -⟩ := tellContext_keeps q (tellPort q (effectAtTake q rest s))
  refine ⟨cls, ?_, ?_⟩
  · rw [takeQueued_nil h, kp, told, hexec]
  · rw [takeQueued_nil h, findEntry, kc, told]
    exact hnext

/-- An answer to the command in flight: its status and its body (R194). -/
def Answers (s t : State) (c : Code) (body : List Byte) : Prop :=
  t.port.exec = .free ∧ t.port.retained = some ⟨c, s.port.overrun, body⟩

theorem answers_finish {u : State} (c : Code) (body : List Byte) (h : u.port.overrun = s.port.overrun) :
    Answers s (finish c body u) c body := ⟨rfl, by rw [finish_retained, h]⟩

theorem Answers.of_port {u : State} {c : Code} {body : List Byte} (h : t.port = u.port) (k : Answers s u c body) :
    Answers s t c body := ⟨h ▸ k.1, h ▸ k.2⟩

/-- The response of an UNPROTECT whose write-through HIGHWATER has ended (R111). -/
theorem unprotectHighEnd_none {op : UnprotectOp} (hc : causeOf s op.slot op.trial.gen = none)
    (hq : (slotOf s op.slot).quarantined = false) : unprotectHighEnd op s = finish .ok (unprotectBody op) s := by
  simp only [unprotectHighEnd, hc, hq, Bool.false_eq_true, if_false]

theorem unprotectHighEnd_quarantined {op : UnprotectOp} (hc : causeOf s op.slot op.trial.gen = none)
    (hq : (slotOf s op.slot).quarantined = true) : unprotectHighEnd op s = finish .slotQuarantined [] s := by
  simp only [unprotectHighEnd, hc, hq, if_true]

theorem unprotectHighEnd_retired {op : UnprotectOp} (hc : causeOf s op.slot op.trial.gen = some .retired) :
    unprotectHighEnd op s = finish .ok (unprotectBody op) s := by simp only [unprotectHighEnd, hc]

theorem unprotectHighEnd_cause {op : UnprotectOp} {w : Withhold} (hc : causeOf s op.slot op.trial.gen = some w)
    (hw : w ≠ .retired) : unprotectHighEnd op s = finish (causeCode w) [] s := by
  cases w <;> first | exact absurd rfl hw | simp only [unprotectHighEnd, hc]

theorem causeOf_updEntry {i j : Fin 32} {g k : Nat} {f : Entry → Entry} (hf : ∀ e, (f e).slot = e.slot ∧ (f e).gen = e.gen)
    (hw : ∀ e, (f e).withhold = e.withhold) : causeOf (updEntry i g f s) j k = causeOf s j k := by
  by_cases h : j = i ∧ k = g
  · obtain ⟨rfl, rfl⟩ := h
    rw [causeOf, causeOf, findEntry_updEntry hf]
    cases findEntry s j k <;> simp [hw]
  · rw [causeOf, causeOf, findEntry_updEntry_other hf (by tauto)]

theorem takeQueued_unprotect {q : QJob} {rest : List QJob} {op : UnprotectOp} {slot : Fin 32} {c : CellId} {gen v : Nat}
    (h : verdict s q.job = .write []) (hp : q.port = true) (hj : q.job = .highWater slot c gen v)
    (hx : s.port.exec = .unprotect op) (hs : op.stage = .high) (hq : (slotOf s op.slot).quarantined = false)
    (hc : causeOf s op.slot op.trial.gen = none) : Answers s (takeQueued q rest s) .ok (unprotectBody op) := by
  rcases verdict_nil h with ⟨_, _, _, _, _, hj', -⟩ | ⟨_, _, _, _, x, hj', hx', hv⟩ <;> rw [hj] at hj' <;> cases hj'
  have eff := effectAtTake_highWater (rest := rest) hj hx' hv
  have hc' : causeOf (effectAtTake q rest s) op.slot op.trial.gen = none := by
    rw [eff, causeOf_updEntry]
    · exact hc
    · intro e; split <;> exact ⟨rfl, rfl⟩
    · intro e; split <;> rfl
  have told : tellPort q (effectAtTake q rest s) = finish .ok (unprotectBody op) (effectAtTake q rest s) := by
    rw [tellPort, if_pos hp, portCounterDone_unprotect (by rw [eff]; exact hx) hs]
    exact unprotectHighEnd_none hc' (by rw [eff]; exact hq)
  obtain ⟨-, kp, -⟩ := tellContext_keeps q (tellPort q (effectAtTake q rest s))
  rw [Answers, takeQueued_nil h, kp, told]
  exact answers_finish .ok _ (by rw [eff]; rfl)

/-! ### A dropped job -/

/-- The Port Executor's command is told that its job has gone. -/
def tellGone (q : QJob) (s : State) : State := if q.port then portJobGone s else s

theorem dropJob_plain {q : QJob} {c : Code} (h : q.ctx = none) : dropJob q c s = tellGone q s := by
  simp only [dropJob, h, tellGone]

theorem dropJob_ctx {q : QJob} {c : Code} {i : Fin 2} (h : q.ctx = some i) :
    dropJob q c s = ctxJobFailed i c (tellGone q s) := by simp only [dropJob, h, tellGone]

theorem portJobGone_cases (s : State) : portJobGone s = s ∨ ∃ c b, portJobGone s = finish c b s := by
  unfold portJobGone protectGone unprotectHighEnd
  repeat' split
  all_goals first | exact .inl rfl | exact .inr ⟨_, _, rfl⟩

theorem tellGone_cases (q : QJob) (s : State) : tellGone q s = s ∨ ∃ c b, tellGone q s = finish c b s := by
  unfold tellGone
  split
  · exact portJobGone_cases s
  · exact .inl rfl

/-- What the end of a wait leaves: all but the port, the cache, and whether the jobs are waited on. -/
structure AnsweredFrom (s t : State) : Prop where
  slots : t.slots = s.slots
  array : t.array = s.array
  assocs : t.assocs = s.assocs
  monitor : t.monitor = s.monitor
  device : t.device = s.device
  renewal : t.renewal = s.renewal
  notices : t.notices = s.notices
  job : s.writer.job = none → t.writer.job = none
  queue : ∃ f : QJob → QJob, (∀ q, (f q).job = q.job ∧ (f q).ctx = q.ctx) ∧ t.writer.queue = s.writer.queue.map f

theorem tellGone_from (q : QJob) (s : State) : AnsweredFrom s (tellGone q s) := by
  rcases tellGone_cases q s with h | ⟨c, b, h⟩ <;> rw [h]
  · exact ⟨rfl, rfl, rfl, rfl, rfl, rfl, rfl, id, id, fun _ => ⟨rfl, rfl⟩, (List.map_id _).symm⟩
  · exact ⟨rfl, rfl, rfl, rfl, rfl, rfl, rfl, fun hj => by simp [finish, releasePins, withEntries, portLetsGo, hj],
      unwaited, fun _ => ⟨rfl, rfl⟩, rfl⟩

/-- What a dropped job leaves: the images, the array and the monitor (R12). -/
structure DroppedFrom (s t : State) : Prop where
  job : t.writer.job = none
  slots : t.slots = s.slots
  array : t.array = s.array
  assocs : t.assocs = s.assocs
  monitor : t.monitor = s.monitor
  device : t.device = s.device

theorem ctxJobFailed_frame (i : Fin 2) (c : Code) (s : State) (hj : s.writer.job = none) :
    DroppedFrom s (ctxJobFailed i c s) ∧ (ctxJobFailed i c s).port = s.port := by
  rcases ctxJobFailed_cases i c s with h | ⟨-, h⟩ <;> rw [h]
  · exact ⟨⟨hj, rfl, rfl, rfl, rfl, rfl⟩, rfl⟩
  · obtain ⟨r, ns, hp⟩ := failStoring_parts i c s
    rw [hp]
    exact ⟨⟨by simp [hj], rfl, rfl, rfl, rfl, rfl⟩, rfl⟩

theorem dropJob_frame {q : QJob} {c : Code} (hj : s.writer.job = none) :
    DroppedFrom s (dropJob q c s) ∧ (dropJob q c s).port = (tellGone q s).port := by
  obtain ⟨slots, array, assocs, monitor, device, -, -, job, -⟩ := tellGone_from q s
  cases hc : q.ctx with
  | none =>
    rw [dropJob_plain hc]
    exact ⟨⟨job hj, slots, array, assocs, monitor, device⟩, rfl⟩
  | some i =>
    rw [dropJob_ctx hc]
    obtain ⟨h, hp⟩ := ctxJobFailed_frame i c (tellGone q s) (job hj)
    exact ⟨⟨h.job, h.slots.trans slots, h.array.trans array, h.assocs.trans assocs, h.monitor.trans monitor,
      h.device.trans device⟩, hp⟩

/-- The STORING context of a dropped job fails with the reason, without a receipt, its queued jobs gone (R153). -/
theorem dropJob_storing {q : QJob} {c : Code} {i : Fin 2} (hd : s.device ≠ .faulted) (hc : q.ctx = some i)
    (hs : (ctxOf s i).state = .storing) :
    (ctxOf (dropJob q c s) i).state = .failed ∧ (ctxOf (dropJob q c s) i).jobs = [] ∧
      (ctxOf (dropJob q c s) i).result = some ⟨c, { (ctxOf s i).fields with receipt := none }⟩ ∧
      Notice.renewalFinished i c ∈ (dropJob q c s).notices ∧
      (dropJob q c s).writer.queue.map (·.job) = (s.writer.queue.filter fun j => j.ctx != some i).map (·.job) := by
  obtain ⟨-, -, -, -, device, renewal, -, -, f, hf, queue⟩ := tellGone_from q s
  have ctx : ctxOf (tellGone q s) i = ctxOf s i := ctxOf_congr (congrArg (·.ctxs) renewal) i
  rw [dropJob_ctx hc, ctxJobFailed_storing (by rw [device]; exact hd) (by rw [ctx]; exact hs)]
  obtain ⟨state, jobs, result⟩ := ctxOf_failStoring i c (tellGone q s)
  refine ⟨state, jobs, ctx ▸ result, notices_ctxFail i c _, ?_⟩
  obtain ⟨r, ns, parts⟩ := failStoring_parts i c (tellGone q s)
  have same : (fun j : QJob => j.ctx != some i) ∘ f = fun j => j.ctx != some i := funext fun j => by simp [(hf j).2]
  have jobs : (fun j : QJob => j.job) ∘ f = fun j => j.job := funext fun j => (hf j).1
  rw [parts]
  simp only [queue, List.filter_map, List.map_map, same, jobs]

theorem dropJob_otherCtx {q : QJob} {c : Code} {i : Fin 2} (h : q.ctx ≠ some i ∨ (ctxOf s i).state ≠ .storing) :
    ctxOf (dropJob q c s) i = ctxOf s i := by
  have ctx (j : Fin 2) : ctxOf (tellGone q s) j = ctxOf s j := ctxOf_congr (congrArg (·.ctxs) (tellGone_from q s).renewal) j
  cases hc : q.ctx with
  | none => rw [dropJob_plain hc, ctx]
  | some j =>
    rw [dropJob_ctx hc]
    by_cases hij : i = j
    · subst hij
      rw [ctxJobFailed_other (by rw [ctx]; exact h.resolve_left (by simp [hc])), ctx]
    · rcases ctxJobFailed_cases j c (tellGone q s) with hf | ⟨-, hf⟩ <;> rw [hf]
      · exact ctx i
      · rw [ctxOf_failStoring_other hij, ctx]

/-- The code that answers a PROTECT whose RESERVE has gone (R44). -/
def goneCode (op : ProtectOp) (s : State) : Code :=
  match causeOf s op.slot op.gen with
  | some w => causeCode w
  | none => if (slotOf s op.slot).quarantined then .slotQuarantined else .generationRetired

theorem protectGone_eq (op : ProtectOp) (s : State) : protectGone op s = finish (goneCode op s) [] s := by
  cases h : causeOf s op.slot op.gen <;> simp only [protectGone, goneCode, h]

theorem tellGone_protect {q : QJob} {op : ProtectOp} (hp : q.port = true) (hx : s.port.exec = .protect op)
    (hs : op.stage = .reserve) : tellGone q s = protectGone op s := by
  simp only [tellGone, hp, portJobGone, hx, hs, if_true]

theorem tellGone_unprotect {q : QJob} {op : UnprotectOp} (hp : q.port = true) (hx : s.port.exec = .unprotect op)
    (hs : op.stage = .high) : tellGone q s = unprotectHighEnd op s := by
  simp only [tellGone, hp, portJobGone, hx, hs, if_true]

theorem tellGone_activate {q : QJob} {op : ActivateOp} (hp : q.port = true) (hx : s.port.exec = .activate op)
    (hs : op.stage = .store) : tellGone q s = finish .notStaged [] s := by
  simp only [tellGone, hp, portJobGone, hx, hs, if_true]

/-! ### JOB_TAKE by its sources -/

/-- The take of a tamper item (R164, R165). -/
theorem jobTake_tamper {w : TamperWork} {it : TamperItem} {rest : List TamperItem} (hr : running s = true)
    (hj : s.writer.job = none) (hw : s.writer.tamper = some w) (hi : w.items = it :: rest)
    (hd : it = .closing → s.device ≠ .faulted) :
    ∃ t, exec .jobTake s = .next t ∧ t.writer.tamper = some { w with items := rest } ∧ t.array = s.array ∧ t.slots = s.slots ∧
      t.writer.job = some ⟨itemTask w it, writesOfItem w s it, false, s.clock.hour, false, false⟩ := by
  refine ⟨_, exec_jobTake hr hj, ?_⟩
  rw [takeNext_tamper hw hi hd, takeItem_eq hi hd]
  have settled := portSettle_settled (inHand (itemTask w it) (writesOfItem w s it) (itemTaken w rest s))
  exact ⟨settled.tamper, settled.array, settled.slots, settled.job_eq rfl (unwaitedTask_itemTask w it)⟩

/-- The slot items write as SUSPEND and REVOKE_SLOT do (R164). -/
theorem itemWrites_verdict (s : State) (slot : Fin 32) (act : TamperAct) :
    verdict s (match act with | .suspend => .suspend slot | .erase => .revokeSlot slot false) =
      .write (itemWrites s slot act) := by cases act <;> rfl

theorem not_faulted_of_servingOrHolding (h : servingOrHolding s = true) : s.device ≠ .faulted := by
  intro hd
  simp [servingOrHolding, hd] at h

/-- The take of a flush item (R182, R183). -/
theorem jobTake_flush {it : FlushItem} {rest : List FlushItem} (hr : running s = true) (hj : s.writer.job = none)
    (ht : s.writer.tamper = none) (hf : s.writer.flush = it :: rest) (hd : servingOrHolding s = true) :
    exec .jobTake s = .next (takeFlush it rest s) ∧ (takeFlush it rest s).writer.flush = rest ∧
      (takeFlush it rest s).writer.queue = s.writer.queue ∧ (takeFlush it rest s).array = s.array := by
  have hnf := not_faulted_of_servingOrHolding hd
  obtain ⟨x, taken⟩ := flushTaken_parts it rest s
  have parts : (takeFlush it rest s).device = s.device ∧ (takeFlush it rest s).writer.flush = rest ∧
      (takeFlush it rest s).writer.queue = s.writer.queue ∧ (takeFlush it rest s).array = s.array := by
    cases h : verdict s (.highWater it.slot it.cell it.gen (flushValue s it)) with
    | drop c => rw [takeFlush_drop h, taken]; exact ⟨rfl, rfl, rfl, rfl⟩
    | write ws =>
      rw [takeFlush_write h, taken]
      cases ws with
      | nil => rw [startTask_nil]; exact ⟨rfl, rfl, rfl, rfl⟩
      | cons w ws => exact ⟨rfl, rfl, rfl, rfl⟩
  obtain ⟨device, flush, queue, array⟩ := parts
  refine ⟨?_, flush, queue, array⟩
  rw [exec_jobTake hr hj, takeNext_flush ht hf hd, portSettle_of_not_faulted (device ▸ hnf)]

/-- A flush item made from an entry leaves it clean, whatever it writes (R182). -/
theorem takeFlush_clean {it : FlushItem} {rest : List FlushItem} {e : Entry} (hi : it.fromEntry = true)
    (he : findEntry s it.slot it.gen = some e) : (findEntry (takeFlush it rest s) it.slot it.gen).map
      (fun e => (e.dirty, e.flushReq)) = some (false, false) := by
  have clean := findEntry_flushTaken (rest := rest) hi he
  cases h : verdict s (.highWater it.slot it.cell it.gen (flushValue s it)) with
  | drop c => rw [takeFlush_drop h, clean]; rfl
  | write ws =>
    rw [takeFlush_write h]
    cases ws with
    | nil =>
      rw [startTask_nil]
      change (findEntry (doneHigh _ _ _ _ _) _ _).map _ = _
      rw [findEntry_doneHigh, clean]
      simp only [Option.map_some, Option.some.injEq]
      split <;> rfl
    | cons w ws =>
      rw [startTask_cons]
      change (findEntry (flushTaken it rest s) it.slot it.gen).map _ = _
      rw [clean]; rfl

/-- The take of the queue's head (R176). -/
theorem jobTake_queue {q : QJob} {rest : List QJob} (hr : running s = true) (hj : s.writer.job = none)
    (ht : s.writer.tamper = none) (hf : s.writer.flush = []) (hq : s.writer.queue = q :: rest)
    (hd : s.device = .serving ∨ s.device = .holding .command) (hk : (takeQueued q rest s).device = s.device) :
    exec .jobTake s = .next (takeQueued q rest s) := by
  have hnf : (takeQueued q rest s).device ≠ .faulted := by rw [hk]; rcases hd with h | h <;> simp [h]
  rw [exec_jobTake hr hj, takeNext_queue ht hf hq hd, portSettle_of_not_faulted hnf]

theorem jobTake_write {q : QJob} {rest : List QJob} {w : ArrayWrite} {ws : List ArrayWrite} (hr : running s = true)
    (hj : s.writer.job = none) (ht : s.writer.tamper = none) (hf : s.writer.flush = []) (hq : s.writer.queue = q :: rest)
    (hd : s.device = .serving ∨ s.device = .holding .command) (hv : verdict s q.job = .write (w :: ws)) :
    exec .jobTake s = .next { s with writer := { s.writer with
      queue := rest, job := some ⟨.queued q, w :: ws, false, s.clock.hour, false, stagesBoth s (.queued q)⟩ } } := by
  rw [jobTake_queue hr hj ht hf hq hd (by rw [takeQueued_write hv]; rfl), takeQueued_write hv, startTask_cons]
  have both : stagesBoth (setQueue rest s) (.queued q) = stagesBoth s (.queued q) := rfl
  rw [both]
  rfl

/-- A dropped job is taken: its requester is told, and nothing is in hand (R12, R153). -/
theorem jobTake_drop {q : QJob} {rest : List QJob} {c : Code} (hr : running s = true) (hj : s.writer.job = none)
    (ht : s.writer.tamper = none) (hf : s.writer.flush = []) (hq : s.writer.queue = q :: rest)
    (hd : s.device = .serving ∨ s.device = .holding .command) (hv : verdict s q.job = .drop c) :
    exec .jobTake s = .next (dropJob q c (setQueue rest s)) := by
  have frame := (dropJob_frame (q := q) (c := c) (s := setQueue rest s) hj).1
  rw [jobTake_queue hr hj ht hf hq hd (by rw [takeQueued_drop hv]; exact frame.device), takeQueued_drop hv]

theorem jobTake_nothing (hr : running s = true) (hj : s.writer.job = none) (ht : s.writer.tamper = none)
    (hf : s.writer.flush = []) (hd : s.device ≠ .faulted)
    (hq : s.writer.queue = [] ∨ s.device = .loading ∨ s.device = .holding .power) : exec .jobTake s = .next s := by
  rw [exec_jobTake hr hj, takeNext_nothing (takesTamper_none_of_tamper ht) (.inl hf), portSettle_of_not_faulted hd]
  rcases hq with h | h | h
  · exact .inl h
  · exact .inr (by simp [takesQueue, h])
  · exact .inr (by simp [takesQueue, h])

/-- In FAULTED the items before the closing write are taken alone; what is stuck is answered (R176, R184). -/
theorem jobTake_faulted (hr : running s = true) (hj : s.writer.job = none) (hd : s.device = .faulted)
    (hw : ∀ w, s.writer.tamper = some w → w.items = [] ∨ ∃ rest, w.items = .closing :: rest) :
    exec .jobTake s = .next (portSettle s) := by
  have ht : takesTamper s = none := by
    cases hs : s.writer.tamper with
    | none => simp [takesTamper, hs]
    | some w => rcases hw w hs with h | ⟨rest, h⟩ <;> simp [takesTamper, hs, h, hd]
  rw [exec_jobTake hr hj, takeNext_nothing ht (.inr (by simp [servingOrHolding, hd])) (.inr (by simp [takesQueue, hd]))]

/-- Settles O52, by the source taken and, for the head of the queue, by its verdict. -/
theorem jobTakeFollowsTheSources : Obligations.JobTakeFollowsTheSources := by
  intro s hr hj
  refine ⟨verdict s, takeRules_verdict s, fun w it rest hw hi hd => ?_, fun it rest ht hf hd => ?_,
    fun q rest ht hf hq hd => ⟨fun w ws hv => ?_, fun hv => ?_, fun reason hv => ?_⟩,
    fun ht hf hd hq => jobTake_nothing hr hj ht hf hd hq, fun hd hw => ?_⟩
  · obtain ⟨t, exec, tamper, array, slots, job⟩ := jobTake_tamper hr hj hw hi hd
    refine ⟨t, exec, tamper, array, slots, ?_, ?_, ?_⟩
    · rintro rfl; exact job
    · rintro slot act rfl
      exact ⟨itemWrites s slot act, itemWrites_verdict s slot act, job⟩
    · rintro rfl; exact job
  · obtain ⟨exec, flush, queue, array⟩ := jobTake_flush hr hj ht hf hd
    obtain ⟨x, taken⟩ := flushTaken_parts it rest s
    refine ⟨_, exec, flush, queue, array, fun hi e he => takeFlush_clean hi he, ?_, fun hv => ?_, fun w ws hv => ?_⟩
    · rintro ⟨reason, hv⟩
      rw [takeFlush_drop hv, taken]
      exact hj
    · rw [takeFlush_write hv, startTask_nil, taken]
      exact hj
    · rw [takeFlush_write hv, startTask_cons, taken]
      rfl
  · exact ⟨_, stagesBoth_iff, jobTake_write hr hj ht hf hq hd hv⟩
  · obtain ⟨job, array, slots, assocs, device⟩ := takeQueued_nil_frame (rest := rest) hv hj
    refine ⟨_, jobTake_queue hr hj ht hf hq hd device, job, array, slots, assocs,
      fun hu => (takeQueued_nil_unanswered hv hu).1,
      fun slot c gen n e hjob hu he => takeQueued_reserve_flag hv hjob hu he,
      fun slot c gen n e hjob hu he => takeQueued_highWater_flags hv hjob hu he, ?_,
      fun op slot c gen n hp hjob hx hs hsq hc => takeQueued_unprotect hv hp hjob hx hs hsq hc⟩
    rintro op slot c gen n x e k hp hjob hx hs rfl rfl rfl hc he hw hk h1000 hlt hmax
    exact takeQueued_protect hv hp hjob hx hs hc he hw hk h1000 hlt hmax
  · obtain ⟨frame, port⟩ := dropJob_frame (q := q) (c := reason) (s := setQueue rest s) hj
    have hnf : s.device ≠ .faulted := by rcases hd with h | h <;> simp [h]
    refine ⟨_, jobTake_drop hr hj ht hf hq hd hv, frame.job, frame.slots, frame.array, frame.assocs, frame.monitor,
      frame.device, fun hp hc => ?_, fun i hc hs => dropJob_storing hnf hc hs, fun i h => dropJob_otherCtx h,
      fun op hp hx hs => ?_, fun op hp hx hs => ?_, fun op hp hx hs => ?_⟩
    · rw [dropJob_plain hc, tellGone, if_neg (by simp [hp])]
      rfl
    · have told := (tellGone_protect (s := setQueue rest s) hp hx hs).trans (protectGone_eq op _)
      exact (answers_finish (goneCode op s) [] rfl).of_port (port.trans (congrArg (·.port) told))
    · have told := port.trans (congrArg (·.port) (tellGone_unprotect (s := setQueue rest s) hp hx hs))
      have ans {c : Code} {body : List Byte} (h : unprotectHighEnd op (setQueue rest s) = finish c body (setQueue rest s)) :
          Answers s (dropJob q reason (setQueue rest s)) c body :=
        (answers_finish c body rfl).of_port (told.trans (congrArg (·.port) h))
      intro ok
      cases hc : causeOf s op.slot op.trial.gen with
      | none =>
        by_cases hsq : (slotOf s op.slot).quarantined = true
        · simp only [if_pos hsq]
          exact ans (unprotectHighEnd_quarantined hc hsq)
        · simp only [if_neg hsq]
          exact ans (unprotectHighEnd_none hc (Bool.eq_false_iff.2 hsq))
      | some w =>
        cases w with
        | retired => exact ans (unprotectHighEnd_retired hc)
        | erased | suspended | quarantined => exact ans (unprotectHighEnd_cause hc nofun)
    · have told := tellGone_activate (s := setQueue rest s) hp hx hs
      exact (answers_finish _ _ rfl).of_port (port.trans (congrArg (·.port) told))
  · have settled := portSettle_settled s
    exact ⟨_, jobTake_faulted hr hj hd hw, settled.job_none hj, settled.tamper, settled.array, settled.slots⟩

/-- A STAGE that its re-validation drops fails its STORING context with the reason (R14, R153). -/
theorem jobTake_stage_drop {q : QJob} {rest : List QJob} {c : Code} {i : Fin 2} (hr : running s = true)
    (hj : s.writer.job = none) (ht : s.writer.tamper = none) (hf : s.writer.flush = []) (hd : s.device = .serving)
    (hq : s.writer.queue = q :: rest) (hc : q.ctx = some i) (hs : (ctxOf s i).state = .storing)
    (hv : verdict s q.job = .drop c) :
    ∃ t, exec .jobTake s = .next t ∧ (ctxOf t i).result.map (·.outcome) = some c ∧ (ctxOf t i).state = .failed ∧
      t.slots = s.slots ∧ t.array = s.array ∧ t.writer.job = none := by
  have frame := (dropJob_frame (q := q) (c := c) (s := setQueue rest s) hj).1
  obtain ⟨state, -, result, -, -⟩ := dropJob_storing (c := c) (s := setQueue rest s) (by simp [hd]) hc hs
  exact ⟨_, jobTake_drop hr hj ht hf hq (.inl hd) hv, by rw [result]; rfl, state, frame.slots, frame.array, frame.job⟩

/-- Settles O53, by the two conditions of the re-validation in their order. -/
theorem stageIsRevalidatedAtTheTake : Obligations.StageIsRevalidatedAtTheTake := by
  intro q rest slot b g f i s hr hj ht hf hd hq hjob hc _ hs
  have stage : verdict s q.job = takeStage s slot b g f := by rw [hjob]; rfl
  refine ⟨fun h => ?_, fun hfloor hk => ⟨fun hb => ?_, fun hb => ?_⟩⟩
  · exact jobTake_stage_drop hr hj ht hf hd hq hc hs (stage.trans (takeStage_stale h))
  · exact jobTake_stage_drop hr hj ht hf hd hq hc hs (stage.trans ((takeStage_fresh hfloor hk).trans (if_neg hb)))
  · have write := stage.trans ((takeStage_fresh hfloor hk).trans (if_pos hb))
    cases hw : stageWrites s slot g f with
    | nil =>
      rcases verdict_nil (write.trans (congrArg _ hw)) with ⟨_, _, _, _, _, e, -⟩ | ⟨_, _, _, _, _, e, -⟩ <;>
        rw [hjob] at e <;> cases e
    | cons w ws => exact ⟨_, _, jobTake_write hr hj ht hf hq (.inl hd) (write.trans (congrArg _ hw)), rfl, rfl, rfl, rfl, rfl⟩

end Sys2Proof.Machine
end

section
/-! PROOFS. Wear, flush requests and marks: what a recomputation, the making of flush requests and an examination do to a slot, an entry
and the queue (R25 to R28, R56, R88). -/

namespace Sys2Proof.Machine

variable {r s t u : State}

/-- In a fold that keeps `R`, what one of its steps makes and every later step keeps holds at the end. -/
theorem foldl_reaches {α : Type} {f : State → α → State} {R : State → State → Prop} {P : State → Prop} {l : List α} {x : α}
    (trans : ∀ {u v w}, R u v → R v w → R u w) (step : ∀ u y, R u (f u y)) (make : ∀ u, R s u → P (f u x))
    (keep : ∀ u, ∀ y ∈ l, R s u → P u → P (f u y)) (h : R s u) (hx : x ∈ l) : P (l.foldl f u) := by
  induction l generalizing u with
  | nil => cases hx
  | cons y l ih =>
    rcases List.mem_cons.1 hx with rfl | hx
    · have rest := List.foldlRecOn (motive := fun v => R s v ∧ P v) l f ⟨trans h (step u x), make u h⟩
        fun v hv y hy => ⟨trans hv.1 (step v y), keep v y (.tail _ hy) hv.1 hv.2⟩
      exact rest.2
    · exact ih (fun v z hz => keep v z (.tail _ hz)) (trans h (step u y)) hx

/-! ### Wear (R56) -/

/-- A generation without its wear. -/
def unworn (x : CellImg) : CellImg := { x with wear := none }

/-- A slot without the wear of its generations. -/
def unwornSlot (img : SlotImg) : SlotImg := { img with cellA := img.cellA.map unworn, cellB := img.cellB.map unworn }

theorem cellOf_unwornSlot (img : SlotImg) (c : CellId) : cellOf (unwornSlot img) c = (cellOf img c).map unworn := by
  cases c <;> rfl

theorem genRole_unworn (x y : Option CellImg) : genRole (x.map unworn) (y.map unworn) = genRole x y := by
  cases x <;> cases y <;> rfl

theorem roleIn_unwornSlot (img : SlotImg) (c : CellId) : roleIn (unwornSlot img) c = roleIn img c := by
  rw [roleIn, cellOf_unwornSlot, cellOf_unwornSlot, genRole_unworn, roleIn]

theorem cellWith_unwornSlot (img : SlotImg) (g : GenRole) : cellWith (unwornSlot img) g = cellWith img g := by
  rw [cellWith, roleIn_unwornSlot, roleIn_unwornSlot, cellWith]

theorem phaseOf_unwornSlot (img : SlotImg) : phaseOf (unwornSlot img) = phaseOf img := by
  rw [phaseOf, cellWith_unwornSlot, cellWith_unwornSlot, cellWith_unwornSlot, phaseOf]
  rfl

theorem genWith_unwornSlot (img : SlotImg) (g : GenRole) :
    genWith (unwornSlot img) g = (genWith img g).map fun x => (x.1, unworn x.2) := by
  have hw := cellWith_unwornSlot img g
  cases h : cellWith img g with
  | none => simp [genWith, hw, h]
  | some c => cases hc : cellOf img c <;> simp [genWith, hw, h, cellOf_unwornSlot, hc]

theorem unwornSlot_setCell {img : SlotImg} {c : CellId} {x : CellImg} {w : Option Nat} (hx : cellOf img c = some x) :
    unwornSlot (setCell img c (some { x with wear := w })) = unwornSlot img := by
  cases c <;> simp only [cellOf] at hx <;> simp [unwornSlot, setCell, hx, unworn]

/-- The states differ in wear and notices alone. -/
structure Worn (r s : State) : Prop where
  cache : s.cache = r.cache
  writer : s.writer = r.writer
  device : s.device = r.device
  clock : s.clock = r.clock
  slots : ∀ i, unwornSlot (slotOf s i) = unwornSlot (slotOf r i)

theorem worn_refl (s : State) : Worn s s := ⟨rfl, rfl, rfl, rfl, fun _ => rfl⟩

theorem Worn.trans (h : Worn r s) (k : Worn s t) : Worn r t :=
  ⟨k.cache.trans h.cache, k.writer.trans h.writer, k.device.trans h.device, k.clock.trans h.clock,
    fun i => (k.slots i).trans (h.slots i)⟩

theorem Worn.cell (h : Worn r s) {i : Fin 32} {c : CellId} {x : CellImg} (hx : cellOf (slotOf r i) c = some x) :
    ∃ y, cellOf (slotOf s i) c = some y ∧ unworn y = unworn x := by
  have hs := congrArg (cellOf · c) (h.slots i)
  simp only [cellOf_unwornSlot, hx, Option.map_some] at hs
  exact Option.map_eq_some_iff.1 hs

theorem Worn.role (h : Worn r s) (i : Fin 32) (c : CellId) : roleIn (slotOf s i) c = roleIn (slotOf r i) c := by
  rw [← roleIn_unwornSlot, h.slots, roleIn_unwornSlot]

theorem Worn.quarantined (h : Worn r s) (i : Fin 32) : (slotOf s i).quarantined = (slotOf r i).quarantined := by
  have same := congrArg SlotImg.quarantined (h.slots i)
  exact same

/-- The use point does not depend on the wear (R49). -/
theorem Worn.usePoint (h : Worn r s) {i : Fin 32} {c : CellId} {x y : CellImg} (hxy : unworn y = unworn x) :
    usePoint s i c y = Machine.usePoint r i c x := by
  have params : y.params = x.params := congrArg (·.params) hxy
  have unused : y.unused = x.unused := congrArg (·.unused) hxy
  have ceiling : y.ceiling = x.ceiling := congrArg (·.ceiling) hxy
  simp only [Machine.usePoint, activeN, findEntry, h.role, h.cache, params, unused, ceiling]

/-- A recomputation gives the generation in its cell its figure (R56). -/
theorem setWear_eq {i : Fin 32} {c : CellId} {x : CellImg} (hx : cellOf (slotOf s i) c = some x)
    (ha : x.activation.isSome = true) :
    setWear i c s = setSlot s i (setCell (slotOf s i) c (some { x with wear := some (wearNow s i c x) })) := by
  simp only [setWear, hx, ha, if_true]

theorem worn_setWear (i : Fin 32) (c : CellId) (s : State) : Worn s (setWear i c s) := by
  unfold setWear
  split
  · exact worn_refl s
  · rename_i x hx
    split
    · refine ⟨rfl, rfl, rfl, rfl, fun j => ?_⟩
      by_cases hj : j = i
      · subst hj
        rw [slotOf_setSlot, unwornSlot_setCell hx]
      · rw [slotOf_setSlot_other hj]
    · exact worn_refl s

theorem worn_raise (n : Notice) (s : State) : Worn s (raise n s) := ⟨rfl, rfl, rfl, rfl, fun _ => rfl⟩

theorem recomputeWear_slots (i : Fin 32) (c : CellId) (s : State) : (recomputeWear i c s).slots = (setWear i c s).slots := by
  unfold recomputeWear
  cases hx : cellOf (slotOf s i) c with
  | none => simp only [setWear, hx]
  | some x =>
    dsimp only
    split
    · split <;> rfl
    · rename_i ha
      simp only [setWear, hx, if_neg ha]

theorem worn_recomputeWear (i : Fin 32) (c : CellId) (s : State) : Worn s (recomputeWear i c s) := by
  unfold recomputeWear
  dsimp only
  repeat' split
  · exact worn_refl s
  · exact (worn_setWear i c s).trans (worn_raise _ _)
  · exact worn_setWear i c s
  · exact worn_refl s

theorem worn_hourWear (s : State) (i : Fin 32) : Worn s (hourWear s i) := by
  unfold hourWear
  split
  · exact worn_refl s
  · exact (worn_recomputeWear i .a s).trans (worn_recomputeWear i .b _)

theorem slotOf_setWear_other {i j : Fin 32} {c : CellId} (h : j ≠ i) : slotOf (setWear i c s) j = slotOf s j := by
  unfold setWear
  repeat' split
  all_goals first | rfl | exact slotOf_setSlot_other h

theorem slotOf_recomputeWear (i j : Fin 32) (c : CellId) (s : State) :
    slotOf (recomputeWear i c s) j = slotOf (setWear i c s) j := congrArg (·[j]) (recomputeWear_slots i c s)

theorem slotOf_hourWear_other {i j : Fin 32} (h : j ≠ i) : slotOf (hourWear s i) j = slotOf s j := by
  unfold hourWear
  split
  · rfl
  · rw [slotOf_recomputeWear, slotOf_setWear_other h, slotOf_recomputeWear, slotOf_setWear_other h]

/-- The figure of the generation in a cell, as a state that differs in wear alone computes it. -/
theorem Worn.wear_setWear (h : Worn r s) {i : Fin 32} {c : CellId} {x : CellImg} {a : Activation}
    (hx : cellOf (slotOf r i) c = some x) (ha : x.activation = some a) :
    (cellOf (slotOf (setWear i c s) i) c).bind (·.wear) =
      some (wearFigure x.params (Machine.usePoint r i c x) (r.clock.hour - a.hour)) := by
  obtain ⟨y, hy, hyx⟩ := h.cell hx
  have params : y.params = x.params := congrArg (·.params) hyx
  have act : y.activation = some a := (congrArg (·.activation) hyx).trans ha
  rw [setWear_eq hy (by simp [act]), slotOf_setSlot, cellOf_setCell]
  simp only [Option.bind_some, wearNow, h.usePoint hyx, params, ageOf, act, h.clock]

/-- A recomputation of the other cell leaves the wear of this one. -/
theorem cellOf_setWear_otherCell (i : Fin 32) (c : CellId) (s : State) :
    cellOf (slotOf (setWear i c s) i) (otherCell c) = cellOf (slotOf s i) (otherCell c) := by
  unfold setWear
  repeat' split
  all_goals first | rfl | rw [slotOf_setSlot, cellOf_setCell_otherCell]

/-- The hour's recomputation of a slot outside quarantine gives each activated generation its figure (R56). -/
theorem Worn.wear_hourWear (h : Worn r s) {i : Fin 32} {c : CellId} {x : CellImg} {a : Activation}
    (hq : (slotOf r i).quarantined = false) (hx : cellOf (slotOf r i) c = some x) (ha : x.activation = some a) :
    (cellOf (slotOf (hourWear s i) i) c).bind (·.wear) =
      some (wearFigure x.params (Machine.usePoint r i c x) (r.clock.hour - a.hour)) := by
  rw [hourWear, if_neg (by rw [h.quarantined, hq]; nofun), slotOf_recomputeWear]
  cases c with
  | b => exact (h.trans (worn_recomputeWear i .a s)).wear_setWear hx ha
  | a =>
    have other := cellOf_setWear_otherCell i .b (recomputeWear i .a s)
    simp only [otherCell] at other
    rw [other, slotOf_recomputeWear]
    exact h.wear_setWear hx ha

/-- The hour's recomputation gives every activated generation outside quarantine its figure (R56). -/
theorem wear_foldl_hourWear {i : Fin 32} {c : CellId} {x : CellImg} {a : Activation}
    (hq : (slotOf s i).quarantined = false) (hx : cellOf (slotOf s i) c = some x) (ha : x.activation = some a) :
    (cellOf (slotOf (allSlots.foldl hourWear s) i) c).bind (·.wear) =
      some (wearFigure x.params (Machine.usePoint s i c x) (s.clock.hour - a.hour)) := by
  refine foldl_reaches (R := Worn) (P := fun u => (cellOf (slotOf u i) c).bind (·.wear) =
    some (wearFigure x.params (Machine.usePoint s i c x) (s.clock.hour - a.hour))) (x := i)
    Worn.trans worn_hourWear (fun u h => h.wear_hourWear hq hx ha) (fun u j _ h hp => ?_) (worn_refl s)
    (List.mem_finRange i)
  by_cases hj : i = j
  · subst hj; exact h.wear_hourWear hq hx ha
  · rwa [slotOf_hourWear_other hj]

theorem worn_foldl_hourWear (l : List (Fin 32)) (s : State) : Worn s (l.foldl hourWear s) := by
  induction l generalizing s with
  | nil => exact worn_refl s
  | cons i l ih => exact (worn_hourWear s i).trans (ih _)

/-! ### Flush requests (R88) -/

/-- An entry that is clean, its h on its way (R88). -/
def flushed (e : Entry) : Entry := { e with flushReq := false, dirty := false }

/-- A queued HIGHWATER of a slot and cell has this value or a greater one. -/
def HighOnWay (s : State) (i : Fin 32) (c : CellId) (v : Nat) : Prop :=
  ∃ j ∈ s.writer.queue, ∃ g w, j.job = .highWater i c g w ∧ v ≤ w

theorem isHighFor_iff {i : Fin 32} {c : CellId} {q : QJob} :
    isHighFor i c q = true ↔ ∃ g v, q.job = .highWater i c g v := by
  unfold isHighFor
  split <;> rename_i h <;> simp [h]
  intro g v hj
  exact h _ _ _ _ hj

/-- A request for a HIGHWATER puts its value on its way, and takes none off its own (R177). -/
theorem requestHigh_onWay {i : Fin 32} {c : CellId} {gen v : Nat} {port hold : Bool}
    (h : requestHigh i c gen v port hold s = some t) : HighOnWay t i c v ∧
      ∀ j d w, HighOnWay s j d w → HighOnWay t j d w := by
  unfold requestHigh requestCounter at h
  split at h
  · rename_i hany
    cases h
    refine ⟨?_, ?_⟩
    · obtain ⟨q, hq, hs⟩ := List.any_eq_true.1 hany
      obtain ⟨g, w, hj⟩ := isHighFor_iff.1 hs
      exact ⟨coalesce v port hold q, List.mem_map.2 ⟨q, hq, if_pos hs⟩, g, max w v, by simp [coalesce, hj, raiseValue], by omega⟩
    · rintro j d w ⟨q, hq, g, x, hj, hx⟩
      by_cases hs : isHighFor i c q = true
      · exact ⟨coalesce v port hold q, List.mem_map.2 ⟨q, hq, if_pos hs⟩, g, max x v, by simp [coalesce, hj, raiseValue],
          by omega⟩
      · exact ⟨q, List.mem_map.2 ⟨q, hq, if_neg hs⟩, g, x, hj, hx⟩
  · split at h
    · cases h
      refine ⟨⟨_, List.mem_append_right _ (.head _), gen, v, rfl, le_refl v⟩, ?_⟩
      rintro j d w ⟨q, hq, hj⟩
      exact ⟨q, List.mem_append_left _ hq, hj⟩
    · cases h

theorem requestHigh_queue {i : Fin 32} {c : CellId} {gen v : Nat} {port hold : Bool}
    (h : requestHigh i c gen v port hold s = some t) : ∃ q, t = setQueue q s := requestCounter_queue h

/-- The key of an entry. -/
def entryKey (e : Entry) : Fin 32 × Nat := (e.slot, e.gen)

/-- What the flush request of one entry does: the entry is clean, its h on its way, and every other entry stays. -/
theorem flushOne_spec {x : Entry} (h : flushOne s x = some t) : HighOnWay t x.slot x.cell x.h ∧
    (∀ j d w, HighOnWay s j d w → HighOnWay t j d w) ∧ (x ∈ s.cache.entries → flushed x ∈ t.cache.entries) ∧
    ∀ e ∈ s.cache.entries, entryKey e ≠ entryKey x → e ∈ t.cache.entries := by
  unfold flushOne at h
  split at h
  · obtain ⟨u, hu, rfl⟩ := Option.map_eq_some_iff.1 h
    obtain ⟨onWay, keeps⟩ := requestHigh_onWay hu
    obtain ⟨q, rfl⟩ := requestHigh_queue hu
    refine ⟨onWay, keeps, fun hx => ?_, fun e he hk => ?_⟩
    · exact List.mem_map.2 ⟨x, hx, by simp [flushed]⟩
    · refine List.mem_map.2 ⟨e, he, if_neg fun hs => hk ?_⟩
      simp only [Bool.and_eq_true, beq_iff_eq] at hs
      exact Prod.ext hs.1 hs.2
  · cases h

/-- An entry as it was, or clean with its h on its way (R88). -/
def FlushedOrKept (s : State) (e : Entry) : Prop :=
  e ∈ s.cache.entries ∨ flushed e ∈ s.cache.entries ∧ HighOnWay s e.slot e.cell e.h

/-- The flush request of one entry, made where it can be (R88). -/
def flushStep (s : State) (e : Entry) : State := (flushOne s e).getD s

/-- One flush request: its entry is as it was or clean with its h on its way, every other entry stays, and no h leaves its way. -/
theorem flushStep_spec (s : State) (x : Entry) :
    (x ∈ s.cache.entries → FlushedOrKept (flushStep s x) x) ∧
    (∀ e ∈ s.cache.entries, entryKey e ≠ entryKey x → e ∈ (flushStep s x).cache.entries) ∧
    ∀ j d w, HighOnWay s j d w → HighOnWay (flushStep s x) j d w := by
  cases h : flushOne s x with
  | none =>
    have same : flushStep s x = s := by rw [flushStep, h]; rfl
    rw [same]
    exact ⟨.inl, fun _ he _ => he, fun _ _ _ h => h⟩
  | some u =>
    have same : flushStep s x = u := by rw [flushStep, h]; rfl
    obtain ⟨onWay, keeps, clean, stay⟩ := flushOne_spec h
    rw [same]
    exact ⟨fun hx => .inr ⟨clean hx, onWay⟩, stay, keeps⟩

/-- The flush requests of a list of entries with distinct keys. -/
theorem foldl_flushStep {l : List Entry} (hd : (l.map entryKey).Nodup) :
    (∀ e ∈ l, e ∈ s.cache.entries → FlushedOrKept (l.foldl flushStep s) e) ∧
    (∀ e ∈ s.cache.entries, entryKey e ∉ l.map entryKey → e ∈ (l.foldl flushStep s).cache.entries) ∧
    ∀ j d w, HighOnWay s j d w → HighOnWay (l.foldl flushStep s) j d w := by
  induction l generalizing s with
  | nil => exact ⟨fun e he => absurd he List.not_mem_nil, fun e he _ => he, fun _ _ _ h => h⟩
  | cons x l ih =>
    obtain ⟨hx, hl⟩ := List.nodup_cons.1 hd
    obtain ⟨one, stay, keeps⟩ := flushStep_spec s x
    obtain ⟨done, kept, queue⟩ := ih (s := flushStep s x) hl
    rw [List.foldl_cons]
    refine ⟨fun e he hs => ?_, fun e hs he => ?_, fun j d w h => queue j d w (keeps j d w h)⟩
    · rcases List.mem_cons.1 he with rfl | he
      · rcases one hs with h | ⟨h, w⟩
        · exact .inl (kept e h hx)
        · exact .inr ⟨kept (flushed e) h hx, queue _ _ _ w⟩
      · exact done e he (stay e hs fun h => hx (h ▸ List.mem_map_of_mem he))
    · rw [List.map_cons, List.mem_cons, not_or] at he
      exact kept e (stay e hs he.1) he.2

theorem flushRequests_eq (s : State) : flushRequests s =
    if s.device = .serving then s.cache.entries.foldl flushStep s else s := rfl

/-- Every entry is as it was, or clean with its h on its way in a queued HIGHWATER (R88). -/
theorem flushRequests_entry (hd : (s.cache.entries.map entryKey).Nodup) {e : Entry} (he : e ∈ s.cache.entries) :
    FlushedOrKept (flushRequests s) e := by
  rw [flushRequests_eq]
  split
  · exact (foldl_flushStep hd).1 e he he
  · exact .inl he

/-- A dirty entry that is marked and asked for is flush-requested, or clean with its h on its way (R88). -/
theorem flushRequests_markFlush {p : Entry → Bool} (hd : (s.cache.entries.map entryKey).Nodup) {e : Entry}
    (he : e ∈ s.cache.entries) (hdirty : e.dirty = true) (hp : p e = true) :
    FlushedOrKept (flushRequests (markFlush p s)) { e with flushReq := true } := by
  have keys : ((markFlush p s).cache.entries.map entryKey) = s.cache.entries.map entryKey := by
    simp only [markFlush, List.map_map]
    exact congrArg (List.map · s.cache.entries) (funext fun x => by simp only [Function.comp]; split <;> rfl)
  have marked : { e with flushReq := true } ∈ (markFlush p s).cache.entries :=
    List.mem_map.2 ⟨e, he, if_pos (by simp [hdirty, hp])⟩
  exact flushRequests_entry (keys ▸ hd) marked

end Sys2Proof.Machine
end

section
/-! PROOFS. The examination of the slots at the hour boundary: a due mark stands, or its job is on its way (R25 to R27, R34). -/

namespace Sys2Proof.Machine

variable {r s t u : State}

/-- A slot without its marks. -/
def markless (img : SlotImg) : SlotImg :=
  { img with actDue := none, ovlDue := none, repairA := false, repairB := false, repairFloor := false }

theorem cellOf_markless (img : SlotImg) (c : CellId) : cellOf (markless img) c = cellOf img c := by cases c <;> rfl

/-- Slots with the same cells have the same generations in the same roles. -/
theorem cellWith_of_cells {img jmg : SlotImg} (h : ∀ c, cellOf img c = cellOf jmg c) (g : GenRole) :
    cellWith img g = cellWith jmg g := by
  have role (c : CellId) : roleIn img c = roleIn jmg c := by rw [roleIn, h, h, roleIn]
  rw [cellWith, role, role, cellWith]

theorem genWith_of_cells {img jmg : SlotImg} (h : ∀ c, cellOf img c = cellOf jmg c) (g : GenRole) :
    genWith img g = genWith jmg g := by
  have hw := cellWith_of_cells h g
  cases hj : cellWith jmg g <;> simp only [genWith, hw, hj, h]

theorem genNumber_of_cells {img jmg : SlotImg} (h : ∀ c, cellOf img c = cellOf jmg c) (g : GenRole) :
    genNumber img g = genNumber jmg g := by
  rw [genNumber, genWith_of_cells h, genNumber]

theorem phaseOf_of_cells {img jmg : SlotImg} (h : ∀ c, cellOf img c = cellOf jmg c)
    (hq : img.quarantined = jmg.quarantined) : phaseOf img = phaseOf jmg := by
  rw [phaseOf, hq, cellWith_of_cells h, cellWith_of_cells h, cellWith_of_cells h, phaseOf]

/-- The states differ in the marks of slots, in jobs that have joined the queue and in the strip-pending mark. -/
structure Marked (r s : State) : Prop where
  cache : s.cache = r.cache
  clock : s.clock = r.clock
  device : s.device = r.device
  job : s.writer.job = r.writer.job
  queue : ∀ q ∈ r.writer.queue, q ∈ s.writer.queue
  slots : ∀ i, markless (slotOf s i) = markless (slotOf r i)

theorem marked_refl (s : State) : Marked s s := ⟨rfl, rfl, rfl, rfl, fun _ => id, fun _ => rfl⟩

theorem Marked.trans (h : Marked r s) (k : Marked s t) : Marked r t :=
  ⟨k.cache.trans h.cache, k.clock.trans h.clock, k.device.trans h.device, k.job.trans h.job,
    fun q hq => k.queue q (h.queue q hq), fun i => (k.slots i).trans (h.slots i)⟩

theorem Marked.cell (h : Marked r s) (i : Fin 32) (c : CellId) : cellOf (slotOf s i) c = cellOf (slotOf r i) c := by
  rw [← cellOf_markless, h.slots, cellOf_markless]

theorem Marked.quarantined (h : Marked r s) (i : Fin 32) : (slotOf s i).quarantined = (slotOf r i).quarantined := by
  have same := congrArg SlotImg.quarantined (h.slots i)
  exact same

theorem Marked.graceProgress (h : Marked r s) (i : Fin 32) :
    (slotOf s i).graceProgress = (slotOf r i).graceProgress := by
  have same := congrArg SlotImg.graceProgress (h.slots i)
  exact same

theorem Marked.genWith (h : Marked r s) (i : Fin 32) (g : GenRole) :
    Machine.genWith (slotOf s i) g = Machine.genWith (slotOf r i) g := genWith_of_cells (h.cell i) g

theorem Marked.genNumber (h : Marked r s) (i : Fin 32) (g : GenRole) :
    Machine.genNumber (slotOf s i) g = Machine.genNumber (slotOf r i) g := genNumber_of_cells (h.cell i) g

theorem Marked.phase (h : Marked r s) (i : Fin 32) : phaseOf (slotOf s i) = phaseOf (slotOf r i) :=
  phaseOf_of_cells (h.cell i) (h.quarantined i)

theorem Marked.live (h : Marked r s) {q : QJob} (hq : q ∈ liveJobs r) : q ∈ liveJobs s := by
  rw [liveJobs, List.mem_append] at hq ⊢
  rw [h.job]
  exact hq.imp_left (h.queue q)

theorem marked_setSlot {i : Fin 32} {img : SlotImg} (h : markless img = markless (slotOf s i)) :
    Marked s (setSlot s i img) := by
  refine ⟨rfl, rfl, rfl, rfl, fun _ => id, fun j => ?_⟩
  by_cases hj : j = i
  · subst hj; rw [slotOf_setSlot, h]
  · rw [slotOf_setSlot_other hj]

theorem marked_enqueue (q : QJob) (s : State) : Marked s (enqueue q s) :=
  ⟨rfl, rfl, rfl, rfl, fun _ => List.mem_append_left _, fun _ => rfl⟩

/-! ### A mark stands, or its job is on its way -/

/-- The activation of a generation is due, or its ACTIVATE is queued or in progress while SERVING (R25). -/
def ActOnWay (s : State) (i : Fin 32) (g : Nat) : Prop :=
  (slotOf s i).actDue = some g ∨ s.device = .serving ∧ ∃ q ∈ liveJobs s, q.job = .activate i g

/-- The end of an overlap is due with this cause, or its OVERLAP_END is queued or in progress while SERVING (R26). -/
def OvlOnWay (s : State) (i : Fin 32) (g : Nat) (cause : OvlCause) : Prop :=
  (slotOf s i).ovlDue = some (g, cause) ∨
    s.device = .serving ∧ ∃ q ∈ liveJobs s, ∃ c, q.job = .overlapEnd i g c

/-- A step that clears an activation mark only for its job keeps it on its way. -/
theorem ActOnWay.step {i : Fin 32} {g : Nat} (h : ActOnWay s i g) (k : Marked s t)
    (hm : (slotOf s i).actDue = some g → ActOnWay t i g) : ActOnWay t i g := by
  obtain h | ⟨serving, q, hq, hj⟩ := h
  · exact hm h
  · exact .inr ⟨k.device.trans serving, q, k.live hq, hj⟩

theorem OvlOnWay.step {i : Fin 32} {g : Nat} {c : OvlCause} (h : OvlOnWay s i g c) (k : Marked s t)
    (hm : (slotOf s i).ovlDue = some (g, c) → OvlOnWay t i g c) : OvlOnWay t i g c := by
  obtain h | ⟨serving, q, hq, hj⟩ := h
  · exact hm h
  · exact .inr ⟨k.device.trans serving, q, k.live hq, hj⟩

/-- The job that a slot's marks call for takes its own mark away and leaves the others. -/
theorem markedJob_marks {i : Fin 32} {j : StoreJob} {img : SlotImg} (h : markedJob s i = some (j, img)) :
    markless img = markless (slotOf s i) ∧
    (img.actDue = (slotOf s i).actDue ∨ ∃ g, (slotOf s i).actDue = some g ∧ j = .activate i g) ∧
    (img.ovlDue = (slotOf s i).ovlDue ∨ ∃ g c, (slotOf s i).ovlDue = some (g, c) ∧ j = .overlapEnd i g c) := by
  unfold markedJob at h
  dsimp only at h
  split at h
  · cases h; exact ⟨rfl, .inl rfl, .inl rfl⟩
  split at h
  · cases h; exact ⟨rfl, .inl rfl, .inl rfl⟩
  split at h
  · cases h; exact ⟨rfl, .inl rfl, .inl rfl⟩
  split at h
  · rename_i x hx
    cases h
    split at hx
    · cases hx
    · rename_i g hg
      split at hx
      · cases hx; exact ⟨rfl, .inr ⟨g, hg, rfl⟩, .inl rfl⟩
      · cases hx
  · split at h
    · cases h
    · rename_i g c hg
      split at h
      · cases h; exact ⟨rfl, .inl rfl, .inr ⟨g, c, hg, rfl⟩⟩
      · cases h

/-- What a step that queues for marks keeps: everything but marks and the queue, and each mark or its job. -/
structure Queues (s t : State) : Prop where
  marked : Marked s t
  act : ∀ i g, ActOnWay s i g → ActOnWay t i g
  ovl : ∀ i g c, OvlOnWay s i g c → OvlOnWay t i g c

theorem queues_refl (s : State) : Queues s s := ⟨marked_refl s, fun _ _ => id, fun _ _ _ => id⟩

theorem Queues.trans (h : Queues r s) (k : Queues s t) : Queues r t :=
  ⟨h.marked.trans k.marked, fun i g a => k.act i g (h.act i g a), fun i g c a => k.ovl i g c (h.ovl i g c a)⟩

theorem queues_queueMarked (i : Fin 32) (serving : s.device = .serving) : Queues s (queueMarked s i) := by
  unfold queueMarked
  split
  · exact queues_refl s
  rename_i j img hj
  split
  · obtain ⟨same, act, ovl⟩ := markedJob_marks hj
    have marked : Marked s (enqueue (plainJob j) (setSlot s i img)) :=
      (marked_setSlot same).trans (marked_enqueue _ _)
    have queued : plainJob j ∈ liveJobs (enqueue (plainJob j) (setSlot s i img)) :=
      List.mem_append_left _ (List.mem_append_right _ (.head _))
    refine ⟨marked, fun k g h => h.step marked fun hk => ?_, fun k g c h => h.step marked fun hk => ?_⟩
    · by_cases hki : k = i
      · subst hki
        obtain same | ⟨g', hg', rfl⟩ := act
        · exact .inl (by rw [← hk, ← same]; exact congrArg SlotImg.actDue slotOf_setSlot)
        · exact .inr ⟨serving, _, queued, by rw [hk] at hg'; cases hg'; rfl⟩
      · exact .inl (by rw [← hk]; exact congrArg SlotImg.actDue (slotOf_setSlot_other hki))
    · by_cases hki : k = i
      · subst hki
        obtain same | ⟨g', c', hg', rfl⟩ := ovl
        · exact .inl (by rw [← hk, ← same]; exact congrArg SlotImg.ovlDue slotOf_setSlot)
        · exact .inr ⟨serving, _, queued, c', by rw [hk] at hg'; cases hg'; rfl⟩
      · exact .inl (by rw [← hk]; exact congrArg SlotImg.ovlDue (slotOf_setSlot_other hki))
  · exact queues_refl s

theorem queues_queueMarks (s : State) (i : Fin 32) : Queues s (queueMarks s i) := by
  unfold queueMarks
  split
  · rename_i serving
    have next {u : State} (h : Queues s u) : Queues s (queueMarked u i) :=
      h.trans (queues_queueMarked i (h.marked.device.trans serving))
    exact next (next (next (next (next (queues_refl s)))))
  · exact queues_refl s

/-! ### The examination (R25, R26) -/

theorem overlapTimeDue_iff {img : SlotImg} : overlapTimeDue s img = true ↔ phaseOf img = .overlap ∧
    ∃ c x, genWith img .current = some (c, x) ∧ 0 < x.params.graceHours ∧ x.params.graceHours ≤ ageOf s x := by
  rw [overlapTimeDue, Bool.and_eq_true, decide_eq_true_iff]
  refine and_congr_right fun _ => ?_
  split <;> rename_i h <;> simp [h]

/-- The examination of activations marks the staged generation where its hour has come, and nothing else. -/
theorem markActivation_cases (s : State) (i : Fin 32) : markActivation s i = s ∨
    ∃ c x, genWith (slotOf s i) .staged = some (c, x) ∧
      markActivation s i = setSlot s i { slotOf s i with actDue := some x.params.generation } := by
  unfold markActivation
  dsimp only
  repeat' split
  all_goals first | exact .inl rfl | exact .inr ⟨_, _, ‹_›, rfl⟩

theorem markActivation_due {i : Fin 32} {c : CellId} {x : CellImg} {hour : Nat} (hq : (slotOf s i).quarantined = false)
    (hx : genWith (slotOf s i) .staged = some (c, x)) (hr : x.params.rule = .atHour hour) (hh : hour ≤ s.clock.hour) :
    (slotOf (markActivation s i) i).actDue = some x.params.generation := by
  simp only [markActivation, hq, hx, hr, hh, if_true, Bool.false_eq_true, if_false, slotOf_setSlot]

theorem marked_markActivation (s : State) (i : Fin 32) : Marked s (markActivation s i) := by
  obtain h | ⟨_, _, _, h⟩ := markActivation_cases s i <;> rw [h]
  · exact marked_refl s
  · exact marked_setSlot rfl

theorem marked_markOverlap (s : State) (i : Fin 32) : Marked s (markOverlap s i) := by
  unfold markOverlap
  dsimp only
  split
  · exact marked_setSlot rfl
  · exact marked_refl s

theorem marked_examineSlot (s : State) (i : Fin 32) : Marked s (examineSlot s i) :=
  ((marked_markActivation s i).trans (marked_markOverlap _ i)).trans (queues_queueMarks _ i).marked

theorem actDue_markOverlap (s : State) (i j : Fin 32) :
    (slotOf (markOverlap s i) j).actDue = (slotOf s j).actDue := by
  unfold markOverlap
  dsimp only
  split
  · by_cases hj : j = i
    · subst hj; rw [slotOf_setSlot]
    · rw [slotOf_setSlot_other hj]
  · rfl

theorem ovlDue_markActivation (s : State) (i j : Fin 32) :
    (slotOf (markActivation s i) j).ovlDue = (slotOf s j).ovlDue := by
  obtain h | ⟨_, _, _, h⟩ := markActivation_cases s i <;> rw [h]
  by_cases hj : j = i
  · subst hj; rw [slotOf_setSlot]
  · rw [slotOf_setSlot_other hj]

/-- The examination keeps the activation of a staged generation on its way. -/
theorem actOnWay_examineSlot {i j : Fin 32} {g : Nat} (hg : genNumber (slotOf s j) .staged = some g)
    (h : ActOnWay s j g) : ActOnWay (examineSlot s i) j g := by
  refine (queues_queueMarks _ i).act j g ?_
  have first : ActOnWay (markActivation s i) j g := by
    refine h.step (marked_markActivation s i) fun hm => .inl ?_
    obtain h | ⟨c, x, hx, h⟩ := markActivation_cases s i <;> rw [h]
    · exact hm
    · by_cases hj : j = i
      · subst hj
        rw [slotOf_setSlot]
        rw [genNumber, hx] at hg
        exact hg
      · rwa [slotOf_setSlot_other hj]
  exact first.step (marked_markOverlap _ i) fun hm => .inl (by rw [actDue_markOverlap, hm])

/-- The examination keeps the end of an overlap by TIME on its way. -/
theorem ovlOnWay_examineSlot {i j : Fin 32} {g : Nat} (hg : genNumber (slotOf s j) .overlap = some g)
    (h : OvlOnWay s j g .time) : OvlOnWay (examineSlot s i) j g .time := by
  refine (queues_queueMarks _ i).ovl j g .time ?_
  have first : OvlOnWay (markActivation s i) j g .time :=
    h.step (marked_markActivation s i) fun hm => .inl (by rw [ovlDue_markActivation, hm])
  refine first.step (marked_markOverlap _ i) fun hm => .inl ?_
  unfold markOverlap
  dsimp only
  split
  · by_cases hj : j = i
    · subst hj
      rw [slotOf_setSlot, (marked_markActivation s j).genNumber, hg]
      rfl
    · rwa [slotOf_setSlot_other hj]
  · exact hm

/-- The examination of a slot sets the activation of a staged generation on its way where its hour has come (R25). -/
theorem actOnWay_of_due {i : Fin 32} {c : CellId} {x : CellImg} {hour : Nat} (hq : (slotOf s i).quarantined = false)
    (hx : genWith (slotOf s i) .staged = some (c, x)) (hr : x.params.rule = .atHour hour) (hh : hour ≤ s.clock.hour) :
    ActOnWay (examineSlot s i) i x.params.generation :=
  (queues_queueMarks _ i).act _ _ (.inl (by rw [actDue_markOverlap, markActivation_due hq hx hr hh]))

/-- The examination of a slot sets the end of its overlap on its way where the grace hours have run (R26). -/
theorem ovlOnWay_of_due {i : Fin 32} {g : Nat} (hdue : overlapTimeDue s (slotOf s i) = true)
    (hg : genNumber (slotOf s i) .overlap = some g) : OvlOnWay (examineSlot s i) i g .time := by
  refine (queues_queueMarks _ i).ovl _ _ _ (.inl ?_)
  have marked := marked_markActivation s i
  have due : overlapTimeDue (markActivation s i) (slotOf (markActivation s i) i) = true := by
    rw [overlapTimeDue_iff] at hdue ⊢
    simpa only [marked.phase, marked.genWith, ageOf, marked.clock] using hdue
  simp only [markOverlap, due, if_true, slotOf_setSlot, marked.genNumber, hg, Option.map_some]

theorem marked_examination (l : List (Fin 32)) (s : State) : Marked s (l.foldl examineSlot s) := by
  induction l generalizing s with
  | nil => exact marked_refl s
  | cons i l ih => exact (marked_examineSlot s i).trans (ih _)

/-- After the examination an activation whose hour has come is on its way (R25). -/
theorem actOnWay_examination {i : Fin 32} {c : CellId} {x : CellImg} {hour : Nat} (hq : (slotOf s i).quarantined = false)
    (hx : genWith (slotOf s i) .staged = some (c, x)) (hr : x.params.rule = .atHour hour) (hh : hour ≤ s.clock.hour) :
    ActOnWay (allSlots.foldl examineSlot s) i x.params.generation := by
  have hg : genNumber (slotOf s i) .staged = some x.params.generation := by rw [genNumber, hx]; rfl
  refine foldl_reaches (R := Marked) (P := fun u => ActOnWay u i x.params.generation) Marked.trans marked_examineSlot
    (fun u h => ?_) (fun u j _ h hp => ?_) (marked_refl s) (List.mem_finRange i)
  · exact actOnWay_of_due (by rw [h.quarantined, hq]) (by rw [h.genWith, hx]) hr (by rw [h.clock]; exact hh)
  · exact actOnWay_examineSlot (by rw [h.genNumber, hg]) hp

/-- After the examination an overlap whose grace hours have run has its end on its way (R26). -/
theorem ovlOnWay_examination {i : Fin 32} {g : Nat} (hdue : overlapTimeDue s (slotOf s i) = true)
    (hg : genNumber (slotOf s i) .overlap = some g) : OvlOnWay (allSlots.foldl examineSlot s) i g .time := by
  refine foldl_reaches (R := Marked) (P := fun u => OvlOnWay u i g .time) Marked.trans marked_examineSlot
    (fun u h => ?_) (fun u j _ h hp => ?_) (marked_refl s) (List.mem_finRange i)
  · have due : overlapTimeDue u (slotOf u i) = true := by
      rw [overlapTimeDue_iff] at hdue ⊢
      simpa only [h.phase, h.genWith, ageOf, h.clock] using hdue
    exact ovlOnWay_of_due due (by rw [h.genNumber, hg])
  · exact ovlOnWay_examineSlot (by rw [h.genNumber, hg]) hp

theorem queueMarks_idle {i : Fin 32} (h : s.device ≠ .serving) : queueMarks s i = s := if_neg h

/-- Outside SERVING the examination queues nothing (R27). -/
theorem queue_examination (h : s.device ≠ .serving) (l : List (Fin 32)) :
    (l.foldl examineSlot s).writer.queue = s.writer.queue := by
  induction l generalizing s with
  | nil => rfl
  | cons i l ih =>
    have marked := (marked_markActivation s i).trans (marked_markOverlap _ i)
    have idle : examineSlot s i = markOverlap (markActivation s i) i :=
      queueMarks_idle (by rw [marked.device]; exact h)
    have same : (markOverlap (markActivation s i) i).writer = s.writer := by
      rw [show (markOverlap (markActivation s i) i).writer = (markActivation s i).writer by
        unfold markOverlap; dsimp only; split <;> rfl]
      obtain h | ⟨_, _, _, h⟩ := markActivation_cases s i <;> rw [h]
      rfl
    rw [List.foldl_cons, ih (by rw [(marked_examineSlot s i).device]; exact h), idle, same]

theorem queues_requestHour (s : State) : Queues s (requestHour s) := by
  have pending (v : Bool) (u : State) : Queues u { u with writer := { u.writer with stripPending := v } } :=
    ⟨⟨rfl, rfl, rfl, rfl, fun _ => id, fun _ => rfl⟩, fun _ _ => id, fun _ _ _ => id⟩
  unfold requestHour
  dsimp only
  repeat' split
  · exact queues_refl s
  · have marked := marked_enqueue (plainJob .hour) s
    exact Queues.trans ⟨marked, fun _ _ h => h.step marked .inl, fun _ _ _ h => h.step marked .inl⟩ (pending false _)
  · exact pending true s
  · exact pending true s

theorem requestHour_idle (h : s.device ≠ .serving) : (requestHour s).writer.queue = s.writer.queue := by
  rw [requestHour, if_neg h]

/-! ### The event (R34) -/

/-- The state as the hour rises, and as its wear is computed anew. -/
def hourWorn (s : State) : State := allSlots.foldl hourWear { s with clock := ⟨0, s.clock.hour + 1⟩ }

/-- The state as the event has made its flush requests. -/
def hourFlushed (s : State) : State := flushRequests (markFlush (fun _ => true) (hourWorn s))

theorem hourBoundary_eq (s : State) :
    hourBoundary s = requestHour (allSlots.foldl examineSlot (hourFlushed s)) := rfl

theorem worn_hourWorn (s : State) : Worn { s with clock := ⟨0, s.clock.hour + 1⟩ } (hourWorn s) :=
  worn_foldl_hourWear allSlots _

theorem exec_hourEdge (hrun : running s = true) (hserve : servingOrHolding s = true) (hsec : s.clock.seconds = 3599)
    (hh : s.clock.hour < 4294967295) : exec .stickEdge s = .next (hourBoundary s) := by
  have hc : counting s = true := by rw [counting, hrun, hserve]; rfl
  change execStickEdge s = _
  rw [execStickEdge, if_pos hc, if_neg (by omega), hourEdge, if_pos hh]

theorem flushStep_frame (s : State) (e : Entry) :
    (flushStep s e).slots = s.slots ∧ (flushStep s e).clock = s.clock ∧ (flushStep s e).device = s.device := by
  cases h : flushOne s e with
  | none =>
    have same : flushStep s e = s := by rw [flushStep, h]; rfl
    rw [same]
    exact ⟨rfl, rfl, rfl⟩
  | some u =>
    have same : flushStep s e = u := by rw [flushStep, h]; rfl
    unfold flushOne at h
    split at h
    · obtain ⟨v, hv, rfl⟩ := Option.map_eq_some_iff.1 h
      obtain ⟨q, rfl⟩ := requestHigh_queue hv
      rw [same]
      exact ⟨rfl, rfl, rfl⟩
    · cases h

/-- Flush requests change the cache and the queue alone. -/
theorem flushRequests_frame (s : State) : (flushRequests s).slots = s.slots ∧ (flushRequests s).clock = s.clock ∧
    (flushRequests s).device = s.device := by
  have fold (l : List Entry) (u : State) : (l.foldl flushStep u).slots = u.slots ∧
      (l.foldl flushStep u).clock = u.clock ∧ (l.foldl flushStep u).device = u.device := by
    induction l generalizing u with
    | nil => exact ⟨rfl, rfl, rfl⟩
    | cons e l ih =>
      obtain ⟨hs, hc, hd⟩ := flushStep_frame u e
      obtain ⟨ks, kc, kd⟩ := ih (flushStep u e)
      exact ⟨ks.trans hs, kc.trans hc, kd.trans hd⟩
  rw [flushRequests_eq]
  split
  · exact fold _ s
  · exact ⟨rfl, rfl, rfl⟩

theorem markFlush_frame (p : Entry → Bool) (s : State) : (markFlush p s).slots = s.slots ∧
    (markFlush p s).clock = s.clock ∧ (markFlush p s).device = s.device ∧ (markFlush p s).writer = s.writer :=
  ⟨rfl, rfl, rfl, rfl⟩

/-- After its wear, the event changes neither cells nor the clock. -/
theorem hourFlushed_frame (s : State) : (hourFlushed s).slots = (hourWorn s).slots ∧
    (hourFlushed s).clock = ⟨0, s.clock.hour + 1⟩ ∧ (hourFlushed s).device = s.device := by
  have worn := worn_hourWorn s
  obtain ⟨fs, fc, fd⟩ := flushRequests_frame (markFlush (fun _ => true) (hourWorn s))
  obtain ⟨ms, mc, md, _⟩ := markFlush_frame (fun _ => true) (hourWorn s)
  rw [hourFlushed, fs, fc, fd, ms, mc, md, worn.clock, worn.device]
  exact ⟨rfl, rfl, rfl⟩

/-- What the examination and the HOUR job do after the flush requests. -/
theorem marked_hourBoundary (s : State) : Marked (hourFlushed s) (hourBoundary s) := by
  rw [hourBoundary_eq]
  exact (marked_examination _ _).trans (queues_requestHour _).marked

/-- The slots examined have the generations, with their wear anew, that the slots had before the event. -/
theorem hourFlushed_genWith (s : State) (i : Fin 32) (g : GenRole) :
    (genWith (slotOf (hourFlushed s) i) g).map (fun x => (x.1, unworn x.2)) =
      (genWith (slotOf s i) g).map fun x => (x.1, unworn x.2) := by
  have same : slotOf (hourFlushed s) i = slotOf (hourWorn s) i := congrArg (·[i]) (hourFlushed_frame s).1
  rw [← genWith_unwornSlot, ← genWith_unwornSlot, same, (worn_hourWorn s).slots]
  rfl

end Sys2Proof.Machine
end

section
/-! PROOFS. The hour-boundary event (R25, R26, R34, R56, R88). -/

namespace Sys2Proof.Machine

variable {r s t u : State}

/-- A generation of the slot before the event is, with its wear anew, the one that the examination finds in its role. -/
theorem genWith_hourFlushed {i : Fin 32} {g : GenRole} {c : CellId} {x : CellImg}
    (hx : genWith (slotOf s i) g = some (c, x)) :
    ∃ y, genWith (slotOf (hourFlushed s) i) g = some (c, y) ∧ unworn y = unworn x := by
  have same := hourFlushed_genWith s i g
  rw [hx, Option.map_some] at same
  obtain ⟨⟨d, y⟩, hy, hyx⟩ := Option.map_eq_some_iff.1 same
  obtain ⟨rfl, hyx⟩ := Prod.ext_iff.1 hyx
  exact ⟨y, hy, hyx⟩

theorem quarantined_hourFlushed (s : State) (i : Fin 32) :
    (slotOf (hourFlushed s) i).quarantined = (slotOf s i).quarantined := by
  have same : slotOf (hourFlushed s) i = slotOf (hourWorn s) i := congrArg (·[i]) (hourFlushed_frame s).1
  rw [same, (worn_hourWorn s).quarantined]
  rfl

/-- The event computes the wear of every activated generation outside quarantine for the new hour (R56). -/
theorem wear_hourBoundary {i : Fin 32} {c : CellId} {x : CellImg} {a : Activation}
    (hq : (slotOf s i).quarantined = false) (hx : cellOf (slotOf s i) c = some x) (ha : x.activation = some a) :
    (cellOf (slotOf (hourBoundary s) i) c).bind (·.wear) =
      some (wearFigure x.params (usePoint s i c x) (s.clock.hour + 1 - a.hour)) := by
  have same : slotOf (hourFlushed s) i = slotOf (hourWorn s) i := congrArg (·[i]) (hourFlushed_frame s).1
  rw [(marked_hourBoundary s).cell, same]
  exact wear_foldl_hourWear (s := { s with clock := ⟨0, s.clock.hour + 1⟩ }) hq hx ha

/-- While HOLDING the event marks every dirty entry for its flush and queues nothing (R88). -/
theorem holding_hourBoundary (h : s.device ≠ .serving) :
    (hourBoundary s).cache = { s.cache with
      entries := s.cache.entries.map fun e => if e.dirty then { e with flushReq := true } else e } ∧
    (hourBoundary s).writer.queue = s.writer.queue := by
  have worn := worn_hourWorn s
  have marked : hourFlushed s = markFlush (fun _ => true) (hourWorn s) := by
    rw [hourFlushed, flushRequests_eq, if_neg]
    rw [(markFlush_frame _ _).2.2.1, worn.device]
    exact h
  have idle : (hourFlushed s).device ≠ .serving := by rw [(hourFlushed_frame s).2.2]; exact h
  constructor
  · rw [(marked_hourBoundary s).cache, marked, markFlush, worn.cache]
    simp only [Bool.and_true]
  · rw [hourBoundary_eq, requestHour_idle, queue_examination idle, marked, (markFlush_frame _ _).2.2.2, worn.writer]
    rw [(marked_examination _ _).device]
    exact idle

/-- While SERVING a dirty entry is flush-requested after the event, or is clean with its h on its way (R88). -/
theorem flush_hourBoundary (hd : (s.cache.entries.map entryKey).Nodup) {e : Entry} (he : e ∈ s.cache.entries)
    (hdirty : e.dirty = true) : FlushedOrKept (hourBoundary s) { e with flushReq := true } := by
  have cache : (hourWorn s).cache = s.cache := (worn_hourWorn s).cache
  have done : FlushedOrKept (hourFlushed s) { e with flushReq := true } :=
    flushRequests_markFlush (by rw [cache]; exact hd) (by rw [cache]; exact he) hdirty rfl
  have marked := marked_hourBoundary s
  unfold FlushedOrKept at done ⊢
  rw [marked.cache]
  refine done.imp_right (And.imp_right ?_)
  rintro ⟨q, hq, hj⟩
  exact ⟨q, marked.queue q hq, hj⟩

/-- After the event a staged generation whose hour has come has its activation on its way (R25). -/
theorem activation_hourBoundary {i : Fin 32} {c : CellId} {x : CellImg} {hour : Nat}
    (hq : (slotOf s i).quarantined = false) (hx : genWith (slotOf s i) .staged = some (c, x))
    (hr : x.params.rule = .atHour hour) (hh : hour ≤ s.clock.hour + 1) :
    ActOnWay (hourBoundary s) i x.params.generation := by
  obtain ⟨y, hy, hyx⟩ := genWith_hourFlushed hx
  have params : y.params = x.params := congrArg (·.params) hyx
  rw [hourBoundary_eq, ← params]
  refine (queues_requestHour _).act _ _ (actOnWay_examination ?_ hy (params ▸ hr) ?_)
  · rw [quarantined_hourFlushed, hq]
  · rw [(hourFlushed_frame s).2.1]; exact hh

/-- After the event an overlap whose grace hours have run has its end on its way (R26). -/
theorem overlap_hourBoundary {i : Fin 32} {c : CellId} {x : CellImg} {a : Activation} {k : Nat}
    (hp : phaseOf (slotOf s i) = .overlap) (hx : genWith (slotOf s i) .current = some (c, x))
    (ha : x.activation = some a) (hg : 0 < x.params.graceHours) (hrun : x.params.graceHours ≤ s.clock.hour + 1 - a.hour)
    (hk : genNumber (slotOf s i) .overlap = some k) : OvlOnWay (hourBoundary s) i k .time := by
  obtain ⟨y, hy, hyx⟩ := genWith_hourFlushed hx
  have params : y.params = x.params := congrArg (·.params) hyx
  have act : y.activation = some a := (congrArg (·.activation) hyx).trans ha
  obtain ⟨⟨d, z⟩, hz, hzk⟩ := Option.map_eq_some_iff.1 hk
  obtain ⟨w, hw, hwz⟩ := genWith_hourFlushed hz
  have number : genNumber (slotOf (hourFlushed s) i) .overlap = some k := by
    rw [genNumber, hw, ← hzk]
    exact congrArg (fun v => some v.params.generation) hwz
  have phase : phaseOf (slotOf (hourFlushed s) i) = .overlap := by
    have same : slotOf (hourFlushed s) i = slotOf (hourWorn s) i := congrArg (·[i]) (hourFlushed_frame s).1
    rw [← phaseOf_unwornSlot, same, (worn_hourWorn s).slots, phaseOf_unwornSlot]
    exact hp
  have age : ageOf (hourFlushed s) y = s.clock.hour + 1 - a.hour := by
    simp only [ageOf, act, (hourFlushed_frame s).2.1]
  rw [hourBoundary_eq]
  refine (queues_requestHour _).ovl _ _ _ (ovlOnWay_examination (overlapTimeDue_iff.2 ⟨phase, c, y, hy, ?_, ?_⟩) number)
  · rw [params]; exact hg
  · rw [params, age]; exact hrun

/-- Settles O27: the wear, the flush requests and the examination each by their lemma. -/
theorem hourBoundaryRecomputesFlushesAndMarks : Obligations.HourBoundaryRecomputesFlushesAndMarks := by
  unfold Obligations.HourBoundaryRecomputesFlushesAndMarks
  intro s hrun hserve hsec hh
  have device : (hourBoundary s).device = s.device := (marked_hourBoundary s).device.trans (hourFlushed_frame s).2.2
  refine ⟨hourBoundary s, exec_hourEdge hrun hserve hsec hh, ?_, holding_hourBoundary, ?_, ?_, ?_⟩
  · exact fun i c x a hq hx ha => wear_hourBoundary hq hx ha
  · intro _ hd e he hdirty _
    exact flush_hourBoundary hd he hdirty
  · intro i c x hour hq hx hr hle
    exact (activation_hourBoundary hq hx hr hle).imp_right (And.imp_left device.symm.trans)
  · intro i c x a k hp hx ha hg hage hk
    exact (overlap_hourBoundary hp hx ha hg hage hk).imp_right (And.imp_left device.symm.trans)

end Sys2Proof.Machine
end

section
/-! PROOFS. What the withhold causes, the fills that end and the store jobs that go leave alone: no operation of the cache or of the
command in flight that they lead to changes a slot image, a bar, a context or a notice, and the end of a verification changes its own
context alone (R82, R91, R99, R105, R148). -/

namespace Sys2Proof.Machine

variable {r s t u : State}

/-! ### Operations of the cache and of the command in flight -/

/-- The slot images, the bars, the contexts, the notices and the device state are the same. -/
structure Calm (r s : State) : Prop where
  slots : s.slots = r.slots
  bars : s.cache.bars = r.cache.bars
  renewal : s.renewal = r.renewal
  notices : s.notices = r.notices
  device : s.device = r.device

theorem calm_refl (s : State) : Calm s s := ⟨rfl, rfl, rfl, rfl, rfl⟩

theorem Calm.trans (h : Calm r s) (k : Calm s t) : Calm r t :=
  ⟨k.slots.trans h.slots, k.bars.trans h.bars, k.renewal.trans h.renewal, k.notices.trans h.notices,
    k.device.trans h.device⟩

/-- A change of other parts. -/
theorem calm_parts {entries waits engine port writer} (h : Calm r s) :
    Calm r { s with
      cache := { s.cache with entries := entries, waits := waits }, engine := engine, port := port, writer := writer } :=
  ⟨h.slots, h.bars, h.renewal, h.notices, h.device⟩

theorem calm_setExec {e} (h : Calm r s) : Calm r (setExec e s) := calm_parts h
theorem calm_respond {c b} (h : Calm r s) : Calm r (respond c b s) := calm_parts h
theorem calm_setQueue {q} (h : Calm r s) : Calm r (setQueue q s) := calm_parts h
theorem calm_withEntries {es} (h : Calm r s) : Calm r (withEntries es s) := calm_parts h
theorem calm_updEntry {i g f} (h : Calm r s) : Calm r (updEntry i g f s) := calm_parts h
theorem calm_setPending {i g b} (h : Calm r s) : Calm r (setPending i g b s) := calm_updEntry h
theorem calm_removeEntry {i g} (h : Calm r s) : Calm r (removeEntry i g s) := calm_withEntries h
theorem calm_releasePins {q : Requester} (h : Calm r s) : Calm r (releasePins q s) := calm_withEntries h
theorem calm_giveCause {w p} (h : Calm r s) : Calm r (giveCause w p s) := calm_withEntries h
theorem calm_portLetsGo (h : Calm r s) : Calm r (portLetsGo s) := calm_parts h
theorem calm_takeHit {q e} (h : Calm r s) : Calm r (takeHit q e s) := calm_parts h
theorem calm_leaveWaits (h : Calm r s) : Calm r (leaveWaits s) := calm_parts h
theorem calm_joinReserve {i c} (h : Calm r s) : Calm r (joinReserve i c s) := calm_parts h
theorem calm_setLine {q j} (h : Calm r s) : Calm r (setLine q j s) := by cases q <;> exact calm_parts h

theorem calm_finish {c b} (h : Calm r s) : Calm r (finish c b s) := calm_respond (calm_releasePins (calm_portLetsGo h))

theorem calm_place {q j} (h : Calm r s) : Calm r (place q j s) := by
  unfold place
  split
  · exact calm_parts (calm_setLine h)
  · exact calm_setLine h

theorem calm_requestCounter {same : QJob → Bool} {job : StoreJob} {v : Nat} {port hold : Bool}
    (e : requestCounter same job v port hold s = some t) (h : Calm r s) : Calm r t := by
  obtain ⟨q, rfl⟩ := requestCounter_queue e
  exact calm_setQueue h

theorem calm_makePlace (e : makePlace s = some t) (h : Calm r s) : Calm r t := by
  unfold makePlace at e
  repeat' split at e
  · cases e; exact h
  · cases e
  · obtain ⟨u, hu, rfl⟩ := Option.map_eq_some_iff.1 e
    exact calm_removeEntry (calm_requestCounter hu h)
  · cases e; exact calm_removeEntry h

theorem calm_beginFill {q : Requester} {i : Fin 32} {c : CellId} {g : Nat} (h : Calm r s) :
    Calm r (beginFill q i c g s) := by
  unfold beginFill
  split
  · rename_i place
    exact calm_place (calm_parts (calm_makePlace place h))
  · exact calm_parts h

theorem calm_askCache {q : Requester} {i : Fin 32} {c : CellId} {g : Nat} {a : Ask}
    (e : askCache q i c g s = (a, t)) (h : Calm r s) : Calm r t := by
  unfold askCache at e
  repeat' split at e
  all_goals obtain ⟨-, rfl⟩ := Prod.ext_iff.1 e
  all_goals first
    | with_reducible exact h | exact calm_updEntry h | exact calm_takeHit h | exact calm_beginFill h | exact calm_parts h

theorem calm_placeUnprotect {op : UnprotectOp} {key : List Byte} (h : Calm r s) : Calm r (placeUnprotect op key s) :=
  calm_place (calm_setExec h)

theorem calm_runTrials {op : UnprotectOp} {ts : List Trial} (h : Calm r s) : Calm r (runTrials op ts s) := by
  induction ts generalizing op s with
  | nil => exact calm_finish h
  | cons t rest ih =>
    unfold runTrials; dsimp -proj only
    repeat' with_reducible first
      | exact h | refine ih ?_ | refine calm_askCache ‹_› ?_ | refine calm_finish ?_ | refine calm_placeUnprotect ?_
      | refine calm_releasePins ?_ | refine calm_setExec ?_ | split

theorem calm_portRefused {c : Code} (h : Calm r s) : Calm r (portRefused c s) := by
  unfold portRefused
  repeat' with_reducible first
    | exact h | refine calm_finish ?_ | refine calm_runTrials ?_ | split

theorem calm_withdrawPort (h : Calm r s) : Calm r (withdrawPort s) := calm_setLine h

theorem calm_protectCause {op : ProtectOp} {w : Withhold} (h : Calm r s) : Calm r (protectCause op w s) := by
  unfold protectCause
  repeat' with_reducible first
    | exact h | refine calm_finish ?_ | refine calm_withdrawPort ?_ | split

theorem calm_unprotectCause {op : UnprotectOp} {w : Withhold} (h : Calm r s) : Calm r (unprotectCause op w s) := by
  unfold unprotectCause
  repeat' with_reducible first
    | exact h | refine calm_finish ?_ | refine calm_runTrials ?_ | refine calm_withdrawPort ?_ | split

theorem calm_activateCaused {op : ActivateOp} {w : Withhold} (h : Calm r s) : Calm r (activateCaused op w s) := by
  unfold activateCaused
  repeat' with_reducible first
    | exact h | refine calm_finish ?_ | refine calm_withdrawPort ?_ | split

theorem calm_portReact (h : Calm r s) : Calm r (portReact s) := by
  unfold portReact
  repeat' with_reducible first
    | exact h | refine calm_protectCause ?_ | refine calm_unprotectCause ?_ | refine calm_activateCaused ?_ | split

theorem calm_protectGone {op : ProtectOp} (h : Calm r s) : Calm r (protectGone op s) := by
  unfold protectGone
  split <;> exact calm_finish h

theorem calm_unprotectHighEnd {op : UnprotectOp} (h : Calm r s) : Calm r (unprotectHighEnd op s) := by
  unfold unprotectHighEnd
  repeat' split
  all_goals exact calm_finish h

theorem calm_portJobGone (h : Calm r s) : Calm r (portJobGone s) := by
  unfold portJobGone
  repeat' with_reducible first
    | exact h | refine calm_finish ?_ | refine calm_protectGone ?_ | refine calm_unprotectHighEnd ?_ | split

theorem calm_portVoided (h : Calm r s) : Calm r (portVoided s) := by
  unfold portVoided
  repeat' with_reducible first
    | exact h | refine calm_finish ?_ | split

theorem calm_portSettle (h : Calm r s) : Calm r (portSettle s) := by
  rcases portSettle_cases s with e | e <;> rw [e]
  · exact h
  · exact calm_finish h

theorem calm_removeCounterJobs {p : QJob → Bool} (h : Calm r s) : Calm r (removeCounterJobs p s) := by
  unfold removeCounterJobs; dsimp -proj only
  split
  · exact calm_portJobGone (calm_setQueue h)
  · exact calm_setQueue h

theorem calm_voidJobs {items : List (Fin 32 × TamperAct)} (h : Calm r s) : Calm r (voidJobs items s) := by
  unfold voidJobs; dsimp -proj only
  split
  · exact calm_portVoided (calm_setQueue h)
  · exact calm_setQueue h

theorem calm_flushStep {e : Entry} (h : Calm r s) : Calm r (flushStep s e) := by
  cases hf : flushOne s e with
  | none =>
    have same : flushStep s e = s := by rw [flushStep, hf]; rfl
    rw [same]; exact h
  | some u =>
    have same : flushStep s e = u := by rw [flushStep, hf]; rfl
    rw [same]
    unfold flushOne at hf
    split at hf
    · obtain ⟨v, hv, rfl⟩ := Option.map_eq_some_iff.1 hf
      exact calm_updEntry (calm_requestCounter hv h)
    · cases hf

theorem calm_flushRequests (h : Calm r s) : Calm r (flushRequests s) := by
  have fold (l : List Entry) (v : State) (hv : Calm r v) : Calm r (l.foldl flushStep v) := by
    induction l generalizing v with
    | nil => exact hv
    | cons e l ih => exact ih _ (calm_flushStep hv)
  rw [flushRequests_eq]
  split
  · exact fold _ s h
  · exact h

theorem calm_waitThrough {op : UnprotectOp} (h : Calm r s) : Calm r (waitThrough op s) := calm_setExec (calm_updEntry h)

theorem calm_requestThrough {op : UnprotectOp} (h : Calm r s) : Calm r (requestThrough op s) := by
  unfold requestThrough
  split
  · rename_i asked
    exact calm_waitThrough (calm_requestCounter asked h)
  · exact calm_setExec h

/-! ### The end of a verification -/

/-- The context is the one of the verification in hand. -/
def Verifies (s : State) (i : Fin 2) : Prop := ∃ v, s.renewal.verif = some v ∧ v.ctx = i

/-- The notice tells of the end of the verification in hand. -/
def TellsVerif (s : State) (n : Notice) : Prop := ∃ i, noticeKey n = .renewalFinished i ∧ Verifies s i

/-- The slot images, the bars and the device state are the same; of the contexts and notices, those of the verification in hand
may differ, which may have ended. -/
structure Aside (r s : State) : Prop where
  slots : s.slots = r.slots
  bars : s.cache.bars = r.cache.bars
  device : s.device = r.device
  verif : s.renewal.verif = r.renewal.verif ∨ s.renewal.verif = none
  ctxs : ∀ i, ¬Verifies r i → ctxOf s i = ctxOf r i
  notices : ∀ n ∈ r.notices, ¬TellsVerif r n → n ∈ s.notices

theorem aside_refl (s : State) : Aside s s := ⟨rfl, rfl, rfl, .inl rfl, fun _ _ => rfl, fun _ h _ => h⟩

theorem Aside.verifies (h : Aside r s) {i : Fin 2} (hs : Verifies s i) : Verifies r i := by
  obtain ⟨v, hv, hi⟩ := hs
  rcases h.verif with e | e
  · exact ⟨v, e ▸ hv, hi⟩
  · rw [e] at hv; cases hv

theorem Aside.trans (h : Aside r s) (k : Aside s t) : Aside r t := by
  refine ⟨k.slots.trans h.slots, k.bars.trans h.bars, k.device.trans h.device, ?_, fun i hi => ?_, fun n hn ht => ?_⟩
  · rcases k.verif with e | e
    · rcases h.verif with e' | e'
      · exact .inl (e.trans e')
      · exact .inr (e.trans e')
    · exact .inr e
  · exact (k.ctxs i fun hs => hi (h.verifies hs)).trans (h.ctxs i hi)
  · exact k.notices n (h.notices n hn ht) fun ⟨i, key, hs⟩ => ht ⟨i, key, h.verifies hs⟩

theorem Calm.aside (h : Calm r s) : Aside r s :=
  ⟨h.slots, h.bars, h.device, .inl (by rw [h.renewal]), fun i _ => by rw [ctxOf, h.renewal, ctxOf],
    fun n hn _ => by rw [h.notices]; exact hn⟩

/-- An operation of the cache or the command in flight follows. -/
theorem Aside.calm (h : Aside r s) (k : Calm s t) : Aside r t := h.trans k.aside

theorem mem_raiseIn_of_ne {n m : Notice} {ns : List Notice} (h : m ∈ ns) (hk : noticeKey m ≠ noticeKey n) :
    m ∈ raiseIn n ns := by
  induction ns with
  | nil => cases h
  | cons x rest ih =>
    unfold raiseIn
    rcases List.mem_cons.1 h with rfl | h
    · rw [if_neg hk]; exact .head _
    · split
      · exact .tail _ h
      · exact .tail _ (ih h)

theorem calm_withdrawFill {i : Fin 32} {c : CellId} {g : Nat} (h : Calm r s) : Calm r (withdrawFill i c g s) := by
  unfold withdrawFill
  repeat' with_reducible first
    | exact h | refine calm_removeEntry ?_ | refine calm_setLine ?_ | split

theorem calm_withdrawRenewal (h : Calm r s) : Calm r (withdrawRenewal s) := by
  unfold withdrawRenewal
  repeat' with_reducible first
    | exact h | refine calm_setLine ?_ | refine calm_withdrawFill ?_ | split

theorem calm_orphanRenewal (h : Calm r s) : Calm r (orphanRenewal s) := by
  unfold orphanRenewal
  repeat' split
  all_goals first | with_reducible exact h | exact calm_parts h

/-- The state as a verification ends, before it leaves the Renewal Engine's hands. -/
def verifReleased (s : State) : State := releasePins .renewal (leaveWaits (orphanRenewal (withdrawRenewal s)))

theorem calm_verifReleased (s : State) : Calm s (verifReleased s) :=
  calm_releasePins (calm_leaveWaits (calm_orphanRenewal (calm_withdrawRenewal (calm_refl s))))

theorem endVerif_eq (s : State) :
    endVerif s = { verifReleased s with renewal := { (verifReleased s).renewal with verif := none } } := rfl

theorem ctxOf_endVerif (s : State) (i : Fin 2) : ctxOf (endVerif s) i = ctxOf s i := by
  have same : (endVerif s).renewal.ctxs = s.renewal.ctxs := by
    rw [endVerif_eq, (calm_verifReleased s).renewal]
  exact ctxOf_congr same i

theorem aside_endVerif (s : State) : Aside s (endVerif s) := by
  have calm := calm_verifReleased s
  exact ⟨calm.slots, calm.bars, calm.device, .inr rfl, fun i _ => ctxOf_endVerif s i,
    fun n hn _ => by rw [endVerif_eq]; exact calm.notices ▸ hn⟩

theorem aside_failVerif (c : Code) (s : State) : Aside s (failVerif c s) := by
  unfold failVerif
  split
  · exact aside_refl s
  · rename_i v hv
    have ended := aside_endVerif s
    refine ⟨ended.slots, ended.bars, ended.device, .inr rfl, fun i hi => ?_, fun n hn ht => ?_⟩
    · rw [ctxOf_ctxFail_other fun h => hi ⟨v, hv, h.symm⟩, ctxOf_endVerif]
    · refine mem_raiseIn_of_ne (ended.notices n hn ht) fun h => ht ⟨v.ctx, h, v, hv, rfl⟩

theorem aside_dropVerif (s : State) : Aside s (dropVerif s) := by
  unfold dropVerif
  split
  · exact aside_refl s
  · rename_i v hv
    have ended := aside_endVerif s
    refine ⟨ended.slots, ended.bars, ended.device, .inr rfl, fun i hi => ?_, ended.notices⟩
    rw [ctxIdle, ctxOf_setCtx_other fun h => hi ⟨v, hv, h.symm⟩, ctxOf_endVerif]

theorem aside_renewalRefused (s : State) : Aside s (renewalRefused s) := by
  unfold renewalRefused
  repeat' split
  all_goals first
    | with_reducible exact aside_refl s | with_reducible exact aside_failVerif _ s | with_reducible exact aside_dropVerif s

theorem aside_renewalReact (s : State) : Aside s (renewalReact s) := by
  unfold renewalReact
  repeat' split
  all_goals first | with_reducible exact aside_refl s | with_reducible exact aside_failVerif _ s

/-! ### Causes (R82, R85, R91, R99, R105) -/

theorem aside_tellRefused (toPort toRenewal : Bool) (c : Code) (s : State) :
    Aside s (tellHolders toPort toRenewal (portRefused c) renewalRefused s) := by
  have port (u : State) : Aside u (if toPort = true then portRefused c u else u) := by
    split
    · exact (calm_portRefused (calm_refl u)).aside
    · exact aside_refl u
  have renewal (u : State) : Aside u (if toRenewal = true then renewalRefused u else u) := by
    split
    · exact aside_renewalRefused u
    · exact aside_refl u
  unfold tellHolders tellBoth
  split
  · exact (renewal s).trans (port _)
  · exact (port s).trans (renewal _)

theorem calm_dropFillRequest {e : Entry} (h : Calm r s) : Calm r (dropFillRequest e s) := by
  unfold dropFillRequest; dsimp -proj only
  repeat' with_reducible first
    | exact h | refine calm_setLine ?_ | split

theorem aside_withdrawCaused (s : State) (e : Entry) : Aside s (withdrawCaused s e) := by
  unfold withdrawCaused
  split
  · exact aside_refl s
  · split
    · exact (calm_removeEntry (calm_dropFillRequest (calm_refl s))).aside.trans (aside_tellRefused _ _ _ _)
    · exact aside_refl s

theorem aside_endWaits (w : Withhold) (p : Fin 32 → Nat → Bool) (s : State) : Aside s (endWaits w p s) :=
  (calm_parts (calm_refl s)).aside.trans (aside_tellRefused _ _ _ _)

theorem aside_causes (w : Withhold) (p : Fin 32 → Nat → Bool) (s : State) : Aside s (causes w p s) := by
  have fold (l : List Entry) (v : State) : Aside v (l.foldl withdrawCaused v) := by
    induction l generalizing v with
    | nil => exact aside_refl v
    | cons e l ih => exact (aside_withdrawCaused v e).trans (ih _)
  have given : Aside s (giveCause w (fun e => p e.slot e.gen) s) := (calm_giveCause (calm_refl s)).aside
  exact (((given.trans (aside_endWaits w p _)).trans (fold _ _)).calm (calm_portReact (calm_refl _))).trans
    (aside_renewalReact _)

theorem aside_genLeaves (i : Fin 32) (c : CellId) (g : Nat) (s : State) : Aside s (genLeaves i c g s) :=
  (aside_causes _ _ s).calm (calm_removeCounterJobs (calm_refl _))

theorem aside_slotErased (i : Fin 32) (s : State) : Aside s (slotErased i s) :=
  (aside_causes _ _ s).calm (calm_removeCounterJobs (calm_refl _))

end Sys2Proof.Machine
end

section
/-! PROOFS. The command in flight and the context of a completed job are told: what that leaves of the slots, the notices and the
contexts (R12, R44, R86, R152). -/

namespace Sys2Proof.Machine

variable {r s t u : State}

/-! ### The slots as a wear recomputation leaves them -/

/-- A generation without the wear of an activated one. -/
def cellShape (x : CellImg) : CellImg := if x.activation.isSome then { x with wear := none } else x

/-- A slot without the wear of its activated generations. -/
def slotShape (img : SlotImg) : SlotImg := { img with cellA := img.cellA.map cellShape, cellB := img.cellB.map cellShape }

theorem cellOf_slotShape (img : SlotImg) (c : CellId) : cellOf (slotShape img) c = (cellOf img c).map cellShape := by
  cases c <;> rfl

theorem slotShape_setCell {img : SlotImg} {c : CellId} {x y : CellImg} (hx : cellOf img c = some x)
    (hy : cellShape y = cellShape x) : slotShape (setCell img c (some y)) = slotShape img := by
  cases c <;> simp only [cellOf] at hx <;> simp [slotShape, setCell, hx, hy]

theorem cellShape_wear {x : CellImg} (h : x.activation.isSome = true) (w : Option Nat) :
    cellShape { x with wear := w } = cellShape x := by
  simp [cellShape, h]

theorem cellCore_cellShape (x : CellImg) : cellCore (cellShape x) = cellCore x := by
  unfold cellShape
  split <;> rfl

theorem slotCore_slotShape (img : SlotImg) : slotCore (slotShape img) = slotCore img := by
  have cell (c : Option CellImg) : (c.map cellShape).map cellCore = c.map cellCore := by
    cases c with
    | none => rfl
    | some x => exact congrArg some (cellCore_cellShape x)
  simp only [slotCore, slotShape, cell]

/-- What telling the command in flight leaves: slots up to wear, notices but those of wear, contexts, bars and device state. -/
structure Told (r s : State) : Prop where
  shapes : ∀ i, slotShape (slotOf s i) = slotShape (slotOf r i)
  renewal : s.renewal = r.renewal
  bars : s.cache.bars = r.cache.bars
  device : s.device = r.device
  notices : ∀ n ∈ r.notices, (∀ i, noticeKey n ≠ .wearChanged i) → n ∈ s.notices

theorem told_refl (s : State) : Told s s := ⟨fun _ => rfl, rfl, rfl, rfl, fun _ h _ => h⟩

theorem Told.trans (h : Told r s) (k : Told s t) : Told r t :=
  ⟨fun i => (k.shapes i).trans (h.shapes i), k.renewal.trans h.renewal, k.bars.trans h.bars, k.device.trans h.device,
    fun n hn hk => k.notices n (h.notices n hn hk) hk⟩

theorem Calm.told (h : Calm r s) : Told r s :=
  ⟨fun i => by rw [slotOf, h.slots, slotOf], h.renewal, h.bars, h.device, fun _ hn _ => by rw [h.notices]; exact hn⟩

theorem told_setWear (i : Fin 32) (c : CellId) (s : State) : Told s (setWear i c s) := by
  unfold setWear
  split
  · exact told_refl s
  · rename_i x hx
    split
    · rename_i ha
      refine ⟨fun j => ?_, rfl, rfl, rfl, fun _ h _ => h⟩
      by_cases hj : j = i
      · subst hj
        rw [slotOf_setSlot, slotShape_setCell hx (cellShape_wear ha _)]
      · rw [slotOf_setSlot_other hj]
    · exact told_refl s

theorem told_recomputeWear (i : Fin 32) (c : CellId) (s : State) : Told s (recomputeWear i c s) := by
  have raised (n : Notice) (hn : noticeKey n = .wearChanged i) (u : State) : Told u (raise n u) :=
    ⟨fun _ => rfl, rfl, rfl, rfl, fun m hm hk => mem_raiseIn_of_ne hm (hn ▸ hk i)⟩
  unfold recomputeWear
  dsimp only
  repeat' split
  · exact told_refl s
  · exact (told_setWear i c s).trans (raised _ rfl _)
  · exact told_setWear i c s
  · exact told_refl s

theorem calm_earlyReserve {op : ProtectOp} (h : Calm r s) : Calm r (earlyReserve op s) := by
  rcases earlyReserve_cases op s with e | ⟨q, e⟩ <;> rw [e]
  · exact h
  · exact calm_setPending (calm_setQueue h)

theorem told_giveValue (op : ProtectOp) (key : List Byte) (n : Nat) (s : State) : Told s (giveValue op key n s) := by
  have reserved : Calm s (earlyReserve op (updEntry op.slot op.gen (fun e => { e with n := some (n + 1) }) s)) :=
    calm_earlyReserve (calm_updEntry (calm_refl s))
  have given : Told s (valueGiven op n s) := reserved.told.trans (told_recomputeWear _ _ _)
  rw [giveValue_eq]
  exact given.trans (calm_place (calm_setExec (calm_refl _))).told

theorem calm_requestReserve {i : Fin 32} {c : CellId} {g v : Nat} {port : Bool}
    (e : requestReserve i c g v port s = some t) (h : Calm r s) : Calm r t := calm_requestCounter e h

theorem calm_protectReserve {op : ProtectOp} {e : Entry} {x : CellImg} (h : Calm r s) :
    Calm r (protectReserve op e x s) := by
  unfold protectReserve
  repeat' with_reducible first
    | exact h | refine calm_setExec ?_ | refine calm_requestReserve ‹_› ?_ | refine calm_joinReserve ?_
    | refine calm_setPending ?_ | split

theorem told_takeValue (op : ProtectOp) (s : State) : Told s (takeValue op s) := by
  have calm := calm_refl s
  unfold takeValue
  repeat' split
  · exact (calm_finish calm).told
  · exact (calm_finish calm).told
  · exact told_giveValue op _ _ s
  · exact (calm_protectReserve calm).told
  · exact (calm_finish calm).told

theorem told_portCounterDone (s : State) : Told s (portCounterDone s) := by
  have calm := calm_refl s
  unfold portCounterDone
  repeat' with_reducible first
    | exact told_refl s | exact (calm_protectGone calm).told | exact told_takeValue _ s
    | exact (calm_unprotectHighEnd calm).told | split

theorem told_tellPort (q : QJob) (s : State) : Told s (tellPort q s) := by
  unfold tellPort
  split
  · exact told_portCounterDone s
  · exact told_refl s

/-! ### A completed job (R12, R180) -/

/-- The state as the last write of a job has matched and the job has left the Store Writer's hands. -/
def lastWritten (w : ArrayWrite) (s : State) : State :=
  { s with array := putWrite true s.array w, writer := { s.writer with job := none } }

theorem exec_lastMatched {x : Running} {w : ArrayWrite} {q : QJob} (hrun : running s = true)
    (hj : s.writer.job = some x) (hw : x.writes = [w]) (ht : x.task = .queued q) :
    exec (.storeWriteReadBack .matched) s =
      .next (portSettle (completeJob q x.hour x.bothCells (lastWritten w s))) := by
  change execStoreWriteReadBack .matched s = _
  simp only [execStoreWriteReadBack, hj, hw, hrun, if_true, settled, writeEnd, nextWrite, List.isEmpty_nil, completeTask,
    ht]
  rfl

/-- After its effect a completed job that is no ARM_RECORD is told to its requesters. -/
theorem completeJob_of_not_arm {q : QJob} {hour : Nat} {both : Bool} (h : isArm q.job = false) :
    completeJob q hour both s = tellContext q (tellPort q (doneEffect q hour both s)) := by
  rw [completeJob_eq, h]
  rfl

/-- After the effect of a job other than an ARM_RECORD, the rest of its completion leaves the slots but for wear. -/
theorem slotShape_completed {q : QJob} {hour : Nat} {both : Bool} (h : isArm q.job = false) (i : Fin 32) :
    slotShape (slotOf (portSettle (completeJob q hour both s)) i) = slotShape (slotOf (doneEffect q hour both s) i) := by
  obtain ⟨-, -, -, -, told⟩ := tellContext_keeps q (tellPort q (doneEffect q hour both s))
  rw [slotOf, (calm_portSettle (calm_refl _)).slots, completeJob_of_not_arm h, told]
  exact (told_tellPort q _).shapes i

end Sys2Proof.Machine
end

section
/-! PROOFS. The slot of a completed STAGE, ACTIVATE, OVERLAP_END or REVOKE_SLOT, and its grace progress (R15 to R19, R28). -/

namespace Sys2Proof.Machine

variable {r s t u : State} {img : SlotImg}

/-! ### Phases -/

/-- A slot in OVERLAP has an overlap generation. -/
theorem genNumber_of_overlap (h : phaseOf img = .overlap) : ∃ k, genNumber img .overlap = some k := by
  cases hg : genWith img .overlap with
  | some x => exact ⟨_, by rw [genNumber, hg]; rfl⟩
  | none =>
    have none := cellWith_of_genWith_none hg
    unfold phaseOf at h
    rw [none] at h
    repeat' split at h
    all_goals simp_all

/-- A slot with an EMPTY cell is not in OVERLAP. -/
theorem phaseOf_of_empty {c : CellId} (h : cellOf img c = none) : phaseOf img ≠ .overlap := by
  intro hp
  obtain ⟨k, hk⟩ := genNumber_of_overlap hp
  obtain ⟨d, x, hx, -⟩ := genNumber_some hk
  have role := genWith_role hx
  have hd : d ≠ c := by
    rintro rfl
    rw [roleIn_empty h] at role
    cases role
  have other : cellOf img (otherCell d) = none := by rw [← eq_otherCell hd.symm, h]
  rw [roleIn, other, (genWith_cell hx).2] at role
  unfold genRole at role
  dsimp only at role
  split at role <;> cases role

/-- A slot with a staged generation is not in OVERLAP. -/
theorem phaseOf_of_unstamped {c : CellId} {x : CellImg} (hx : cellOf img c = some x) (ha : x.activation = none) :
    phaseOf img ≠ .overlap := by
  have role := roleIn_unstamped hx ha
  have staged : (cellWith img .staged).isSome = true := by
    unfold cellWith
    cases c <;> simp only [role, if_true, Option.isSome_some]
    split <;> rfl
  unfold phaseOf
  rw [if_pos staged]
  split <;> nofun

theorem graceProgress_settleMarks (h : phaseOf img ≠ .overlap) : (settleMarks img).graceProgress = 0 := if_neg h

theorem slotOf_updSlot (i : Fin 32) (f : SlotImg → SlotImg) (s : State) :
    slotOf (updSlot i f s) i = settleMarks (f (slotOf s i)) := slotOf_setSlot

theorem slotOf_of_slots (h : t.slots = s.slots) (i : Fin 32) : slotOf t i = slotOf s i := congrArg (·[i]) h

/-! ### STAGE (R15) -/

/-- The slot with a new staged generation in a cell. -/
def stagedSlot (c : CellId) (b : GenRecord) (f : Nat) (img : SlotImg) : SlotImg :=
  { clearRepairs (setCell img c (some (stagedImg b f))) with floor := b.params.generation, quarantined := false }

theorem cellOf_stagedSlot (c : CellId) (b : GenRecord) (f : Nat) (img : SlotImg) :
    cellOf (stagedSlot c b f img) c = some (stagedImg b f) := by cases c <;> rfl

theorem aside_stageDisplaced (i : Fin 32) (c : CellId) (before : SlotImg) (s : State) :
    (stageDisplaced i c before s).slots = s.slots := by
  unfold stageDisplaced
  split
  · rfl
  · dsimp only
    split
    · exact (aside_genLeaves _ _ _ _).slots
    · exact (aside_genLeaves _ _ _ _).slots

theorem slotOf_doneStage_both (i : Fin 32) (b : GenRecord) (f : Nat) (s : State) :
    slotOf (doneStage i b f true s) i = settleMarks (stagedSlot .a b f (setCell (slotOf s i) .b none)) := by
  have target : stageTarget { slotOf s i with quarantined := true } = .a := rfl
  simp only [doneStage, target, if_true]
  rw [slotOf_of_slots (calm_removeCounterJobs (calm_refl _)).slots, slotOf_updSlot]
  rfl

theorem slotOf_doneStage (i : Fin 32) (b : GenRecord) (f : Nat) (s : State) :
    slotOf (doneStage i b f false s) i =
      settleMarks (stagedSlot (stageTarget { slotOf s i with quarantined := false }) b f (slotOf s i)) := by
  simp only [doneStage, Bool.false_eq_true, if_false]
  rw [slotOf_of_slots (aside_stageDisplaced _ _ _ _), slotOf_updSlot]
  rfl

theorem graceProgress_stagedSlot (c : CellId) (b : GenRecord) (f : Nat) (img : SlotImg) :
    (settleMarks (stagedSlot c b f img)).graceProgress = 0 :=
  graceProgress_settleMarks (phaseOf_of_unstamped (cellOf_stagedSlot c b f img) rfl)

/-! ### ACTIVATE (R16, R17, R92) -/

theorem slots_activatePrevious (i : Fin 32) (kept : Bool) (p : Option (CellId × CellImg)) (s : State) :
    (activatePrevious i kept p s).slots = s.slots := by
  unfold activatePrevious
  split
  · rfl
  · dsimp only
    split
    · rfl
    · exact (aside_genLeaves _ _ _ _).slots

theorem raiseVerifyOnly_cases (i : Fin 32) (c : CellId) (g : Nat) (s : State) : raiseVerifyOnly i c g s = s ∨
    raiseVerifyOnly i c g s = clearUnused i c (updEntry i g (activeEntry s i c) s) := by
  unfold raiseVerifyOnly
  repeat' split
  · exact .inl rfl
  · exact .inr rfl
  · exact .inl rfl

theorem clearUnused_slot (i : Fin 32) (c : CellId) (s : State) : slotOf (clearUnused i c s) i =
    setCell (slotOf s i) c ((cellOf (slotOf s i) c).map fun x => { x with unused := false }) := slotOf_setSlot

/-- The slot's image as an activation changes it, before its marks are settled: the staged generation is in cell `c`, the previous
current one stays with `kept`. -/
def activated (hour : Nat) (c : CellId) (kept : Bool) (img : SlotImg) : SlotImg :=
  activatedImg (nextStamp img) hour c ((genWith img .current).map (·.1)) kept img

/-- The state as the image of an activated generation and its notice stand, before an ACTIVATE command is answered. -/
def activation (i : Fin 32) (gen hour : Nat) (c : CellId) (x : CellImg) (s : State) : State :=
  let previous := genWith (slotOf s i) .current
  let kept := previous.isSome && !noGrace x.params
  raise (.activated i gen (previous.map fun y => y.2.params.generation) kept)
    (raiseVerifyOnly i c gen (activatePrevious i kept previous (updSlot i (activated hour c kept) s)))

/-- An ACTIVATE of the staged generation, with the answer to the command that waits on it (R16, R158). -/
theorem doneActivate_eq {i : Fin 32} {c : CellId} {x : CellImg} {gen hour : Nat} {port : Bool}
    (h : genWith (slotOf s i) .staged = some (c, x)) : doneActivate i gen hour port s =
      if port then finish .ok (activateBody i gen (genNumber (slotOf s i) .current)
        ((genWith (slotOf s i) .current).isSome && !noGrace x.params)) (activation i gen hour c x s)
      else activation i gen hour c x s := by
  simp only [doneActivate, h]
  rfl

theorem graceProgress_activated (hour : Nat) (c : CellId) (kept : Bool) (img : SlotImg) :
    (settleMarks (activated hour c kept img)).graceProgress = 0 := by
  have zero : (activated hour c kept img).graceProgress = 0 := rfl
  unfold settleMarks
  dsimp only
  split
  · exact zero
  · rfl

theorem graceProgress_setCell (img : SlotImg) (c : CellId) (x : Option CellImg) :
    (setCell img c x).graceProgress = img.graceProgress := by cases c <;> rfl

/-- The slot after an activation: its image as activated, the unused mark of the new current generation cleared where its entry has
become ACTIVE (R41, R92). -/
theorem slotOf_activation (i : Fin 32) (gen hour : Nat) (c : CellId) (x : CellImg) (s : State) :
    let kept := (genWith (slotOf s i) .current).isSome && !noGrace x.params
    let img := settleMarks (activated hour c kept (slotOf s i))
    slotOf (activation i gen hour c x s) i = img ∨
      slotOf (activation i gen hour c x s) i =
        setCell img c ((cellOf img c).map fun x => { x with unused := false }) := by
  intro kept img
  have image : slotOf (activatePrevious i kept (genWith (slotOf s i) .current) (updSlot i (activated hour c kept) s)) i =
      img := by rw [slotOf_of_slots (slots_activatePrevious _ _ _ _), slotOf_updSlot]
  have raised : slotOf (activation i gen hour c x s) i = slotOf (raiseVerifyOnly i c gen
    (activatePrevious i kept (genWith (slotOf s i) .current) (updSlot i (activated hour c kept) s))) i := rfl
  rcases raiseVerifyOnly_cases i c gen
    (activatePrevious i kept (genWith (slotOf s i) .current) (updSlot i (activated hour c kept) s)) with h | h
  · exact .inl (by rw [raised, h, image])
  · refine .inr ?_
    rw [raised, h, clearUnused_slot]
    exact congrArg (fun m => setCell m c ((cellOf m c).map fun x => { x with unused := false })) image

theorem graceProgress_activation (i : Fin 32) (gen hour : Nat) (c : CellId) (x : CellImg) (s : State) :
    (slotOf (activation i gen hour c x s) i).graceProgress = 0 := by
  rcases slotOf_activation i gen hour c x s with h | h <;> rw [h]
  · exact graceProgress_activated _ _ _ _
  · rw [graceProgress_setCell, graceProgress_activated]

/-! ### The grace progress as a job completes (R28) -/

theorem graceProgress_doneActivate {i : Fin 32} {gen hour : Nat} {port : Bool} {g : CellId × CellImg}
    (h : genWith (slotOf s i) .staged = some g) : (slotOf (doneActivate i gen hour port s) i).graceProgress = 0 := by
  obtain ⟨c, x⟩ := g
  rw [doneActivate_eq h]
  split
  · rw [slotOf_finish, graceProgress_activation]
  · exact graceProgress_activation i gen hour c x s

theorem graceProgress_doneStage (i : Fin 32) (b : GenRecord) (f : Nat) (both : Bool) (s : State) :
    (slotOf (doneStage i b f both s) i).graceProgress = 0 := by
  cases both
  · rw [slotOf_doneStage, graceProgress_stagedSlot]
  · rw [slotOf_doneStage_both, graceProgress_stagedSlot]

theorem slotOf_doneOverlapEnd {i : Fin 32} {gen : Nat} {cause : OvlCause} {c : CellId} {x : CellImg}
    (h : genWith (slotOf s i) .overlap = some (c, x)) :
    slotOf (doneOverlapEnd i gen cause s) i = settleMarks (setCell (slotOf s i) c none) := by
  simp only [doneOverlapEnd, h]
  rw [slotOf_of_slots (aside_genLeaves _ _ _ _).slots]
  change slotOf (updSlot i (fun img => setCell img c none) s) i = _
  rw [slotOf_updSlot]

theorem graceProgress_doneOverlapEnd {i : Fin 32} {gen : Nat} {cause : OvlCause} {g : CellId × CellImg}
    (h : genWith (slotOf s i) .overlap = some g) : (slotOf (doneOverlapEnd i gen cause s) i).graceProgress = 0 := by
  obtain ⟨c, x⟩ := g
  rw [slotOf_doneOverlapEnd h]
  exact graceProgress_settleMarks (phaseOf_of_empty (cellOf_setCell _ c none))

theorem slotOf_doneRevoke (i : Fin 32) (unbind : Bool) (s : State) :
    slotOf (doneRevoke i unbind s) i = revokeImg unbind (slotOf s i) := by
  rw [doneRevoke, slotOf_of_slots (aside_slotErased _ _).slots, slotOf_setSlot]

/-- The rest of a completion keeps the grace progress that the job's effect leaves. -/
theorem graceProgress_completed {q : QJob} {hour : Nat} {both : Bool} (h : isArm q.job = false) (i : Fin 32) :
    (slotOf (portSettle (completeJob q hour both s)) i).graceProgress =
      (slotOf (doneEffect q hour both s) i).graceProgress := by
  have same := congrArg SlotImg.graceProgress (slotShape_completed (s := s) (hour := hour) (both := both) h i)
  exact same

/-! ### An acceptance (R28, R109) -/

/-- The acceptance raises no progress: the slot is not in OVERLAP, the generation is not the current one, or the count is reached. -/
theorem graceAccept_idle {i : Fin 32} {gen : Nat}
    (h : ∀ c x, genWith (slotOf s i) .current = some (c, x) →
      ¬(phaseOf (slotOf s i) = .overlap ∧ x.params.generation = gen ∧ (slotOf s i).graceProgress < x.params.graceCount)) :
    graceAccept i gen s = s := by
  unfold graceAccept
  dsimp only
  split
  · rfl
  · rename_i x hx
    refine if_neg fun hc => h _ x hx ?_
    simpa [and_assoc] using hc

/-- The slot as an acceptance has raised its progress. -/
def graceRaised (x : CellImg) (img : SlotImg) : SlotImg :=
  if img.graceProgress + 1 = x.params.graceCount then
    { img with graceProgress := img.graceProgress + 1, ovlDue := (genNumber img .overlap).map fun g => (g, .count) }
  else { img with graceProgress := img.graceProgress + 1 }

theorem graceProgress_graceRaised (x : CellImg) (img : SlotImg) :
    (graceRaised x img).graceProgress = img.graceProgress + 1 := by
  unfold graceRaised
  split <;> rfl

/-- An acceptance that raises the progress of its slot, queueing for the marks where the count is reached. -/
theorem graceAccept_raises {i : Fin 32} {c : CellId} {x : CellImg} (hp : phaseOf (slotOf s i) = .overlap)
    (hx : genWith (slotOf s i) .current = some (c, x)) (hc : (slotOf s i).graceProgress < x.params.graceCount) :
    Queues (setSlot s i (graceRaised x (slotOf s i))) (graceAccept i x.params.generation s) := by
  have guard : (decide (phaseOf (slotOf s i) = .overlap) && x.params.generation == x.params.generation &&
      decide ((slotOf s i).graceProgress < x.params.graceCount)) = true := by simp [hp, hc]
  simp only [graceAccept, hx, guard, if_true, graceRaised]
  split
  · exact queues_queueMarks _ i
  · exact queues_refl _

end Sys2Proof.Machine
end

section
/-! PROOFS. The grace progress of a slot in OVERLAP (R28, R109). -/

namespace Sys2Proof.Machine

variable {s t u : State}

/-- The slot images are the same, and no job has left the queue or the Store Writer's hands. -/
structure JobsStay (s t : State) : Prop where
  slots : t.slots = s.slots
  live : ∀ q ∈ liveJobs s, ∃ x ∈ liveJobs t, x.job = q.job

theorem jobsStay_refl (s : State) : JobsStay s s := ⟨rfl, fun q hq => ⟨q, hq, rfl⟩⟩

theorem JobsStay.trans {r : State} (h : JobsStay r s) (k : JobsStay s t) : JobsStay r t := by
  refine ⟨k.slots.trans h.slots, fun q hq => ?_⟩
  obtain ⟨x, hx, hxq⟩ := h.live q hq
  obtain ⟨y, hy, hyx⟩ := k.live x hx
  exact ⟨y, hy, hyx.trans hxq⟩

/-- The job that a task in hand carries. -/
def taskJobs : Option Running → List QJob
  | some ⟨.queued q, _, _, _, _, _⟩ => [q]
  | _ => []

theorem liveJobs_eq (s : State) : liveJobs s = s.writer.queue ++ taskJobs s.writer.job := by
  unfold liveJobs taskJobs
  congr 1

theorem jobsStay_finish (c : Code) (b : List Byte) (s : State) : JobsStay s (finish c b s) := by
  refine ⟨(calm_finish (calm_refl s)).slots, fun q hq => ?_⟩
  rw [liveJobs_eq, List.mem_append] at hq
  rcases hq with hq | hq
  · refine ⟨unwaited q, ?_, rfl⟩
    rw [liveJobs_eq]
    exact List.mem_append_left _ (List.mem_map_of_mem hq)
  · refine ⟨unwaited q, ?_, rfl⟩
    rw [liveJobs_eq]
    refine List.mem_append_right _ ?_
    change unwaited q ∈ taskJobs (s.writer.job.map fun r => { r with task := unwaitedTask r.task })
    unfold taskJobs at hq
    split at hq
    · rename_i hj
      obtain rfl := List.mem_singleton.1 hq
      rw [hj]
      exact List.mem_singleton.2 rfl
    · cases hq

theorem jobsStay_portSettle (s : State) : JobsStay s (portSettle s) := by
  rcases portSettle_cases s with h | h <;> rw [h]
  · exact jobsStay_refl s
  · exact jobsStay_finish _ _ s

/-- An accepted frame raises the grace progress of a state with the same slots, and then answers the command or not (R109). -/
theorem acceptFrame_accepts (op : UnprotectOp) (s : State) : ∃ u, u.slots = s.slots ∧
    JobsStay (graceAccept op.slot op.trial.gen u) (acceptFrame op s) := by
  unfold acceptFrame
  split
  · exact ⟨s, rfl, jobsStay_finish _ _ _⟩
  split
  · exact ⟨updEntry op.slot op.trial.gen (fun e => { e with dirty := true, h := op.counter }) s, rfl,
      jobsStay_finish _ _ _⟩
  · exact ⟨_, (calm_requestThrough (calm_updEntry (calm_refl s))).slots, jobsStay_refl _⟩

/-- A frame that opens for an entry without a cause is accepted (R109). -/
theorem exec_frameAccepted {who : Requester} {key nonce header cipher tag plain : List Byte} {orphan : Bool}
    {op : UnprotectOp} {e : Entry} (hrun : running s = true)
    (hj : s.engine.job = some ⟨who, .frameUnprotect key nonce header cipher tag, orphan⟩)
    (hx : s.port.exec = .unprotect op) (hs : op.stage = .frame) (he : findEntry s op.slot op.trial.gen = some e)
    (hw : e.withhold = none) (hp : Config.frames.recover key nonce header cipher tag = some plain) :
    exec (.frameUnprotectEnd true) s =
      .next (portSettle (acceptFrame { op with plain := plain } (engineFree s))) := by
  have ended := exec_frameUnprotectEnd hrun hj hp
  have cause : causeOf (engineFree s) op.slot op.trial.gen = none := (causeOf_of_findEntry (s := engineFree s) he).trans hw
  have accepted : endFrameUnprotect (some plain) (engineFree s) = acceptFrame { op with plain := plain } (engineFree s) := by
    have exec : (engineFree s).port.exec = .unprotect op := hx
    simp only [endFrameUnprotect, exec, hs, if_true, unprotectEnd, cause]
  rw [accepted] at ended
  exact ended

/-- What an acceptance makes of the grace progress of the slots (R28). -/
theorem graceAccept_spec {i : Fin 32} {gen : Nat} (hs : u.slots = s.slots) (ht : JobsStay (graceAccept i gen u) t) :
    (∀ j, j ≠ i → (slotOf t j).graceProgress = (slotOf s j).graceProgress) ∧
    (phaseOf (slotOf s i) ≠ .overlap ∨ genNumber (slotOf s i) .current ≠ some gen →
      (slotOf t i).graceProgress = (slotOf s i).graceProgress) ∧
    ∀ c x, phaseOf (slotOf s i) = .overlap → genWith (slotOf s i) .current = some (c, x) → x.params.generation = gen →
      (x.params.graceCount ≤ (slotOf s i).graceProgress → (slotOf t i).graceProgress = (slotOf s i).graceProgress) ∧
      ((slotOf s i).graceProgress < x.params.graceCount →
        (slotOf t i).graceProgress = (slotOf s i).graceProgress + 1 ∧
        ((slotOf s i).graceProgress + 1 = x.params.graceCount → ∃ k, genNumber (slotOf s i) .overlap = some k ∧
          ((slotOf t i).ovlDue = some (k, .count) ∨ ∃ q ∈ liveJobs t, ∃ cause, q.job = .overlapEnd i k cause))) := by
  have image (j : Fin 32) : slotOf u j = slotOf s j := slotOf_of_slots hs j
  have told (j : Fin 32) : slotOf t j = slotOf (graceAccept i gen u) j := slotOf_of_slots ht.slots j
  simp only [← image, told]
  refine ⟨fun j hj => ?_, fun h => ?_, fun c x hp hx hg => ⟨fun h => ?_, fun h => ?_⟩⟩
  · by_cases raises : ∃ c x, genWith (slotOf u i) .current = some (c, x) ∧ phaseOf (slotOf u i) = .overlap ∧
        x.params.generation = gen ∧ (slotOf u i).graceProgress < x.params.graceCount
    · obtain ⟨c, x, hx, hp, rfl, hc⟩ := raises
      rw [(graceAccept_raises hp hx hc).marked.graceProgress, slotOf_setSlot_other hj]
    · rw [graceAccept_idle fun c x hx ⟨hp, hg, hc⟩ => raises ⟨c, x, hx, hp, hg, hc⟩]
  · rw [graceAccept_idle]
    rintro c x hx ⟨hp, rfl, -⟩
    exact h.elim (absurd hp) (absurd (genNumber_of_genWith hx))
  · rw [graceAccept_idle]
    rintro d y hy ⟨-, -, hc⟩
    rw [hx] at hy
    cases hy
    omega
  · subst hg
    have queues := graceAccept_raises hp hx h
    refine ⟨?_, fun count => ?_⟩
    · rw [queues.marked.graceProgress, slotOf_setSlot, graceProgress_graceRaised]
    · obtain ⟨k, hk⟩ := genNumber_of_overlap hp
      refine ⟨k, hk, ?_⟩
      have due : (slotOf (setSlot u i (graceRaised x (slotOf u i))) i).ovlDue = some (k, .count) := by
        rw [slotOf_setSlot, graceRaised, if_pos count, hk]
        rfl
      rcases queues.ovl i k .count (.inl due) with h | ⟨-, q, hq, cause, hj⟩
      · exact .inl h
      · obtain ⟨q', hq', hjq⟩ := ht.live q hq
        exact .inr ⟨q', hq', cause, hjq.trans hj⟩

/-- Settles O42: an acceptance by the branches of the rule, a completion by the job's effect on its slot. -/
theorem graceProgressCountsAcceptances : Obligations.GraceProgressCountsAcceptances := by
  unfold Obligations.GraceProgressCountsAcceptances
  refine ⟨?_, ?_⟩
  · intro who key nonce header cipher tag plain orphan op e s hrun hj hx hs he hw hp
    obtain ⟨u, hu, stay⟩ := acceptFrame_accepts { op with plain := plain } (engineFree s)
    exact ⟨_, exec_frameAccepted hrun hj hx hs he hw hp, graceAccept_spec hu (stay.trans (jobsStay_portSettle _))⟩
  · intro x w q s hrun hj hw ht
    refine ⟨_, exec_lastMatched hrun hj hw ht, ?_, ?_, ?_, ?_⟩
    · intro i gen g hq hg
      rw [graceProgress_completed (by rw [hq]; rfl), doneEffect, hq]
      exact graceProgress_doneActivate (s := lastWritten w s) hg
    · intro i b g f hq
      rw [graceProgress_completed (by rw [hq]; rfl), doneEffect, hq]
      exact graceProgress_doneStage i g f _ _
    · intro i gen cause g hq hg
      rw [graceProgress_completed (by rw [hq]; rfl), doneEffect, hq]
      exact graceProgress_doneOverlapEnd (s := lastWritten w s) hg
    · intro i unbind hq
      rw [graceProgress_completed (by rw [hq]; rfl), doneEffect, hq]
      change (slotOf (doneRevoke i unbind _) i).graceProgress = 0
      rw [slotOf_doneRevoke]
      rfl

end Sys2Proof.Machine
end

section
/-! PROOFS. What a tamper event does to bars, contexts and queue (R94, R130, R166, R167). -/

namespace Sys2Proof.Machine

variable {r s t u : State}

/-! ### Items and bars (R94, R163) -/

theorem mem_slotItems {i : Fin 32} {a : TamperAct} : (i, a) ∈ slotItems s ↔ slotAction (slotOf s i) = some a := by
  unfold slotItems
  rw [List.mem_filterMap]
  constructor
  · rintro ⟨j, -, hj⟩
    obtain ⟨b, hb, hab⟩ := Option.map_eq_some_iff.1 hj
    obtain ⟨rfl, rfl⟩ := Prod.ext_iff.1 hab
    exact hb
  · intro h
    exact ⟨i, List.mem_finRange i, by rw [h]; rfl⟩

theorem hasItem_iff {items : List (Fin 32 × TamperAct)} {i : Fin 32} {a : TamperAct} :
    hasItem items i a = true ↔ (i, a) ∈ items := by
  simp only [hasItem, List.any_eq_true, Bool.and_eq_true, beq_iff_eq]
  constructor
  · rintro ⟨x, hx, rfl, rfl⟩; exact hx
  · exact fun h => ⟨_, h, rfl, rfl⟩

/-- The bars as the items of a list set them. -/
def barred (items : List (Fin 32 × TamperAct)) (v : Vector (Option TamperAct) 32) : Vector (Option TamperAct) 32 :=
  items.foldl (fun v x => vset v x.1 (some x.2)) v

theorem barred_without {items : List (Fin 32 × TamperAct)} {v : Vector (Option TamperAct) 32} {i : Fin 32}
    (h : ∀ a, (i, a) ∉ items) : (barred items v)[i] = v[i] := by
  induction items generalizing v with
  | nil => rfl
  | cons x l ih =>
    have hx : i ≠ x.1 := fun e => h x.2 (by rw [e]; exact .head _)
    rw [barred, List.foldl_cons, ← barred, ih fun a ha => h a (.tail _ ha), vset_other _ _ _ _ hx]

/-- A slot with one action in the list takes it for its bar. -/
theorem barred_with {items : List (Fin 32 × TamperAct)} {v : Vector (Option TamperAct) 32} {i : Fin 32} {a : TamperAct}
    (one : ∀ b, (i, b) ∈ items → b = a) (h : (i, a) ∈ items ∨ v[i] = some a) : (barred items v)[i] = some a := by
  induction items generalizing v with
  | nil => exact h.resolve_left List.not_mem_nil
  | cons x l ih =>
    rw [barred, List.foldl_cons, ← barred]
    refine ih (fun b hb => one b (.tail _ hb)) ?_
    by_cases hx : x.1 = i
    · have act : x.2 = a := one x.2 (by rw [← hx]; exact .head _)
      exact .inr (by rw [hx, vset_self, act])
    · rcases h with h | h
      · rcases List.mem_cons.1 h with rfl | h
        · exact absurd rfl hx
        · exact .inl h
      · exact .inr (by rw [vset_other _ _ _ _ (Ne.symm hx), h])

/-! ### Contexts (R130, R131, R167) -/

/-- What an event does to one context: an open one fails with a status, a STORING one only with `work`, a verification in hand fails or
is dropped (R130, R131). -/
def endCtx (c : Code) (work : Bool) (s : State) (i : Fin 2) : State :=
  match (ctxOf s i).state with
  | .gathering => ctxFail i c s
  | .closed => ctxFail i c (leaveQueue i s)
  | .verifying => if dropping s then dropVerif s else failVerif c s
  | .storing => if work then failStoring i c s else s
  | .idle | .done | .failed => s

theorem tamperCtx_eq (s : State) (i : Fin 2) : tamperCtx s i = endCtx .tamper true s i := by
  unfold tamperCtx endCtx
  cases (ctxOf s i).state <;> rfl

theorem powerFailCtx_eq (s : State) (i : Fin 2) : powerFailCtx s i = endCtx .powerFail (hasWorkLeft s i) s i := by
  unfold powerFailCtx endCtx
  cases (ctxOf s i).state <;> rfl

/-- The context has failed with a status, and its notice is raised. -/
def FailedWith (c : Code) (s : State) (i : Fin 2) : Prop :=
  (ctxOf s i).state = .failed ∧ (ctxOf s i).result.map (·.outcome) = some c ∧
    NoticeKey.renewalFinished i ∈ s.notices.map noticeKey

/-- The event leaves the context as it is. -/
def Ended (work : Bool) (s : State) (i : Fin 2) : Prop :=
  ((ctxOf s i).state = .idle ∨ (ctxOf s i).state = .done ∨ (ctxOf s i).state = .failed) ∨
    (ctxOf s i).state = .storing ∧ work = false

/-- The event fails the context itself. -/
def Open (work : Bool) (s : State) (i : Fin 2) : Prop :=
  ((ctxOf s i).state = .gathering ∨ (ctxOf s i).state = .closed) ∨ (ctxOf s i).state = .storing ∧ work = true

/-- The verification in hand is that of a VERIFYING context. -/
def VerifiesVerifying (s : State) : Prop := ∀ v, s.renewal.verif = some v → (ctxOf s v.ctx).state = .verifying

theorem failedWith_ctxFail (c : Code) (i : Fin 2) (s : State) : FailedWith c (ctxFail i c s) i := by
  obtain ⟨failed, -, result⟩ := ctxOf_ctxFail i c s
  exact ⟨failed, by rw [result]; rfl, List.mem_map_of_mem (notices_ctxFail i c s)⟩

variable {c : Code} {w : Bool}

theorem endCtx_ended {i : Fin 2} (h : Ended w s i) : endCtx c w s i = s := by
  rcases h with (h | h | h) | ⟨h, rfl⟩ <;> simp only [endCtx, h]
  rfl

/-- An open context fails, and nothing else of the intake changes (R130, R131). -/
theorem endCtx_open {i : Fin 2} (h : Open w s i) : FailedWith c (endCtx c w s i) i ∧
    (∀ j, j ≠ i → ctxOf (endCtx c w s i) j = ctxOf s j) ∧ (endCtx c w s i).renewal.verif = s.renewal.verif := by
  rcases h with (h | h) | ⟨h, rfl⟩ <;> simp only [endCtx, h]
  · exact ⟨failedWith_ctxFail c i s, fun j hj => ctxOf_ctxFail_other hj, rfl⟩
  · exact ⟨failedWith_ctxFail c i _, fun j hj => ctxOf_ctxFail_other hj, rfl⟩
  · exact ⟨failedWith_ctxFail c i _, fun j hj => ctxOf_failStoring_other hj, rfl⟩

/-- A VERIFYING context has the verification in hand fail, or end without record where it is drop-pending (R130, R131). -/
theorem endCtx_verifying {i : Fin 2} (h : (ctxOf s i).state = .verifying) :
    endCtx c w s i = if dropping s then dropVerif s else failVerif c s := by
  simp only [endCtx, h]

theorem failVerif_eq {v : Verif} (h : s.renewal.verif = some v) (c : Code) : failVerif c s = ctxFail v.ctx c (endVerif s) := by
  simp only [failVerif, h]

theorem dropVerif_eq {v : Verif} (h : s.renewal.verif = some v) : dropVerif s = ctxIdle v.ctx (endVerif s) := by
  simp only [dropVerif, h]

theorem dropping_eq {v : Verif} (h : s.renewal.verif = some v) : dropping s = (ctxOf s v.ctx).dropPending := by
  simp only [dropping, h]

/-- What becomes of the context of a verification that the event ends. -/
def VerifEnded (c : Code) (s t : State) (v : Verif) : Prop :=
  ((ctxOf s v.ctx).dropPending = false → FailedWith c t v.ctx) ∧
  ((ctxOf s v.ctx).dropPending = true → ctxOf t v.ctx = .idle)

/-- The event at a VERIFYING context with a verification in hand: it ends, and no other context changes. -/
theorem endCtx_verif {i : Fin 2} {v : Verif} (h : (ctxOf s i).state = .verifying) (hv : s.renewal.verif = some v) :
    VerifEnded c s (endCtx c w s i) v ∧ (∀ j, j ≠ v.ctx → ctxOf (endCtx c w s i) j = ctxOf s j) ∧
      (endCtx c w s i).renewal.verif = none := by
  rw [endCtx_verifying h, dropping_eq hv]
  cases hd : (ctxOf s v.ctx).dropPending
  · rw [if_neg Bool.false_ne_true, failVerif_eq hv]
    refine ⟨⟨fun _ => failedWith_ctxFail _ _ _, fun h => ?_⟩, fun j hj => ?_, rfl⟩
    · rw [hd] at h; cases h
    · rw [ctxOf_ctxFail_other hj, ctxOf_endVerif]
  · rw [if_pos rfl, dropVerif_eq hv]
    refine ⟨⟨fun h => ?_, fun _ => ctxOf_setCtx⟩, fun j hj => ?_, rfl⟩
    · rw [hd] at h; cases h
    · rw [ctxIdle, ctxOf_setCtx_other hj, ctxOf_endVerif]

theorem endCtx_no_verif {i : Fin 2} (h : (ctxOf s i).state = .verifying) (hv : s.renewal.verif = none) :
    endCtx c w s i = s := by
  have drop : dropping s = false := by simp only [dropping, hv]
  have fail : failVerif c s = s := by simp only [failVerif, hv]
  rw [endCtx_verifying h, drop, fail]
  rfl

theorem ctx_cases (w : Bool) (s : State) (i : Fin 2) : Ended w s i ∨ Open w s i ∨ (ctxOf s i).state = .verifying := by
  unfold Ended Open
  cases (ctxOf s i).state <;> cases w <;> simp

/-- Open, ended and VERIFYING contexts are apart. -/
theorem Open.not_ended {i : Fin 2} (h : Open w s i) : ¬Ended w s i := by
  rcases h with (h | h) | ⟨h, rfl⟩ <;> simp [Ended, h]

theorem Open.not_verifying {i : Fin 2} (h : Open w s i) : (ctxOf s i).state ≠ .verifying := by
  rcases h with (h | h) | ⟨h, -⟩ <;> simp [h]

theorem Ended.not_verifying {i : Fin 2} (h : Ended w s i) : (ctxOf s i).state ≠ .verifying := by
  rcases h with (h | h | h) | ⟨h, -⟩ <;> simp [h]

theorem beside_endCtx (c : Code) (w : Bool) (s : State) (i : Fin 2) : Beside s (endCtx c w s i) := by
  unfold endCtx
  repeat' with_reducible first
    | exact beside_refl s | refine beside_ctxFail ?_ | refine beside_leaveQueue ?_ | refine beside_failStoring ?_
    | refine beside_failVerif ?_ | refine beside_dropVerif ?_ | split

/-- What the event at one context does, where a verification in hand is that of a VERIFYING context. -/
structure EndStep (c : Code) (w : Bool) (i : Fin 2) (s t : State) : Prop where
  verifying : VerifiesVerifying t
  ended : Ended w s i → ctxOf t i = ctxOf s i
  opened : Open w s i → FailedWith c t i
  other : ∀ j, j ≠ i → (ctxOf s j).state ≠ .verifying → ctxOf t j = ctxOf s j
  keys : ∀ k ∈ s.notices.map noticeKey, k ∈ t.notices.map noticeKey
  verif : ∀ v, s.renewal.verif = some v →
    t.renewal.verif = some v ∧ ctxOf t v.ctx = ctxOf s v.ctx ∨ t.renewal.verif = none ∧ VerifEnded c s t v
  none : s.renewal.verif = none → t.renewal.verif = none

theorem endStep_endCtx (c : Code) (w : Bool) (i : Fin 2) (h : VerifiesVerifying s) : EndStep c w i s (endCtx c w s i) := by
  have keys := (beside_endCtx c w s i).keys
  rcases ctx_cases w s i with hi | hi | hi
  · rw [endCtx_ended hi]
    exact ⟨h, fun _ => rfl, fun ho => absurd hi ho.not_ended, fun _ _ _ => rfl, fun _ => id, fun v hv => .inl ⟨hv, rfl⟩, id⟩
  · obtain ⟨failed, other, verif⟩ := endCtx_open (c := c) hi
    have notVerif (v : Verif) (hv : s.renewal.verif = some v) : v.ctx ≠ i := by
      rintro rfl
      exact hi.not_verifying (h v hv)
    refine ⟨fun v hv => ?_, fun he => absurd he hi.not_ended, fun _ => failed, fun j hj _ => other j hj, keys,
      fun v hv => .inl ⟨verif.trans hv, other _ (notVerif v hv)⟩, fun hv => verif.trans hv⟩
    rw [verif] at hv
    rw [other _ (notVerif v hv)]
    exact h v hv
  · have notOpen (ho : Open w s i) : FailedWith c (endCtx c w s i) i := absurd hi ho.not_verifying
    have notEnded (he : Ended w s i) : ctxOf (endCtx c w s i) i = ctxOf s i := absurd hi he.not_verifying
    cases hv : s.renewal.verif with
    | none =>
      rw [endCtx_no_verif hi hv] at notOpen notEnded ⊢
      exact ⟨h, notEnded, notOpen, fun _ _ _ => rfl, fun _ => id, fun v hv => .inl ⟨hv, rfl⟩, id⟩
    | some v =>
      obtain ⟨done, other, verif⟩ := endCtx_verif (c := c) (w := w) hi hv
      refine ⟨fun x hx => ?_, notEnded, notOpen, fun j _ hj => other j ?_, keys, fun x hx => ?_, fun _ => verif⟩
      · rw [verif] at hx; cases hx
      · rintro rfl
        exact hj (h v hv)
      · cases hv.symm.trans hx
        exact .inr ⟨verif, done⟩

/-- A context that is IDLE, DONE or FAILED stays so. -/
theorem EndStep.still {i j : Fin 2} (h : EndStep c w i s t)
    (hj : (ctxOf s j).state = .idle ∨ (ctxOf s j).state = .done ∨ (ctxOf s j).state = .failed) : ctxOf t j = ctxOf s j := by
  by_cases hji : j = i
  · subst hji
    exact h.ended (.inl hj)
  · exact h.other j hji (by rcases hj with hj | hj | hj <;> simp [hj])

theorem EndStep.failed {i j : Fin 2} (h : EndStep c w i s t) (hj : FailedWith c s j) : FailedWith c t j := by
  obtain ⟨state, result, key⟩ := hj
  have same := h.still (.inr (.inr state))
  exact ⟨by rw [same, state], by rw [same, result], h.keys _ key⟩

/-- A verification that has ended stays so. -/
theorem VerifEnded.step {v : Verif} {i : Fin 2} (h : VerifEnded c s t v) (k : EndStep c w i t u) : VerifEnded c s u v := by
  refine ⟨fun hd => k.failed (h.1 hd), fun hd => ?_⟩
  have idle := h.2 hd
  rw [k.still (.inl (by rw [idle]; rfl)), idle]

/-- What becomes of a context that the event meets by `work`. -/
def CtxMet (c : Code) (w : Bool) (s t : State) (i : Fin 2) : Prop :=
  (Open w s i → FailedWith c t i) ∧ (Ended w s i → ctxOf t i = ctxOf s i)

/-- What the event does to both contexts (R130, R131). -/
theorem endCtx_both (c : Code) (w w' : Bool) (h : VerifiesVerifying s) : let t := endCtx c w' (endCtx c w s 0) 1
    CtxMet c w s t 0 ∧ CtxMet c w' s t 1 ∧ (∀ v, s.renewal.verif = some v → VerifEnded c s t v) ∧
    t.renewal.verif = none := by
  intro t
  have first := endStep_endCtx c w 0 h
  have second := endStep_endCtx c w' 1 first.verifying
  have ends (v : Verif) (hv : s.renewal.verif = some v) : VerifEnded c s t v ∧ t.renewal.verif = none := by
    rcases first.verif v hv with ⟨verif, same⟩ | ⟨verif, ended⟩
    · have ctx : v.ctx = 1 := by
        by_contra hne
        have zero : v.ctx = 0 := by omega
        obtain ⟨-, -, none⟩ := endCtx_verif (c := c) (w := w) (i := 0) (zero ▸ h v hv) hv
        rw [none] at verif
        cases verif
      obtain ⟨ended, -, none⟩ := endCtx_verif (c := c) (w := w') (i := 1) (ctx ▸ first.verifying v verif) verif
      refine ⟨?_, none⟩
      rw [VerifEnded, same] at ended
      exact ended
    · exact ⟨ended.step second, second.none verif⟩
  have one (hv : (ctxOf s 1).state ≠ .verifying) : ctxOf (endCtx c w s 0) 1 = ctxOf s 1 := first.other 1 (by decide) hv
  refine ⟨⟨fun ho => second.failed (first.opened ho), fun he => ?_⟩, ⟨fun ho => second.opened ?_, fun he => ?_⟩,
    fun v hv => (ends v hv).1, ?_⟩
  · have same := first.ended he
    rw [second.other 0 (by decide) (by rw [same]; exact he.not_verifying), same]
  · rw [Open, one ho.not_verifying]
    exact ho
  · have same := one he.not_verifying
    rw [second.ended (by rw [Ended, same]; exact he), same]
  · cases hv : s.renewal.verif with
    | none => exact second.none (first.none hv)
    | some v => exact (ends v hv).2

theorem endCtx_bars (c : Code) (w : Bool) (s : State) (i : Fin 2) : (endCtx c w s i).cache.bars = s.cache.bars := by
  unfold endCtx
  repeat' split
  all_goals first
    | rfl | with_reducible exact (aside_failVerif _ s).bars | with_reducible exact (aside_dropVerif s).bars

end Sys2Proof.Machine
end

section
/-! PROOFS. The tamper event of the first comparison (R20, R21, R94, R130, R166, R167). -/

namespace Sys2Proof.Machine

variable {r s t u : State}

/-- The state as the list is handed over, the bars are set and the notice is raised, before the contexts. -/
def eventBarred (origin : Origin) (s : State) : State :=
  raise (tamperNotice origin (eventRecord origin s (slotItems s)) ((slotItems s).map (·.1)))
    (setBars (slotItems s) (handList (eventRecord origin s (slotItems s)) (slotItems s) s))

/-- Both contexts meet the event. -/
def tamperCtxs (s : State) : State := tamperCtx (tamperCtx s 0) 1

theorem tamperCtxs_eq (s : State) : tamperCtxs s = endCtx .tamper true (endCtx .tamper true s 0) 1 := by
  rw [tamperCtxs, tamperCtx_eq, tamperCtx_eq]

/-- The state as the contexts and the entries have met the event, before its void jobs go. -/
def eventMet (origin : Origin) (s : State) : State :=
  causes .suspended (fun i _ => hasItem (slotItems s) i .suspend)
    (causes .erased (fun i _ => hasItem (slotItems s) i .erase) (tamperCtxs (eventBarred origin s)))

theorem tamperEvent_eq (origin : Origin) (s : State) :
    tamperEvent origin s = voidJobs (slotItems s) (eventMet origin s) := rfl

theorem aside_eventMet (origin : Origin) (s : State) :
    Aside (tamperCtxs (eventBarred origin s)) (eventMet origin s) :=
  (aside_causes _ _ _).trans (aside_causes _ _ _)

theorem aside_eventEnd (origin : Origin) (s : State) :
    Aside (tamperCtxs (eventBarred origin s)) (tamperEvent origin s) := by
  rw [tamperEvent_eq]
  exact (aside_eventMet origin s).calm (calm_voidJobs (calm_refl _))

/-- The bars after the event are those that its items set (R94). -/
theorem tamperEvent_bars (origin : Origin) (s : State) :
    (tamperEvent origin s).cache.bars = barred (slotItems s) s.cache.bars := by
  rw [(aside_eventEnd origin s).bars, tamperCtxs_eq, endCtx_bars, endCtx_bars]
  rfl

theorem keys_eventEnd (origin : Origin) (s : State) :
    ∀ k ∈ (tamperCtxs (eventBarred origin s)).notices.map noticeKey,
      k ∈ (tamperEvent origin s).notices.map noticeKey := by
  have met : Beside (tamperCtxs (eventBarred origin s)) (eventMet origin s) := by
    unfold eventMet
    exact beside_causes (beside_causes (beside_refl _))
  rw [tamperEvent_eq]
  exact (beside_voidJobs met).keys

/-- The contexts after the event (R130). -/
theorem tamperEvent_ctxs (origin : Origin) (h : VerifiesVerifying s) :
    (∀ i, CtxMet .tamper true s (tamperEvent origin s) i) ∧
    (∀ v, s.renewal.verif = some v → VerifEnded .tamper s (tamperEvent origin s) v) ∧
    (tamperEvent origin s).renewal.verif = none := by
  have aside := aside_eventEnd origin s
  have both := endCtx_both .tamper true true (s := eventBarred origin s) h
  rw [← tamperCtxs_eq] at both
  obtain ⟨zero, one, verif, none⟩ := both
  have same (i : Fin 2) : ctxOf (tamperEvent origin s) i = ctxOf (tamperCtxs (eventBarred origin s)) i := by
    refine aside.ctxs i fun ⟨v, hv, _⟩ => ?_
    rw [none] at hv
    cases hv
  have still {i : Fin 2} (hi : FailedWith .tamper (tamperCtxs (eventBarred origin s)) i) :
      FailedWith .tamper (tamperEvent origin s) i := by
    obtain ⟨state, result, key⟩ := hi
    exact ⟨by rw [same, state], by rw [same, result], keys_eventEnd origin s _ key⟩
  have met {i : Fin 2} (hi : CtxMet .tamper true (eventBarred origin s) (tamperCtxs (eventBarred origin s)) i) :
      CtxMet .tamper true s (tamperEvent origin s) i :=
    ⟨fun ho => still (hi.1 ho), fun he => (same i).trans (hi.2 he)⟩
  refine ⟨fun i => ?_, fun v hv => ?_, ?_⟩
  · rcases (by omega : i = 0 ∨ i = 1) with rfl | rfl
    · exact met zero
    · exact met one
  · obtain ⟨fails, drops⟩ := verif v hv
    exact ⟨fun hd => still (fails hd), fun hd => (same _).trans (drops hd)⟩
  · exact aside.verif.elim (fun e => e.trans none) id

theorem portVoided_cases (s : State) : portVoided s = s ∨ portVoided s = finish .slotErased [] s := by
  unfold portVoided
  repeat' split
  all_goals first | exact .inl rfl | exact .inr rfl

theorem voidJobs_queue (items : List (Fin 32 × TamperAct)) (s : State) :
    (voidJobs items s).writer.queue = s.writer.queue.filter (fun q => !voided items q) ∨
    (voidJobs items s).writer.queue = (s.writer.queue.filter fun q => !voided items q).map unwaited := by
  unfold voidJobs
  dsimp only
  split
  · rcases portVoided_cases (setQueue (s.writer.queue.filter fun q => !voided items q) s) with h | h <;> rw [h]
    · exact .inl rfl
    · exact .inr rfl
  · exact .inl rfl

theorem voided_unwaited (items : List (Fin 32 × TamperAct)) (q : QJob) : voided items (unwaited q) = voided items q := rfl

/-- No job that the event makes void is left in the queue (R20, R21, R166). -/
theorem queue_voidJobs {items : List (Fin 32 × TamperAct)} {q : QJob} (h : q ∈ (voidJobs items s).writer.queue) :
    voided items q = false := by
  rcases voidJobs_queue items s with e | e <;> rw [e] at h
  · simpa using (List.mem_filter.1 h).2
  · obtain ⟨x, hx, rfl⟩ := List.mem_map.1 h
    rw [voided_unwaited]
    simpa using (List.mem_filter.1 hx).2

theorem structuralFor_slot {i : Fin 32} {j : StoreJob} (h : structuralFor i j = true) : jobSlot j = some i := by
  cases j <;> simp only [structuralFor, beq_iff_eq, Bool.false_eq_true] at h <;> rw [← h] <;> rfl

theorem voided_iff {items : List (Fin 32 × TamperAct)} {q : QJob} : voided items q = false ↔ q.ctx = none ∧
    (∀ i, jobSlot q.job = some i → (i, .erase) ∉ items) ∧ ∀ i, resumeSlot q.job = some i → (i, .suspend) ∉ items := by
  have slot (o : Option (Fin 32)) (a : TamperAct) : o.any (hasItem items · a) = false ↔ ∀ i, o = some i → (i, a) ∉ items := by
    cases o with
    | none => simp
    | some k =>
      have item := hasItem_iff (items := items) (i := k) (a := a)
      cases hk : hasItem items k a <;> rw [hk] at item <;> simp [hk, ← item]
  rw [voided, Bool.or_eq_false_iff, Bool.or_eq_false_iff, slot, slot, and_assoc]
  exact and_congr_left' (by cases q.ctx <;> simp)

/-- The state as the first comparison has found a mismatch. -/
def firstMismatch (s : State) : State := { s with monitor := { s.monitor with compared := true, matching := false } }

theorem exec_firstMismatch (hrun : running s = true) (hserve : servingOrHolding s = true) (hcmp : s.monitor.compared = false)
    (hsettled : ∀ i, inputGet s.monitor.arm i = none ∨ inputGet s.monitor.debounced i ≠ none)
    (hgroup : groupMatches s.monitor.arm s.monitor.debounced = false) (hmatch : s.monitor.matching = true) :
    exec .firstComparison s = .next (tamperEvent .load (firstMismatch s)) := by
  have settled : selectedSettled s.monitor.arm s.monitor.debounced = true := by
    rw [selectedSettled, inputsAll_iff]
    intro i
    rcases hsettled i with h | h
    · rw [h]; rfl
    · rw [Option.isSome_iff_ne_none.2 h, Bool.or_true]
  have first : canCompareFirst s = true := by
    rw [canCompareFirst, hrun, hserve, hcmp, settled]
    rfl
  change execFirstComparison s = _
  rw [execFirstComparison, if_pos first, compareNow, if_neg (by rw [hgroup]; nofun), if_pos hmatch]
  rfl

/-- Settles O30, by the parts of the event in order: bars, contexts, and what is left in the queue. -/
theorem tamperEventFailsContextsAndRemovesJobs : Obligations.TamperEventFailsContextsAndRemovesJobs := by
  unfold Obligations.TamperEventFailsContextsAndRemovesJobs
  intro s hrun hserve hcmp hsettled hgroup hmatch hverif
  obtain ⟨met, verif, none⟩ := tamperEvent_ctxs (s := firstMismatch s) .load hverif
  have left {q : QJob} (hq : q ∈ (tamperEvent .load (firstMismatch s)).writer.queue) := voided_iff.1 (queue_voidJobs hq)
  refine ⟨_, exec_firstMismatch hrun hserve hcmp hsettled hgroup hmatch, fun i a h => ?_, fun i h => ?_, fun i h => ?_, fun v hv hd => (verif v hv).2 hd,
    fun i h => (met i).2 (.inl h), none, fun q hq => ?_,
    fun i h => ?_⟩
  · rw [tamperEvent_bars]
    refine barred_with (fun b hb => ?_) (.inl h)
    exact Option.some.inj ((mem_slotItems.1 hb).symm.trans (mem_slotItems.1 h))
  · rw [tamperEvent_bars]
    exact barred_without h
  · rcases h with h | h | h | ⟨v, hv, rfl, hd⟩
    · exact (met i).1 (.inl (.inl h))
    · exact (met i).1 (.inl (.inr h))
    · exact (met i).1 (.inr ⟨h, rfl⟩)
    · exact (verif v hv).1 hd
  · obtain ⟨ctx, erase, suspend⟩ := left hq
    exact ⟨ctx, fun i hi => suspend i (by rw [hi]; rfl), erase⟩
  · rw [queuedStructural, List.length_eq_zero_iff, List.filter_eq_nil_iff]
    intro q hq hs
    obtain ⟨-, erase, -⟩ := left hq
    exact erase i (structuralFor_slot hs) h

end Sys2Proof.Machine
end

section
/-! PROOFS. The flush budget at the warning: the first queued HIGHWATER jobs and then dirty entries, at most four items (R182). -/

namespace Sys2Proof.Machine

variable {s t : State}

/-- In related lists every element of the second has one of the first that it is related to. -/
theorem source_of_forall₂ {α β : Type} {R : α → β → Prop} {l : List α} {m : List β} {y : β} (h : List.Forall₂ R l m)
    (hy : y ∈ m) : ∃ x ∈ l, R x y := by
  induction h with
  | nil => cases hy
  | cons hab _ ih =>
    rcases List.mem_cons.1 hy with rfl | hy
    · exact ⟨_, .head _, hab⟩
    · obtain ⟨x, hx, hxy⟩ := ih hy
      exact ⟨x, .tail _ hx, hxy⟩

/-! ### The queued HIGHWATER jobs -/

theorem selectHighs_items (k : Nat) (q : List QJob) : (selectHighs k q).1 = (q.filterMap itemOfJob).take k := by
  induction q generalizing k with
  | nil => cases k <;> rfl
  | cons j rest ih =>
    cases k with
    | zero => rfl
    | succ k =>
      rw [selectHighs, List.filterMap_cons]
      cases itemOfJob j with
      | none => exact ih (k + 1)
      | some it => exact congrArg (it :: ·) (ih k)

theorem selectHighs_left_mem {k : Nat} {q : List QJob} {x : QJob} (h : x ∈ (selectHighs k q).2) : x ∈ q := by
  induction q generalizing k with
  | nil => cases k <;> cases h
  | cons j rest ih =>
    cases k with
    | zero => exact h
    | succ k =>
      rw [selectHighs] at h
      cases hj : itemOfJob j with
      | none =>
        rw [hj] at h
        exact (List.mem_cons.1 h).elim (fun e => e ▸ .head _) fun h => .tail _ (ih h)
      | some it =>
        rw [hj] at h
        exact .tail _ (ih h)

/-- A job that is no HIGHWATER is left in the queue. -/
theorem mem_selectHighs_left {k : Nat} {q : List QJob} {x : QJob} (h : x ∈ q) (hx : itemOfJob x = none) :
    x ∈ (selectHighs k q).2 := by
  induction q generalizing k with
  | nil => cases h
  | cons j rest ih =>
    cases k with
    | zero => exact h
    | succ k =>
      rw [selectHighs]
      rcases List.mem_cons.1 h with rfl | h
      · rw [hx]; exact .head _
      · cases itemOfJob j with
        | none => exact .tail _ (ih h)
        | some it => exact ih h

/-- A job behind as many HIGHWATER jobs as the budget takes is left in the queue. -/
theorem mem_selectHighs_behind {k : Nat} {before after : List QJob} {x : QJob}
    (h : k ≤ (before.filterMap itemOfJob).length) : x ∈ (selectHighs k (before ++ x :: after)).2 := by
  induction before generalizing k with
  | nil =>
    obtain rfl : k = 0 := Nat.le_zero.1 h
    exact .head _
  | cons j rest ih =>
    cases k with
    | zero => exact List.mem_append_right _ (.head _)
    | succ k =>
      rw [List.cons_append, selectHighs]
      rw [List.filterMap_cons] at h
      cases hj : itemOfJob j with
      | none =>
        rw [hj] at h
        exact .tail _ (ih h)
      | some it =>
        rw [hj] at h
        exact ih (Nat.le_of_succ_le_succ h)

theorem itemOfJob_fromEntry {q : QJob} {it : FlushItem} (h : itemOfJob q = some it) : it.fromEntry = false := by
  unfold itemOfJob at h
  split at h <;> cases h
  rfl

/-! ### The dirty entries -/

/-- Where a flush item writes to. -/
def itemPlace (it : FlushItem) : Fin 32 × CellId × Nat := (it.slot, it.cell, it.gen)

/-- Where the flush item of an entry writes to. -/
def entryPlace (e : Entry) : Fin 32 × CellId × Nat := (e.slot, e.cell, e.gen)

/-- A flush item with a value that may have been raised. -/
structure Raised (it x : FlushItem) : Prop where
  place : itemPlace x = itemPlace it
  value : it.value ≤ x.value
  fromEntry : x.fromEntry = it.fromEntry

theorem raised_refl (it : FlushItem) : Raised it it := ⟨rfl, le_rfl, rfl⟩

theorem Raised.trans {a b c : FlushItem} (h : Raised a b) (k : Raised b c) : Raised a c :=
  ⟨k.place.trans h.place, h.value.trans k.value, k.fromEntry.trans h.fromEntry⟩

theorem forall₂_raised_trans {l m n : List FlushItem} (h : List.Forall₂ Raised l m) (k : List.Forall₂ Raised m n) :
    List.Forall₂ Raised l n := by
  induction h generalizing n with
  | nil => exact k
  | cons hab _ ih =>
    cases k with
    | cons hbc k => exact .cons (hab.trans hbc) (ih k)

theorem places_of_raised {l m : List FlushItem} (h : List.Forall₂ Raised l m) : m.map itemPlace = l.map itemPlace := by
  induction h with
  | nil => rfl
  | cons hab _ ih => rw [List.map_cons, List.map_cons, hab.place, ih]

/-- The entry's value is noted for the flush list. -/
def flushes (e : Entry) : Bool := e.dirty && e.withhold.isNone

/-- The item is that of the entry's slot and cell. -/
def sameCell (e : Entry) (it : FlushItem) : Bool := it.slot == e.slot && it.cell == e.cell

/-- The item with the value of an entry of its cell. -/
def raiseItem (e : Entry) (it : FlushItem) : FlushItem :=
  if sameCell e it then { it with value := max it.value e.h } else it

theorem raised_raiseItem (e : Entry) (it : FlushItem) : Raised it (raiseItem e it) := by
  unfold raiseItem
  split
  · exact ⟨rfl, le_max_left _ _, rfl⟩
  · exact raised_refl it

/-- What an entry does to the flush list: it raises the items of its cell, or takes a place, or finds none. -/
theorem addEntry_cases (e : Entry) (items : List FlushItem) :
    ((∃ it ∈ items, sameCell e it = true) ∧ (addEntry e items).1 = items.map (raiseItem e)) ∨
    (∀ it ∈ items, sameCell e it = false) ∧
      (items.length < 4 ∧ (addEntry e items).1 = items ++ [⟨e.slot, e.cell, e.gen, e.h, true⟩] ∨
        4 ≤ items.length ∧ (addEntry e items).1 = items) := by
  unfold addEntry
  split
  · rename_i h
    exact .inl ⟨List.any_eq_true.1 h, rfl⟩
  · rename_i h
    have none : ∀ it ∈ items, sameCell e it = false := fun it hit =>
      Bool.eq_false_iff.2 fun hs => h (List.any_eq_true.2 ⟨it, hit, hs⟩)
    split
    · rename_i hl
      exact .inr ⟨none, .inl ⟨hl, rfl⟩⟩
    · rename_i hl
      exact .inr ⟨none, .inr ⟨Nat.le_of_not_lt hl, rfl⟩⟩

theorem addEntries_cons_flushes {e : Entry} {rest : List Entry} {items : List FlushItem} (h : flushes e = true) :
    (addEntries (e :: rest) items).1 = (addEntries rest (addEntry e items).1).1 := by
  have h' : (e.dirty && e.withhold.isNone) = true := h
  rw [addEntries, if_pos h']

theorem addEntries_cons_stays {e : Entry} {rest : List Entry} {items : List FlushItem} (h : flushes e = false) :
    (addEntries (e :: rest) items).1 = (addEntries rest items).1 := by
  have h' : ¬(e.dirty && e.withhold.isNone) = true := by rw [← flushes, h]; nofun
  rw [addEntries, if_neg h']

/-- The flush list with entries added: the items that were there, perhaps raised, and at most as many new ones as there is room for, of
dirty entries in their order (R182). -/
theorem addEntries_items {es : List Entry} {items : List FlushItem} (h : items.length ≤ 4) :
    ∃ old new, (addEntries es items).1 = old ++ new ∧ List.Forall₂ Raised items old ∧ (old ++ new).length ≤ 4 ∧
      (new.map itemPlace).Sublist ((es.filter flushes).map entryPlace) := by
  induction es generalizing items with
  | nil =>
    exact ⟨items, [], by simp [addEntries], List.forall₂_same.2 fun it _ => raised_refl it, by simpa using h, .slnil⟩
  | cons e rest ih =>
    cases he : flushes e with
    | false =>
      rw [addEntries_cons_stays he, List.filter_cons_of_neg (by rw [he]; nofun)]
      exact ih h
    | true =>
      rw [addEntries_cons_flushes he, List.filter_cons_of_pos he, List.map_cons]
      rcases addEntry_cases e items with ⟨-, raise⟩ | ⟨-, ⟨hl, add⟩ | ⟨-, same⟩⟩
      · rw [raise]
        obtain ⟨old, new, out, raised, length, sub⟩ := ih (items := items.map (raiseItem e)) (by simpa using h)
        refine ⟨old, new, out, forall₂_raised_trans ?_ raised, length, sub.cons _⟩
        exact List.forall₂_map_right_iff.2 (List.forall₂_same.2 fun it _ => raised_raiseItem e it)
      · rw [add]
        obtain ⟨all, new, out, raised, length, sub⟩ :=
          ih (items := items ++ [⟨e.slot, e.cell, e.gen, e.h, true⟩]) (by simpa using hl)
        have hold := (List.forall₂_take_append all items _ raised.flip).flip
        have hlast := (List.forall₂_drop_append all items _ raised.flip).flip
        obtain ⟨x, hx, last⟩ : ∃ x, Raised ⟨e.slot, e.cell, e.gen, e.h, true⟩ x ∧ all.drop items.length = [x] := by
          cases hl : all.drop items.length with
          | nil => rw [hl] at hlast; cases hlast
          | cons x more =>
            rw [hl] at hlast
            cases hlast with
            | cons hx hmore => cases hmore; exact ⟨x, hx, rfl⟩
        have split : all ++ new = all.take items.length ++ x :: new := by
          have whole : all = all.take items.length ++ [x] := by rw [← last, List.take_append_drop]
          conv_lhs => rw [whole]
          rw [List.append_assoc]
          rfl
        refine ⟨all.take items.length, x :: new, out.trans split, hold, split ▸ length, ?_⟩
        have place : itemPlace x = entryPlace e := hx.place
        rw [List.map_cons, place]
        exact sub.cons_cons _
      · rw [same]
        obtain ⟨old, new, out, raised, length, sub⟩ := ih h
        exact ⟨old, new, out, raised, length, sub.cons _⟩

/-- An item in the flush list that covers an entry: its cell, at least its h, and made from no other entry. -/
def Covers (e : Entry) (it : FlushItem) : Prop :=
  sameCell e it = true ∧ e.h ≤ it.value ∧ (it.fromEntry = true → it.gen = e.gen)

theorem sameCell_place {e : Entry} {it x : FlushItem} (h : itemPlace x = itemPlace it) : sameCell e x = sameCell e it := by
  obtain ⟨hs, hc⟩ : x.slot = it.slot ∧ x.cell = it.cell := by
    simp only [itemPlace, Prod.mk.injEq] at h
    exact ⟨h.1, h.2.1⟩
  rw [sameCell, hs, hc, sameCell]

theorem Raised.gen {it x : FlushItem} (h : Raised it x) : x.gen = it.gen := congrArg (·.2.2) h.place

theorem Raised.covers {e : Entry} {it x : FlushItem} (h : Raised it x) (hc : Covers e it) : Covers e x := by
  obtain ⟨cell, value, gen⟩ := hc
  exact ⟨by rw [sameCell_place h.place, cell], value.trans h.value, fun hf => h.gen.trans (gen (h.fromEntry ▸ hf))⟩

theorem covers_of_raised {e : Entry} {items old : List FlushItem} (h : List.Forall₂ Raised items old)
    (hc : ∃ it ∈ items, Covers e it) : ∃ it ∈ old, Covers e it := by
  obtain ⟨it, hit, hc⟩ := hc
  induction h with
  | nil => cases hit
  | cons hab _ ih =>
    rcases List.mem_cons.1 hit with rfl | hit
    · exact ⟨_, .head _, hab.covers hc⟩
    · obtain ⟨x, hx, hxc⟩ := ih hit
      exact ⟨x, .tail _ hx, hxc⟩

/-- With four items held, none is added: the places stay. -/
theorem addEntries_full {es : List Entry} {items : List FlushItem} (h : items.length = 4) :
    List.Forall₂ Raised items (addEntries es items).1 := by
  obtain ⟨old, new, out, raised, length, -⟩ := addEntries_items (es := es) h.le
  have four : old.length = 4 := raised.length_eq ▸ h
  have none : new = [] := by
    rw [List.length_append] at length
    exact List.eq_nil_of_length_eq_zero (by omega)
  rw [out, none, List.append_nil]
  exact raised

/-- A dirty entry that no other one shares its cell with is covered by the flush list, unless the list is full without an item for its
cell (R182). -/
theorem addEntries_covers {es : List Entry} {items : List FlushItem} {e : Entry} (h : items.length ≤ 4) (he : e ∈ es)
    (hf : flushes e = true) (one : ∀ f ∈ es, f.slot = e.slot → f.cell = e.cell → flushes f = true → f = e)
    (own : ∀ it ∈ items, sameCell e it = true → it.fromEntry = true → it.gen = e.gen)
    (room : (addEntries es items).1.length < 4 ∨ ∃ it ∈ (addEntries es items).1, sameCell e it = true) :
    ∃ it ∈ (addEntries es items).1, Covers e it := by
  induction es generalizing items with
  | nil => cases he
  | cons f rest ih =>
    have later {items : List FlushItem} (h : items.length ≤ 4) (hc : ∃ it ∈ items, Covers e it) :
        ∃ it ∈ (addEntries rest items).1, Covers e it := by
      obtain ⟨old, new, out, raised, -, -⟩ := addEntries_items (es := rest) h
      obtain ⟨it, hit, hc⟩ := covers_of_raised raised hc
      exact ⟨it, out ▸ List.mem_append_left _ hit, hc⟩
    have one' : ∀ f ∈ rest, f.slot = e.slot → f.cell = e.cell → flushes f = true → f = e := fun f hr => one f (.tail _ hr)
    cases hff : flushes f with
    | false =>
      rw [addEntries_cons_stays hff] at room ⊢
      refine ih h ((List.mem_cons.1 he).resolve_left ?_) one' own room
      rintro rfl
      rw [hf] at hff
      cases hff
    | true =>
      rw [addEntries_cons_flushes hff] at room ⊢
      rcases addEntry_cases f items with ⟨⟨it, hit, cell⟩, raise⟩ | ⟨noItem, ⟨hl, add⟩ | ⟨hl, same⟩⟩
      · rw [raise] at room ⊢
        have length : (items.map (raiseItem f)).length ≤ 4 := by simpa using h
        rcases List.mem_cons.1 he with rfl | he
        · refine later length ⟨raiseItem e it, List.mem_map_of_mem hit, ?_⟩
          have raised := raised_raiseItem e it
          refine ⟨by rw [sameCell_place raised.place, cell], ?_, fun hfrom => ?_⟩
          · rw [raiseItem, if_pos cell]; exact le_max_right _ _
          · exact raised.gen.trans (own it hit cell (raised.fromEntry ▸ hfrom))
        · refine ih length he one' (fun x hx hcell hfrom => ?_) room
          obtain ⟨y, hy, rfl⟩ := List.mem_map.1 hx
          have raised := raised_raiseItem f y
          rw [sameCell_place raised.place] at hcell
          exact raised.gen.trans (own y hy hcell (raised.fromEntry ▸ hfrom))
      · rw [add] at room ⊢
        have length : (items ++ [⟨f.slot, f.cell, f.gen, f.h, true⟩] : List FlushItem).length ≤ 4 := by simpa using hl
        by_cases hfe : f = e
        · subst hfe
          refine later length ⟨_, List.mem_append_right _ (.head _), ?_⟩
          exact ⟨by simp [sameCell], le_rfl, fun _ => rfl⟩
        · refine ih length ((List.mem_cons.1 he).resolve_left (Ne.symm hfe)) one' (fun x hx hcell hfrom => ?_) room
          rcases List.mem_append.1 hx with hx | hx
          · exact own x hx hcell hfrom
          · obtain rfl := List.mem_singleton.1 hx
            simp only [sameCell, Bool.and_eq_true, beq_iff_eq] at hcell
            exact absurd (one f (.head _) hcell.1 hcell.2 hff) hfe
      · rw [same] at room ⊢
        by_cases hfe : f = e
        · subst hfe
          have raised := addEntries_full (es := rest) (Nat.le_antisymm h hl)
          rcases room with room | ⟨it, hit, hcell⟩
          · have length := raised.length_eq
            omega
          · obtain ⟨x, hx, hraised⟩ := source_of_forall₂ raised hit
            rw [sameCell_place hraised.place, noItem x hx] at hcell
            cases hcell
        · exact ih h ((List.mem_cons.1 he).resolve_left (Ne.symm hfe)) one' own room

/-! ### The entries -/

/-- An entry with other flags of its h. -/
def Reflagged (e x : Entry) : Prop := ∃ d f, x = { e with dirty := d, flushReq := f }

theorem reflagged_refl (e : Entry) : Reflagged e e := ⟨e.dirty, e.flushReq, rfl⟩

/-- The entries keep everything but the flags of h. -/
theorem addEntries_entries (es : List Entry) (items : List FlushItem) : List.Forall₂ Reflagged es (addEntries es items).2 := by
  induction es generalizing items with
  | nil => exact .nil
  | cons e rest ih =>
    unfold addEntries
    split
    · refine .cons ?_ (ih _)
      split
      · exact ⟨false, false, rfl⟩
      · exact reflagged_refl e
    · exact .cons (reflagged_refl e) (ih _)

theorem find?_reflagged {es xs : List Entry} (h : List.Forall₂ Reflagged es xs) {i : Fin 32} {g : Nat} {e : Entry}
    (he : es.find? (fun x => x.slot == i && x.gen == g) = some e) :
    ∃ x, xs.find? (fun x => x.slot == i && x.gen == g) = some x ∧ Reflagged e x := by
  induction h with
  | nil => cases he
  | @cons a b l m hab _ ih =>
    obtain ⟨d, f, rfl⟩ := hab
    rw [List.find?_cons] at he
    rw [List.find?_cons]
    dsimp only
    split at he
    · cases he
      exact ⟨_, rfl, d, f, rfl⟩
    · exact ih he

end Sys2Proof.Machine
end

section
/-! PROOFS. What the warning leaves of the entries, of the flush list and of the command in flight, as contexts fail and the queue is
dropped (R83, R131, R182, R202). -/

namespace Sys2Proof.Machine

variable {r s t u : State}

/-! ### Entries that go and flush items that settle -/

/-- The item's value is at least `v`, and so is the h of the entry that it is made from. -/
def Reaches (s : State) (v : Nat) (it : FlushItem) : Prop :=
  v ≤ it.value ∧ (it.fromEntry = true → ∀ x ∈ s.cache.entries, entryKey x = (it.slot, it.gen) → v ≤ x.h)

/-- Entries have gone or changed, none in its h; flush items have settled where their entries have gone (R182). -/
structure Thinned (s t : State) : Prop where
  entries : ∀ x ∈ t.cache.entries, ∃ y ∈ s.cache.entries, entryKey x = entryKey y ∧ x.h = y.h
  length : t.writer.flush.length = s.writer.flush.length
  items : ∀ (k : Nat) (it : FlushItem), s.writer.flush[k]? = some it →
    ∃ x : FlushItem, t.writer.flush[k]? = some x ∧ itemPlace x = itemPlace it ∧ ∀ v, Reaches s v it → Reaches t v x

theorem Thinned.trans (h : Thinned r s) (k : Thinned s t) : Thinned r t := by
  refine ⟨fun x hx => ?_, k.length.trans h.length, fun n it hit => ?_⟩
  · obtain ⟨y, hy, key, high⟩ := k.entries x hx
    obtain ⟨z, hz, key', high'⟩ := h.entries y hy
    exact ⟨z, hz, key.trans key', high.trans high'⟩
  · obtain ⟨x, hx, place, reach⟩ := h.items n it hit
    obtain ⟨y, hy, place', reach'⟩ := k.items n x hx
    exact ⟨y, hy, place'.trans place, fun v hv => reach' v (reach v hv)⟩

/-- The flush list stays, and the entries keep their keys and their h. -/
theorem thinned_of_flush (hf : t.writer.flush = s.writer.flush)
    (he : ∀ x ∈ t.cache.entries, ∃ y ∈ s.cache.entries, entryKey x = entryKey y ∧ x.h = y.h) : Thinned s t := by
  refine ⟨he, by rw [hf], fun n it hit => ⟨it, by rw [hf, hit], rfl, fun v ⟨hv, hx⟩ => ⟨hv, fun hfrom x hxt hk => ?_⟩⟩⟩
  obtain ⟨y, hy, key, high⟩ := he x hxt
  rw [high]
  exact hx hfrom y hy (key ▸ hk)

theorem thinned_of_eq (he : t.cache.entries = s.cache.entries) (hf : t.writer.flush = s.writer.flush) : Thinned s t :=
  thinned_of_flush hf fun x hx => ⟨x, he ▸ hx, rfl, rfl⟩

theorem thinned_refl (s : State) : Thinned s s := thinned_of_eq rfl rfl

theorem thinned_updEntry {i : Fin 32} {g : Nat} {f : Entry → Entry} (hf : ∀ e, entryKey (f e) = entryKey e ∧ (f e).h = e.h)
    (s : State) : Thinned s (updEntry i g f s) := by
  refine thinned_of_flush rfl fun x hx => ?_
  obtain ⟨y, hy, rfl⟩ := List.mem_map.1 hx
  refine ⟨y, hy, ?_⟩
  split
  · exact hf y
  · exact ⟨rfl, rfl⟩

/-- A flush item settles: it keeps its place, and its value does not fall below the h of its entry (R182). -/
theorem reaches_settle {es : List Entry} {it : FlushItem} {v : Nat}
    (he : ∀ x ∈ es, ∃ y ∈ s.cache.entries, entryKey x = entryKey y ∧ x.h = y.h) (h : Reaches s v it) :
    Reaches (withEntries es s) v (settleFlushItem s.cache.entries es it) := by
  obtain ⟨value, own⟩ := h
  unfold settleFlushItem
  split
  · rename_i gone
    have fromEntry : it.fromEntry = true := by simp_all
    split
    · rename_i y hy
      have key : entryKey y = (it.slot, it.gen) := by simpa [entryKey, Prod.ext_iff] using List.find?_some hy
      exact ⟨own fromEntry y (List.mem_of_find?_eq_some hy) key, nofun⟩
    · exact ⟨value, nofun⟩
  · refine ⟨value, fun hfrom x hx hk => ?_⟩
    obtain ⟨y, hy, key, high⟩ := he x hx
    rw [high]
    exact own hfrom y hy (key ▸ hk)

theorem itemPlace_settle (old es : List Entry) (it : FlushItem) : itemPlace (settleFlushItem old es it) = itemPlace it := by
  unfold settleFlushItem
  repeat' split
  all_goals rfl

theorem thinned_withEntries {es : List Entry}
    (he : ∀ x ∈ es, ∃ y ∈ s.cache.entries, entryKey x = entryKey y ∧ x.h = y.h) : Thinned s (withEntries es s) := by
  refine ⟨he, List.length_map _, fun n it hit => ⟨settleFlushItem s.cache.entries es it, ?_, itemPlace_settle _ _ it,
    fun v hv => reaches_settle he hv⟩⟩
  change (s.writer.flush.map (settleFlushItem s.cache.entries es))[n]? = _
  rw [List.getElem?_map, hit]
  rfl

theorem thinned_removeEntry (i : Fin 32) (g : Nat) (s : State) : Thinned s (removeEntry i g s) :=
  thinned_withEntries fun x hx => ⟨x, (List.mem_filter.1 hx).1, rfl, rfl⟩

/-- Releasing pins keeps the key and the h of the entries that stay. -/
theorem releaseEntry_key {q : Requester} {e x : Entry} (h : releaseEntry q e = some x) : entryKey x = entryKey e ∧ x.h = e.h := by
  unfold releaseEntry at h
  split at h
  · cases h; exact ⟨rfl, rfl⟩
  cases q <;> dsimp only at h <;> repeat' split at h
  all_goals cases h
  all_goals exact ⟨rfl, rfl⟩

theorem thinned_releasePins (q : Requester) (s : State) : Thinned s (releasePins q s) :=
  thinned_withEntries fun x hx => by
    obtain ⟨y, hy, h⟩ := List.mem_filterMap.1 hx
    exact ⟨y, hy, releaseEntry_key h⟩

/-! ### One entry -/

/-- A READY entry without a cause that an operation has kept: its role and h, as ACTIVE its next value; a clear reservation-pending
flag stays clear, a dirty entry dirty. -/
structure Carried (e x : Entry) : Prop where
  filling : x.filling = false
  withhold : x.withhold = none
  role : x.role = e.role
  h : x.h = e.h
  n : e.role = some .active → x.n = e.n
  resv : e.resvPending = false → x.resvPending = false
  dirty : e.dirty = true → x.dirty = true

theorem Carried.trans {a b c : Entry} (h : Carried a b) (k : Carried b c) : Carried a c :=
  ⟨k.filling, k.withhold, k.role.trans h.role, k.h.trans h.h, fun ha => (k.n (h.role.trans ha)).trans (h.n ha),
    fun hr => k.resv (h.resv hr), fun hd => k.dirty (h.dirty hd)⟩

/-- The READY entry of a slot and generation without a cause is kept. -/
def Carries (i : Fin 32) (g : Nat) (s t : State) : Prop :=
  ∀ e, findEntry s i g = some e → e.filling = false → e.withhold = none → ∃ x, findEntry t i g = some x ∧ Carried e x

theorem Carries.trans {i : Fin 32} {g : Nat} (h : Carries i g r s) (k : Carries i g s t) : Carries i g r t := by
  intro e he hf hw
  obtain ⟨x, hx, hex⟩ := h e he hf hw
  obtain ⟨y, hy, hxy⟩ := k x hx hex.filling hex.withhold
  exact ⟨y, hy, hex.trans hxy⟩

theorem carried_refl {e : Entry} (hf : e.filling = false) (hw : e.withhold = none) : Carried e e :=
  ⟨hf, hw, rfl, rfl, fun _ => rfl, id, id⟩

theorem carries_of_eq {i : Fin 32} {g : Nat} (h : t.cache.entries = s.cache.entries) : Carries i g s t :=
  fun e he hf hw => ⟨e, by rw [findEntry_congr h, he], carried_refl hf hw⟩

/-- What releasing pins makes of a READY entry without a cause (R83). -/
theorem carried_releaseEntry {q : Requester} {e : Entry} (hf : e.filling = false) (hw : e.withhold = none) :
    ∃ x, releaseEntry q e = some x ∧ Carried e x := by
  unfold releaseEntry
  split
  · exact ⟨e, rfl, carried_refl hf hw⟩
  · cases q with
    | renewal =>
      simp only [hf, hw]
      split <;> exact ⟨_, rfl, rfl, rfl, rfl, rfl, fun _ => rfl, id, id⟩
    | port =>
      by_cases hr : e.role = some .acceptOnly
      · simp only [hr, if_true, hf, hw]
        split <;> exact ⟨_, rfl, rfl, rfl, hr.symm, rfl, fun ha => absurd (hr.symm.trans ha) nofun, fun _ => rfl, id⟩
      · simp only [hr, if_false, hf, hw]
        split <;> exact ⟨_, rfl, rfl, rfl, rfl, rfl, fun _ => rfl, id, id⟩

/-- The entry found in a list that an operation maps, losing some entries but none of the one looked for. -/
theorem find?_filterMap_key {es : List Entry} {f : Entry → Option Entry} {i : Fin 32} {g : Nat} {e x : Entry}
    (hf : ∀ a b, f a = some b → entryKey b = entryKey a)
    (he : es.find? (fun x => x.slot == i && x.gen == g) = some e) (hx : f e = some x) :
    (es.filterMap f).find? (fun x => x.slot == i && x.gen == g) = some x := by
  have test {a b : Entry} (h : entryKey b = entryKey a) : (b.slot == i && b.gen == g) = (a.slot == i && a.gen == g) := by
    obtain ⟨hs, hg⟩ := Prod.ext_iff.1 h
    simp only [entryKey] at hs hg
    rw [hs, hg]
  induction es with
  | nil => cases he
  | cons a l ih =>
    rw [List.find?_cons] at he
    split at he
    · rename_i hk
      cases he
      rw [List.filterMap_cons_some hx, List.find?_cons_of_pos]
      rw [test (hf _ _ hx), hk]
    · rename_i hk
      cases hb : f a with
      | none => rw [List.filterMap_cons_none hb]; exact ih he
      | some b =>
        rw [List.filterMap_cons_some hb, List.find?_cons_of_neg]
        · exact ih he
        · rw [test (hf _ _ hb), hk]; nofun

theorem carries_releasePins (q : Requester) (i : Fin 32) (g : Nat) (s : State) : Carries i g s (releasePins q s) := by
  intro e he hf hw
  obtain ⟨x, hx, hex⟩ := carried_releaseEntry (q := q) hf hw
  exact ⟨x, find?_filterMap_key (fun a b h => (releaseEntry_key h).1) he hx, hex⟩

/-- Another entry goes. -/
theorem findEntry_removeEntry_other {i j : Fin 32} {g k : Nat} {e : Entry} (h : ¬(i = j ∧ g = k))
    (he : findEntry s i g = some e) : findEntry (removeEntry j k s) i g = some e := by
  obtain ⟨slot, gen⟩ := findEntry_key he
  have keeps : (!isEntry j k e) = true := by
    simp only [isEntry, slot, gen, Bool.not_eq_true', Bool.and_eq_false_iff, beq_eq_false_iff_ne]
    tauto
  have found := find?_filterMap_key (f := Option.guard fun x => !isEntry j k x) (x := e) (fun a b hab => ?_) he ?_
  · rwa [List.filterMap_eq_filter] at found
  · rw [(Option.guard_eq_some_iff.1 hab).1]
  · exact Option.guard_eq_some_iff.2 ⟨rfl, keeps⟩

theorem carries_removeEntry {i j : Fin 32} {g k : Nat} (h : ¬(i = j ∧ g = k)) (s : State) :
    Carries i g s (removeEntry j k s) := fun e he hf hw => ⟨e, findEntry_removeEntry_other h he, carried_refl hf hw⟩

end Sys2Proof.Machine
end

section
/-! PROOFS. Contexts that fail at the warning, and the queue that is dropped: what each leaves (R131, R182, Table 9-4). -/

namespace Sys2Proof.Machine

variable {r s t u : State}

/-! ### The task in hand and the contexts (R131) -/

/-- The task in hand is a job of the context. -/
def handOf (s : State) (i : Fin 2) : Bool := (taskJobs s.writer.job).any fun q => q.ctx == some i

/-- The task in hand is a job that the Port Executor waits on. -/
def handOfPort (s : State) : Bool := (taskJobs s.writer.job).any (·.port)

theorem activateInHand_eq (s : State) : activateInHand s = handOfPort s := by
  unfold activateInHand handOfPort taskJobs
  rcases s.writer.job with _ | ⟨task, _, _, _, _, _⟩
  · rfl
  · cases task <;> simp

theorem hasWorkLeft_eq (s : State) (i : Fin 2) : hasWorkLeft s i =
    if handOf s i then decide (1 < (ctxOf s i).jobs.length) else decide (0 < (ctxOf s i).jobs.length) := by
  unfold hasWorkLeft handOf taskJobs
  dsimp only
  rcases s.writer.job with _ | ⟨task, _, _, _, _, _⟩
  · rfl
  · cases task <;> simp

theorem mem_taskJobs {x : Option Running} {q : QJob} : q ∈ taskJobs x ↔ ∃ r, x = some r ∧ r.task = .queued q := by
  unfold taskJobs
  split
  · rename_i p _ _ _ _ _
    simp only [List.mem_singleton, Option.some.injEq, exists_eq_left']
    constructor
    · rintro rfl; rfl
    · intro h; injection h with h; exact h.symm
  · rename_i h
    simp only [List.not_mem_nil, false_iff, not_exists, not_and]
    rintro ⟨task, writes, retried, hour, stale, both⟩ rfl ht
    exact h q writes retried hour stale both (by rw [← ht])

theorem handOf_iff {i : Fin 2} : handOf s i = true ↔ ∃ r q, s.writer.job = some r ∧ r.task = .queued q ∧ q.ctx = some i := by
  simp only [handOf, List.any_eq_true, beq_iff_eq, mem_taskJobs]
  constructor
  · rintro ⟨q, ⟨r, hr, hq⟩, hc⟩; exact ⟨r, q, hr, hq, hc⟩
  · rintro ⟨r, q, hr, hq, hc⟩; exact ⟨q, ⟨r, hr, hq⟩, hc⟩

theorem handOfPort_iff : handOfPort s = true ↔ ∃ r q, s.writer.job = some r ∧ r.task = .queued q ∧ q.port = true := by
  simp only [handOfPort, List.any_eq_true, mem_taskJobs]
  constructor
  · rintro ⟨q, ⟨r, hr, hq⟩, hc⟩; exact ⟨r, q, hr, hq, hc⟩
  · rintro ⟨r, q, hr, hq, hc⟩; exact ⟨q, ⟨r, hr, hq⟩, hc⟩

/-- What the failure of a context leaves: slots, port, strip mark, waits of the Port Executor, the jobs of no context, and READY
entries without a cause, where no fill of theirs waits on the Renewal Engine's line. -/
structure CtxFrame (s t : State) : Prop where
  slots : t.slots = s.slots
  port : t.port = s.port
  strip : t.writer.stripPending = s.writer.stripPending
  waits : t.cache.waits.any (·.port) = s.cache.waits.any (·.port)
  handPort : handOfPort t = handOfPort s
  line : t.engine.renewalLine = s.engine.renewalLine ∨ t.engine.renewalLine = none
  stay : ∀ q ∈ s.writer.queue, q.ctx = none → q ∈ t.writer.queue
  old : ∀ q ∈ t.writer.queue, q ∈ s.writer.queue
  thinned : Thinned s t
  carries : ∀ i g, (∀ c, s.engine.renewalLine ≠ some (.fill i c g)) → Carries i g s t

theorem CtxFrame.trans (h : CtxFrame r s) (k : CtxFrame s t) : CtxFrame r t := by
  refine ⟨k.slots.trans h.slots, k.port.trans h.port, k.strip.trans h.strip, k.waits.trans h.waits,
    k.handPort.trans h.handPort, ?_, fun q hq hc => k.stay q (h.stay q hq hc) hc, fun q hq => h.old q (k.old q hq),
    h.thinned.trans k.thinned, fun i g hl => (h.carries i g hl).trans (k.carries i g ?_)⟩
  · rcases k.line with e | e
    · rw [e]; exact h.line
    · exact .inr e
  · rcases h.line with e | e <;> rw [e]
    · exact hl
    · nofun

theorem ctxFrame_refl (s : State) : CtxFrame s s :=
  ⟨rfl, rfl, rfl, rfl, rfl, .inl rfl, fun _ h _ => h, fun _ => id, thinned_refl s, fun _ _ _ => carries_of_eq rfl⟩

/-- A change of contexts and notices alone. -/
theorem ctxFrame_renewal (v : Renewal) (ns : List Notice) (s : State) :
    CtxFrame s { s with renewal := v, notices := ns } :=
  ⟨rfl, rfl, rfl, rfl, rfl, .inl rfl, fun _ h _ => h, fun _ => id, thinned_of_eq rfl rfl, fun _ _ _ => carries_of_eq rfl⟩

theorem ctxFrame_ctxFail (i : Fin 2) (c : Code) (s : State) : CtxFrame s (ctxFail i c s) := ctxFrame_renewal _ _ s

theorem taskJobs_unlink (i : Fin 2) (x : Option Running) :
    taskJobs (x.map fun r => { r with task := unlinkTask i r.task }) = (taskJobs x).map (unlinkJob i) := by
  cases x with
  | none => rfl
  | some r =>
    obtain ⟨task, _, _, _, _, _⟩ := r
    cases task <;> rfl

theorem unlinkJob_port (i : Fin 2) (q : QJob) : (unlinkJob i q).port = q.port := by
  unfold unlinkJob
  split <;> rfl

theorem any_unlink_port (i : Fin 2) (l : List QJob) : (l.map (unlinkJob i)).any (·.port) = l.any (·.port) := by
  rw [List.any_map]
  exact congrArg l.any (funext (unlinkJob_port i))

theorem ctxFrame_failStoring (i : Fin 2) (c : Code) (s : State) : CtxFrame s (failStoring i c s) := by
  obtain ⟨v, ns, h⟩ := failStoring_parts i c s
  rw [h]
  refine ⟨rfl, rfl, rfl, rfl, ?_, .inl rfl, fun q hq hc => ?_, fun q hq => (List.mem_filter.1 hq).1, thinned_of_eq rfl rfl,
    fun _ _ _ => carries_of_eq rfl⟩
  · simp only [handOfPort, taskJobs_unlink, any_unlink_port]
  · exact List.mem_filter.2 ⟨hq, by rw [hc]; rfl⟩

theorem ctxFrame_setLine (q : Requester) (j : Option EngineJob) (s : State)
    (h : (setLine q j s).engine.renewalLine = s.engine.renewalLine ∨ (setLine q j s).engine.renewalLine = none) :
    CtxFrame s (setLine q j s) := by
  cases q <;>
    exact ⟨rfl, rfl, rfl, rfl, rfl, h, fun _ h _ => h, fun _ => id, thinned_of_eq rfl rfl, fun _ _ _ => carries_of_eq rfl⟩

/-- The Renewal Engine withdraws its request: of the entries, a FILLING one that only it waits for may go (R99). -/
theorem ctxFrame_withdrawRenewal (s : State) : CtxFrame s (withdrawRenewal s) := by
  unfold withdrawRenewal
  split
  · exact ctxFrame_refl s
  · rename_i i c g hl
    have cleared : CtxFrame s (setLine .renewal none s) := ctxFrame_setLine .renewal none s (.inr rfl)
    unfold withdrawFill
    split
    · exact cleared
    · split
      · exact cleared.trans (ctxFrame_setLine .port _ _ (.inl rfl))
      · refine ⟨rfl, rfl, rfl, rfl, rfl, .inr rfl, fun _ h _ => h, fun _ => id,
          cleared.thinned.trans (thinned_removeEntry i g _), fun j k hjk => ?_⟩
        refine (cleared.carries j k hjk).trans (carries_removeEntry ?_ _)
        rintro ⟨rfl, rfl⟩
        exact hjk c hl
  · exact ctxFrame_setLine .renewal none s (.inr rfl)

theorem ctxFrame_orphanRenewal (s : State) : CtxFrame s (orphanRenewal s) := by
  unfold orphanRenewal
  repeat' split
  all_goals
    exact ⟨rfl, rfl, rfl, rfl, rfl, .inl rfl, fun _ h _ => h, fun _ => id, thinned_of_eq rfl rfl,
      fun _ _ _ => carries_of_eq rfl⟩

theorem ctxFrame_leaveWaits (s : State) : CtxFrame s (leaveWaits s) := by
  refine ⟨rfl, rfl, rfl, ?_, rfl, .inl rfl, fun _ h _ => h, fun _ => id, thinned_of_eq rfl rfl,
    fun _ _ _ => carries_of_eq rfl⟩
  change (((s.cache.waits.filter (·.port)).map fun w => { w with renewal := false, line := .port }).any fun w => w.port) = _
  rw [List.any_map, List.any_filter]
  exact congrArg s.cache.waits.any (funext fun w => Bool.and_self _)

theorem ctxFrame_releasePins (q : Requester) (s : State) : CtxFrame s (releasePins q s) :=
  ⟨rfl, rfl, rfl, rfl, rfl, .inl rfl, fun _ h _ => h, fun _ => id, thinned_releasePins q s,
    fun i g _ => carries_releasePins q i g s⟩

theorem ctxFrame_endVerif (s : State) : CtxFrame s (endVerif s) := by
  have released : CtxFrame s (verifReleased s) :=
    (((ctxFrame_withdrawRenewal s).trans (ctxFrame_orphanRenewal _)).trans (ctxFrame_leaveWaits _)).trans
      (ctxFrame_releasePins .renewal _)
  rw [endVerif_eq]
  exact released.trans (ctxFrame_renewal _ _ _)

theorem ctxFrame_endCtx (c : Code) (w : Bool) (s : State) (i : Fin 2) : CtxFrame s (endCtx c w s i) := by
  unfold endCtx
  split
  · exact ctxFrame_ctxFail i c s
  · exact (ctxFrame_renewal _ _ s).trans (ctxFrame_ctxFail i c _)
  · split
    · unfold dropVerif
      split
      · exact ctxFrame_refl s
      · exact (ctxFrame_endVerif s).trans (ctxFrame_renewal _ _ _)
    · unfold failVerif
      split
      · exact ctxFrame_refl s
      · exact (ctxFrame_endVerif s).trans (ctxFrame_ctxFail _ c _)
  · split
    · exact ctxFrame_failStoring i c s
    · exact ctxFrame_refl s
  · exact ctxFrame_refl s
  · exact ctxFrame_refl s
  · exact ctxFrame_refl s

theorem job_withdrawRenewal (s : State) : (withdrawRenewal s).writer.job = s.writer.job := by
  unfold withdrawRenewal withdrawFill
  repeat' split
  all_goals rfl

theorem job_orphanRenewal (s : State) : (orphanRenewal s).writer.job = s.writer.job := by
  unfold orphanRenewal
  repeat' split
  all_goals rfl

theorem job_endVerif (s : State) : (endVerif s).writer.job = s.writer.job := by
  have released : (endVerif s).writer.job = (orphanRenewal (withdrawRenewal s)).writer.job := rfl
  rw [released, job_orphanRenewal, job_withdrawRenewal]

/-- An event at one context leaves the other's job in hand. -/
theorem handOf_endCtx {c : Code} {w : Bool} {i j : Fin 2} (h : j ≠ i) : handOf (endCtx c w s i) j = handOf s j := by
  have unlinked (l : List QJob) : ((l.map (unlinkJob i)).any fun q => q.ctx == some j) = l.any fun q => q.ctx == some j := by
    rw [List.any_map]
    refine congrArg l.any (funext fun q => ?_)
    simp only [Function.comp, unlinkJob]
    split
    · rename_i hq
      rw [hq]
      exact (beq_eq_false_iff_ne.2 fun e => h (Option.some.inj e).symm).symm
    · rfl
  unfold endCtx
  split
  · rfl
  · rfl
  · split
    · unfold dropVerif
      split
      · rfl
      · exact congrArg (fun x => (taskJobs x).any fun q => q.ctx == some j) (job_endVerif s)
    · unfold failVerif
      split
      · rfl
      · exact congrArg (fun x => (taskJobs x).any fun q => q.ctx == some j) (job_endVerif s)
  · split
    · obtain ⟨v, ns, h⟩ := failStoring_parts i c s
      rw [h]
      simp only [handOf, taskJobs_unlink, unlinked]
    · rfl
  all_goals rfl

end Sys2Proof.Machine
end

section
/-! PROOFS. The queue that the warning drops, job by job (R182, Table 9-4). -/

namespace Sys2Proof.Machine

variable {r s t u : State} {img : SlotImg}

/-! ### The slots -/

/-- The image of a slot as one of its jobs is dropped: its due or repair mark is set again (Table 9-4). -/
def redue (q : QJob) (img : SlotImg) : SlotImg :=
  match q.job with
  | .activate _ gen =>
    if q.port || q.ctx.isSome || genNumber img .staged != some gen then img
    else settleMarks { img with actDue := some gen }
  | .overlapEnd _ gen cause =>
    if genNumber img .overlap != some gen then img else settleMarks { img with ovlDue := some (gen, cause) }
  | .cellRepair _ .a => { img with repairA := true }
  | .cellRepair _ .b => { img with repairB := true }
  | .floorRepair _ => { img with repairFloor := true }
  | _ => img

theorem slotOf_dropAtWarning (s : State) (q : QJob) (i : Fin 32) :
    slotOf (dropAtWarning s q) i = if jobSlot q.job = some i then redue q (slotOf s i) else slotOf s i := by
  have set {j : Fin 32} {x : SlotImg} : slotOf (setSlot s j x) i = if j = i then x else slotOf s i := by
    split
    · rename_i h; rw [h, slotOf_setSlot]
    · rename_i h; rw [slotOf_setSlot_other (Ne.symm h)]
  obtain ⟨job, ctx, port, hold⟩ := q
  unfold dropAtWarning redue
  cases job
  case activate slot gen =>
    simp only [jobSlot, Option.some.injEq]
    by_cases h : slot = i
    · subst h
      simp only [if_true]
      split
      · rfl
      · rw [slotOf_updSlot]
    · rw [if_neg h]
      split
      · rfl
      · rw [updSlot, set, if_neg h]
  case overlapEnd slot gen cause =>
    simp only [jobSlot, Option.some.injEq]
    by_cases h : slot = i
    · subst h
      simp only [if_true]
      split
      · rfl
      · rw [slotOf_updSlot]
    · rw [if_neg h]
      split
      · rfl
      · rw [updSlot, set, if_neg h]
  case cellRepair slot c =>
    simp only [jobSlot, Option.some.injEq]
    cases c <;> simp only [set] <;> split <;> first | rfl | (rename_i h; rw [h])
  case floorRepair slot =>
    simp only [jobSlot, Option.some.injEq, set]
    split
    · rename_i h; rw [h]
    · rfl
  all_goals exact (ite_self _).symm

/-- A settled mark stands where its generation has the role. -/
theorem actDue_settleMarks {g : Nat} (h : genNumber img .staged = some g) (hm : img.actDue = some g) :
    (settleMarks img).actDue = some g := by
  simp [settleMarks, h, hm]

theorem ovlDue_settleMarks {g : Nat} {cause : OvlCause} (h : genNumber img .overlap = some g)
    (hm : img.ovlDue = some (g, cause)) : (settleMarks img).ovlDue = some (g, cause) := by
  simp [settleMarks, h, hm]

theorem redue_actDue {g : Nat} (q : QJob) (h : genNumber img .staged = some g) (hm : img.actDue = some g) :
    (redue q img).actDue = some g := by
  have cells {jmg : SlotImg} (hc : ∀ c, cellOf jmg c = cellOf img c) : genNumber jmg .staged = some g := by
    rw [genNumber_of_cells hc, h]
  unfold redue
  split
  · rename_i slot gen _
    split
    · exact hm
    · rename_i hg
      have same : gen = g := by simp_all
      exact actDue_settleMarks (cells fun c => by cases c <;> rfl) (congrArg some same)
  · split
    · exact hm
    · exact actDue_settleMarks (cells fun c => by cases c <;> rfl) hm
  all_goals exact hm

theorem redue_ovlDue {g : Nat} {cause : OvlCause} (q : QJob) (h : genNumber img .overlap = some g)
    (hm : img.ovlDue = some (g, cause)) : (redue q img).ovlDue = some (g, cause) ∨
      ∃ slot cause', q.job = .overlapEnd slot g cause' ∧ (redue q img).ovlDue = some (g, cause') := by
  have cells {jmg : SlotImg} (hc : ∀ c, cellOf jmg c = cellOf img c) : genNumber jmg .overlap = some g := by
    rw [genNumber_of_cells hc, h]
  unfold redue
  split
  · split
    · exact .inl hm
    · exact .inl (ovlDue_settleMarks (cells fun c => by cases c <;> rfl) hm)
  · rename_i slot gen cause' hj
    split
    · exact .inl hm
    · rename_i hg
      obtain rfl : gen = g := by simp_all
      exact .inr ⟨slot, cause', hj, ovlDue_settleMarks (cells fun c => by cases c <;> rfl) rfl⟩
  all_goals exact .inl hm

theorem redue_repair {c : CellId} (q : QJob) (h : repairOf img c = true) : repairOf (redue q img) c = true := by
  unfold redue
  repeat' split
  all_goals cases c <;> first | exact h | rfl

theorem redue_repairFloor (q : QJob) (h : img.repairFloor = true) : (redue q img).repairFloor = true := by
  unfold redue
  repeat' split
  all_goals first | exact h | rfl

/-! ### The rest -/

theorem carries_updEntry {i j : Fin 32} {g k : Nat} {f : Entry → Entry} (hk : ∀ e, (f e).slot = e.slot ∧ (f e).gen = e.gen)
    (hc : ∀ e, e.filling = false → e.withhold = none → Carried e (f e)) (s : State) : Carries i g s (updEntry j k f s) := by
  intro e he hf hw
  by_cases h : i ≠ j ∨ g ≠ k
  · exact ⟨e, by rw [findEntry_updEntry_other hk h, he], carried_refl hf hw⟩
  · obtain ⟨rfl, rfl⟩ : i = j ∧ g = k := by tauto
    exact ⟨f e, by rw [findEntry_updEntry hk, he]; rfl, hc e hf hw⟩

theorem carried_pending {e : Entry} (hf : e.filling = false) (hw : e.withhold = none) :
    Carried e { e with resvPending := false } := ⟨hf, hw, rfl, rfl, fun _ => rfl, fun _ => rfl, id⟩

theorem carried_dirty {e : Entry} (hf : e.filling = false) (hw : e.withhold = none) :
    Carried e { e with dirty := true } := ⟨hf, hw, rfl, rfl, fun _ => rfl, id, fun _ => rfl⟩

/-- An entry as a HIGHWATER beyond the budget leaves it: dirty where its h is above the stored high-water. -/
def redirty (high : Nat) (e : Entry) : Entry := if high < e.h then { e with dirty := true } else e

theorem redirty_keys (high : Nat) (e : Entry) : (redirty high e).slot = e.slot ∧ (redirty high e).gen = e.gen := by
  unfold redirty
  split <;> exact ⟨rfl, rfl⟩

theorem carried_redirty (high : Nat) {e : Entry} (hf : e.filling = false) (hw : e.withhold = none) :
    Carried e (redirty high e) := by
  unfold redirty
  split
  · exact carried_dirty hf hw
  · exact carried_refl hf hw

/-- What a dropped job leaves. -/
structure DropFrame (s t : State) : Prop where
  port : t.port = s.port
  renewal : t.renewal = s.renewal
  waits : t.cache.waits = s.cache.waits
  job : t.writer.job = s.writer.job
  queue : t.writer.queue = s.writer.queue
  cells : ∀ i c, cellOf (slotOf t i) c = cellOf (slotOf s i) c
  thinned : Thinned s t
  carries : ∀ i g, Carries i g s t

theorem dropFrame_refl (s : State) : DropFrame s s :=
  ⟨rfl, rfl, rfl, rfl, rfl, fun _ _ => rfl, thinned_refl s, fun _ _ => carries_of_eq rfl⟩

theorem DropFrame.trans (h : DropFrame r s) (k : DropFrame s t) : DropFrame r t :=
  ⟨k.port.trans h.port, k.renewal.trans h.renewal, k.waits.trans h.waits, k.job.trans h.job, k.queue.trans h.queue,
    fun i c => (k.cells i c).trans (h.cells i c), h.thinned.trans k.thinned,
    fun i g => (h.carries i g).trans (k.carries i g)⟩

theorem dropFrame_updEntry {i : Fin 32} {g : Nat} {f : Entry → Entry} (hk : ∀ e, (f e).slot = e.slot ∧ (f e).gen = e.gen)
    (hh : ∀ e, (f e).h = e.h) (hc : ∀ e, e.filling = false → e.withhold = none → Carried e (f e)) (s : State) :
    DropFrame s (updEntry i g f s) :=
  ⟨rfl, rfl, rfl, rfl, rfl, fun _ _ => rfl, thinned_updEntry (fun e => ⟨Prod.ext (hk e).1 (hk e).2, hh e⟩) s,
    fun _ _ => carries_updEntry hk hc s⟩

theorem dropFrame_slot {i : Fin 32} {x : SlotImg} (h : ∀ c, cellOf x c = cellOf (slotOf s i) c) :
    DropFrame s (setSlot s i x) := by
  refine ⟨rfl, rfl, rfl, rfl, rfl, fun j c => ?_, thinned_of_eq rfl rfl, fun _ _ => carries_of_eq rfl⟩
  by_cases hj : j = i
  · subst hj; rw [slotOf_setSlot, h]
  · rw [slotOf_setSlot_other hj]

theorem dropFrame_setPending (i : Fin 32) (g : Nat) (s : State) : DropFrame s (setPending i g false s) :=
  dropFrame_updEntry (f := fun e => { e with resvPending := false }) (fun _ => ⟨rfl, rfl⟩) (fun _ => rfl)
    (fun _ => carried_pending) s

theorem dropAtWarning_highWater {q : QJob} {i : Fin 32} {c : CellId} {g v : Nat} (h : q.job = .highWater i c g v) (s : State) :
    dropAtWarning s q = updEntry i g (redirty (((cellOf (slotOf s i) c).map (·.highWater)).getD 0)) s := by
  simp only [dropAtWarning, h]
  rfl

theorem dropFrame_redirty (i : Fin 32) (g high : Nat) (s : State) : DropFrame s (updEntry i g (redirty high) s) :=
  dropFrame_updEntry (redirty_keys high) (fun e => by unfold redirty; split <;> rfl) (fun _ => carried_redirty high) s

theorem dropFrame_dropAtWarning (s : State) (q : QJob) : DropFrame s (dropAtWarning s q) := by
  by_cases hw : ∃ i c g v, q.job = .highWater i c g v
  · obtain ⟨i, c, g, v, hj⟩ := hw
    rw [dropAtWarning_highWater hj]
    exact dropFrame_redirty i g _ s
  unfold dropAtWarning
  repeat' split
  all_goals first
    | exact dropFrame_refl s
    | exact dropFrame_setPending _ _ s
    | exact absurd ⟨_, _, _, _, ‹_›⟩ hw
    | exact dropFrame_slot fun c => by cases c <;> rfl
    | exact ⟨rfl, rfl, rfl, rfl, rfl, fun _ _ => rfl, thinned_of_eq rfl rfl, fun _ _ => carries_of_eq rfl⟩

end Sys2Proof.Machine
end

section
/-! PROOFS. The warning step by step: the budget, the contexts, the dropped queue, the answer to the command in flight (R131, R182,
R202). -/

namespace Sys2Proof.Machine

variable {r s t u : State}

/-! ### The steps -/

/-- The state as the line is asserted and the warning taken, before its effects. -/
def warned (s : State) : State :=
  { s with pins := { s.pins with pfail := true }, warning := ⟨true, false⟩, device := .holding .power }

/-- The state with the flush budget fixed. -/
def budgeted (s : State) : State := fixBudget (warned s)

/-- The state as both contexts have met the warning. -/
def ctxsWarned (s : State) : State := powerFailCtx (powerFailCtx (budgeted s) 0) 1

/-- The state with the queue dropped. -/
def queueDropped (s : State) : State := dropQueue (ctxsWarned s)

/-- The state after the warning. -/
def afterWarning (s : State) : State := portAtWarning (queueDropped s)

theorem exec_pfailAssert (hrun : running s = true) (htaken : s.warning.taken = false)
    (hd : s.device = .serving ∨ s.device = .holding .command) : exec .pfailAssert s = .next (afterWarning s) := by
  change execPfailAssert s = _
  have hrun' : running { s with pins := { s.pins with pfail := true } } = true := hrun
  have go : ¬(!running { s with pins := { s.pins with pfail := true } }) = true := by rw [hrun']; nofun
  unfold execPfailAssert
  dsimp only
  rw [if_neg go, htaken]
  rcases hd with hd | hd <;> rw [hd] <;> rfl

/-! ### The budget -/

/-- What the budget leaves as it is. -/
structure BudgetFrame (s t : State) : Prop where
  slots : t.slots = s.slots
  port : t.port = s.port
  renewal : t.renewal = s.renewal
  engine : t.engine = s.engine
  waits : t.cache.waits = s.cache.waits
  job : t.writer.job = s.writer.job
  strip : t.writer.stripPending = s.writer.stripPending
  old : ∀ q ∈ t.writer.queue, q ∈ s.writer.queue
  stay : ∀ q ∈ s.writer.queue, itemOfJob q = none → q ∈ t.writer.queue
  entries : List.Forall₂ Reflagged s.cache.entries t.cache.entries

/-- The budget with an empty flush list. -/
theorem fixBudget_empty (h : s.writer.flush = []) : fixBudget s = { s with
    writer := { s.writer with
      flush := (addEntries s.cache.entries ((s.writer.queue.filterMap itemOfJob).take 4)).1
      queue := (selectHighs 4 s.writer.queue).2 }
    cache := { s.cache with
      entries := (addEntries s.cache.entries ((s.writer.queue.filterMap itemOfJob).take 4)).2 } } := by
  rw [← selectHighs_items]
  simp only [fixBudget, h, List.isEmpty_nil, if_true]

theorem fixBudget_items (h : s.writer.flush ≠ []) : fixBudget s = s := by
  have items : s.writer.flush.isEmpty = false := by simpa using h
  simp only [fixBudget, items, Bool.false_eq_true, if_false]

theorem budgetFrame_fixBudget (s : State) : BudgetFrame s (fixBudget s) := by
  by_cases h : s.writer.flush = []
  · rw [fixBudget_empty h]
    exact ⟨rfl, rfl, rfl, rfl, rfl, rfl, rfl, fun _ => selectHighs_left_mem, fun _ => mem_selectHighs_left,
      addEntries_entries _ _⟩
  · rw [fixBudget_items h]
    exact ⟨rfl, rfl, rfl, rfl, rfl, rfl, rfl, fun _ => id, fun _ h _ => h, List.forall₂_same.2 fun e _ => reflagged_refl e⟩

theorem budgetFrame (s : State) : BudgetFrame s (budgeted s) := by
  obtain ⟨a, b, c, d, e, f, g, h, i, j⟩ := budgetFrame_fixBudget (warned s)
  exact ⟨a, b, c, d, e, f, g, h, i, j⟩

/-- A HIGHWATER beyond the budget is left in the queue. -/
theorem budgeted_behind {before after : List QJob} {q : QJob} (hq : s.writer.queue = before ++ q :: after)
    (h : s.writer.flush ≠ [] ∨ 4 ≤ (before.filterMap itemOfJob).length) : q ∈ (budgeted s).writer.queue := by
  by_cases hf : s.writer.flush = []
  · rw [budgeted, fixBudget_empty (s := warned s) hf]
    change q ∈ (selectHighs 4 s.writer.queue).2
    rw [hq]
    exact mem_selectHighs_behind (h.resolve_left (absurd hf))
  · rw [budgeted, fixBudget_items (s := warned s) hf]
    change q ∈ s.writer.queue
    rw [hq]
    exact List.mem_append_right _ (.head _)

/-! ### An entry through the warning -/

/-- A READY entry without a cause that `P` holds of. -/
def HasEntry (s : State) (i : Fin 32) (g : Nat) (P : Entry → Prop) : Prop :=
  ∃ x, findEntry s i g = some x ∧ x.filling = false ∧ x.withhold = none ∧ P x

theorem HasEntry.carry {i : Fin 32} {g : Nat} {P Q : Entry → Prop} (h : HasEntry s i g P) (k : Carries i g s t)
    (hPQ : ∀ x y, P x → Carried x y → Q y) : HasEntry t i g Q := by
  obtain ⟨x, hx, hf, hw, hP⟩ := h
  obtain ⟨y, hy, hxy⟩ := k x hx hf hw
  exact ⟨y, hy, hxy.filling, hxy.withhold, hPQ x y hP hxy⟩

/-- What the warning leaves of an entry beside its flags. -/
structure SameValues (e x : Entry) : Prop where
  role : x.role = e.role
  h : x.h = e.h
  n : e.role = some .active → x.n = e.n

theorem SameValues.carried {e x y : Entry} (h : SameValues e x) (k : Carried x y) : SameValues e y :=
  ⟨k.role.trans h.role, k.h.trans h.h, fun ha => (k.n (h.role.trans ha)).trans (h.n ha)⟩

theorem budgeted_entry {i : Fin 32} {g : Nat} {e : Entry} (he : findEntry s i g = some e) (hf : e.filling = false)
    (hw : e.withhold = none) : HasEntry (budgeted s) i g (SameValues e) := by
  obtain ⟨x, hx, d, f, rfl⟩ := find?_reflagged (budgetFrame s).entries he
  exact ⟨_, hx, hf, hw, rfl, rfl, fun _ => rfl⟩

/-! ### The contexts -/

theorem ctxFrame_ctxsWarned (s : State) : CtxFrame (budgeted s) (ctxsWarned s) := by
  unfold ctxsWarned
  rw [powerFailCtx_eq, powerFailCtx_eq]
  exact (ctxFrame_endCtx _ _ _ 0).trans (ctxFrame_endCtx _ _ _ 1)

theorem ctxsWarned_entry {i : Fin 32} {g : Nat} {e : Entry} (hl : ∀ c, s.engine.renewalLine ≠ some (.fill i c g))
    (he : findEntry s i g = some e) (hf : e.filling = false) (hw : e.withhold = none) :
    HasEntry (ctxsWarned s) i g (SameValues e) := by
  refine (budgeted_entry he hf hw).carry ((ctxFrame_ctxsWarned s).carries i g ?_) fun x y => SameValues.carried
  rw [(budgetFrame s).engine]
  exact hl

/-- The work left of a STORING context, as the warning finds it (R131). -/
theorem hasWorkLeft_warned (s : State) (i : Fin 2) (h : (ctxOf s i).state = .storing) (hv : VerifiesVerifying s) :
    (i = 0 → hasWorkLeft (budgeted s) 0 = hasWorkLeft s 0) ∧
    (i = 1 → hasWorkLeft (powerFailCtx (budgeted s) 0) 1 = hasWorkLeft s 1) := by
  have frame := budgetFrame s
  have ctx (j : Fin 2) : ctxOf (budgeted s) j = ctxOf s j := by rw [ctxOf, frame.renewal, ctxOf]
  have hand (j : Fin 2) : handOf (budgeted s) j = handOf s j := by rw [handOf, frame.job, handOf]
  have verifying : VerifiesVerifying (budgeted s) := by
    intro v hv'
    rw [frame.renewal] at hv'
    rw [ctx]
    exact hv v hv'
  refine ⟨fun _ => ?_, fun hi => ?_⟩
  · simp only [hasWorkLeft_eq, hand, ctx]
  · subst hi
    rw [powerFailCtx_eq]
    generalize hasWorkLeft (budgeted s) 0 = w
    have other := (endStep_endCtx .powerFail w 0 verifying).other 1 (by decide) (by rw [ctx, h]; nofun)
    rw [hasWorkLeft_eq, hasWorkLeft_eq, other, handOf_endCtx (by decide), hand, ctx]

theorem ctxMet_of_work {c : Code} {w : Bool} {i : Fin 2} (h : CtxMet c w s t i)
    (hw : (ctxOf s i).state = .storing → w = hasWorkLeft s i) : CtxMet c (hasWorkLeft s i) s t i := by
  obtain ⟨opened, ended⟩ := h
  exact ⟨fun ho => opened (ho.imp_right fun ⟨hs, hl⟩ => ⟨hs, (hw hs).trans hl⟩),
    fun he => ended (he.imp_right fun ⟨hs, hl⟩ => ⟨hs, (hw hs).trans hl⟩)⟩

/-- The contexts after the warning (R131). -/
theorem ctxsWarned_ctxs (hv : VerifiesVerifying s) :
    (∀ i, CtxMet .powerFail (hasWorkLeft s i) s (ctxsWarned s) i) ∧
    (∀ v, s.renewal.verif = some v → VerifEnded .powerFail s (ctxsWarned s) v) ∧
    (ctxsWarned s).renewal.verif = none := by
  have frame := budgetFrame s
  have ctx (j : Fin 2) : ctxOf (budgeted s) j = ctxOf s j := by rw [ctxOf, frame.renewal, ctxOf]
  have verifying : VerifiesVerifying (budgeted s) := by
    intro v hv'
    rw [frame.renewal] at hv'
    rw [ctx]
    exact hv v hv'
  have both := endCtx_both .powerFail (hasWorkLeft (budgeted s) 0) (hasWorkLeft (powerFailCtx (budgeted s) 0) 1) verifying
  rw [← powerFailCtx_eq, ← powerFailCtx_eq] at both
  obtain ⟨zero, one, verif, none⟩ := both
  have before {w : Bool} {i : Fin 2} (h : CtxMet .powerFail w (budgeted s) (ctxsWarned s) i) :
      CtxMet .powerFail w s (ctxsWarned s) i := by
    rw [CtxMet, Open, Ended, ctx] at h
    exact h
  refine ⟨fun i => ?_, fun v h => ?_, none⟩
  · rcases (by omega : i = 0 ∨ i = 1) with rfl | rfl
    · exact ctxMet_of_work (before zero) fun hs => (hasWorkLeft_warned s 0 hs hv).1 rfl
    · exact ctxMet_of_work (before one) fun hs => (hasWorkLeft_warned s 1 hs hv).2 rfl
  · have ended := verif v (by rw [frame.renewal]; exact h)
    rw [VerifEnded, ctx] at ended
    exact ended

/-! ### The dropped queue -/

theorem dropFrame_queueDropped (s : State) : DropFrame (setQueue [] (ctxsWarned s)) (queueDropped s) :=
  List.foldlRecOn (motive := DropFrame (setQueue [] (ctxsWarned s))) (ctxsWarned s).writer.queue dropAtWarning
    (dropFrame_refl _) fun _ h q _ => h.trans (dropFrame_dropAtWarning _ q)

/-- What one dropped job makes and every other keeps holds of the state with the queue dropped. -/
theorem queueDropped_reaches {P : State → Prop} {q : QJob} (hq : q ∈ (ctxsWarned s).writer.queue)
    (make : ∀ u, DropFrame (setQueue [] (ctxsWarned s)) u → P (dropAtWarning u q))
    (keep : ∀ u, ∀ x ∈ (ctxsWarned s).writer.queue, DropFrame (setQueue [] (ctxsWarned s)) u → P u →
      P (dropAtWarning u x)) : P (queueDropped s) :=
  foldl_reaches (R := DropFrame) DropFrame.trans dropFrame_dropAtWarning make keep (dropFrame_refl _) hq

theorem queueDropped_keeps {P : State → Prop} (start : P (setQueue [] (ctxsWarned s)))
    (keep : ∀ u, ∀ x ∈ (ctxsWarned s).writer.queue, P u → P (dropAtWarning u x)) : P (queueDropped s) :=
  List.foldlRecOn (motive := P) (ctxsWarned s).writer.queue dropAtWarning start fun u hu x hx => keep u x hx hu

/-- A dropped job without a context comes from the queue. -/
theorem mem_ctxsWarned {q : QJob} (hq : q ∈ s.writer.queue) (hc : q.ctx = none) (hi : itemOfJob q = none) :
    q ∈ (ctxsWarned s).writer.queue :=
  (ctxFrame_ctxsWarned s).stay q ((budgetFrame s).stay q hq hi) hc

theorem mem_of_ctxsWarned {q : QJob} (hq : q ∈ (ctxsWarned s).writer.queue) : q ∈ s.writer.queue :=
  (budgetFrame s).old q ((ctxFrame_ctxsWarned s).old q hq)

theorem cellOf_queueDropped {i : Fin 32} (h : DropFrame (setQueue [] (ctxsWarned s)) u) (c : CellId) :
    cellOf (slotOf u i) c = cellOf (slotOf s i) c := by
  have slots : slotOf (setQueue [] (ctxsWarned s)) i = slotOf s i :=
    (slotOf_of_slots (ctxFrame_ctxsWarned s).slots i).trans (slotOf_of_slots (budgetFrame s).slots i)
  rw [h.cells, slots]

theorem queueDropped_entry {i : Fin 32} {g : Nat} {e : Entry} (h : HasEntry (ctxsWarned s) i g (SameValues e)) :
    HasEntry (queueDropped s) i g (SameValues e) :=
  h.carry ((carries_of_eq rfl).trans ((dropFrame_queueDropped s).carries i g)) fun _ _ => SameValues.carried

/-! ### The answer -/

/-- The command in flight is answered at the warning (R106, R112, R157, R158, R202). -/
def answeredAtWarning (s : State) : Bool :=
  let forRoom := s.cache.waits.any (·.port)
  match s.port.exec with
  | .protect op => op.stage = .reserve || op.stage = .room || (op.stage = .fill && forRoom)
  | .unprotect op => op.stage = .high || op.stage = .room || (op.stage = .fill && forRoom)
  | .activate op => op.stage = .room || (op.stage = .fill && forRoom) || (op.stage = .store && !handOfPort s)
  | .hold _ => true
  | .free | .handed .. => false

/-- The entry of a PROTECT or UNPROTECT that waits on the store or for room to place its job, as the warning leaves it. -/
def entryAtWarning (s : State) : State :=
  match s.port.exec with
  | .protect op => if op.stage = .reserve || op.stage = .room then setPending op.slot op.gen false s else s
  | .unprotect op => if op.stage = .high || op.stage = .room then dirtyWaiter op s else s
  | _ => s

theorem portAtWarning_eq (s : State) : portAtWarning s =
    if answeredAtWarning s then finish .powerFailing [] (entryAtWarning s) else s := by
  unfold portAtWarning answeredAtWarning entryAtWarning
  dsimp only
  split <;> rename_i op h <;> simp only [h]
  · cases op.stage <;> cases s.cache.waits.any (·.port) <;> rfl
  · cases op.stage <;> cases s.cache.waits.any (·.port) <;> rfl
  · rw [activateInHand_eq]
    cases op.stage <;> cases s.cache.waits.any (·.port) <;> cases handOfPort s <;> rfl
  all_goals rfl

end Sys2Proof.Machine
end

section
/-! PROOFS. The power-fail warning: flush list, contexts, answers and marks (R131, R182, R202, Table 9-4). -/

namespace Sys2Proof.Machine

variable {r s t u : State}

/-! ### After the warning -/

theorem dropFrame_entryAtWarning (s : State) : DropFrame s (entryAtWarning s) := by
  unfold entryAtWarning
  repeat' split
  · exact dropFrame_setPending _ _ s
  · exact dropFrame_refl s
  · exact dropFrame_updEntry (f := fun e => { e with dirty := true }) (fun _ => ⟨rfl, rfl⟩) (fun _ => rfl)
      (fun _ => carried_dirty) s
  · exact dropFrame_refl s
  · exact dropFrame_refl s

theorem thinned_finish (c : Code) (b : List Byte) (s : State) : Thinned s (finish c b s) := by
  have released : Thinned (portLetsGo s) (releasePins .port (portLetsGo s)) := thinned_releasePins .port _
  have start : Thinned s (portLetsGo s) := thinned_of_eq rfl rfl
  exact (start.trans released).trans (thinned_of_eq rfl rfl)

theorem carries_finish (c : Code) (b : List Byte) (i : Fin 32) (g : Nat) (s : State) : Carries i g s (finish c b s) := by
  have released : Carries i g (portLetsGo s) (releasePins .port (portLetsGo s)) := carries_releasePins .port i g _
  have start : Carries i g s (portLetsGo s) := carries_of_eq rfl
  exact (start.trans released).trans (carries_of_eq rfl)

/-- What the answer at the warning, or its absence, leaves. -/
structure AnswerFrame (s t : State) : Prop where
  slots : t.slots = s.slots
  renewal : t.renewal = s.renewal
  strip : t.writer.stripPending = s.writer.stripPending
  thinned : Thinned s t
  carries : ∀ i g, Carries i g s t

theorem answerFrame_portAtWarning (s : State) : AnswerFrame s (portAtWarning s) := by
  have entry := dropFrame_entryAtWarning s
  have slots : (entryAtWarning s).slots = s.slots ∧ (entryAtWarning s).writer.stripPending = s.writer.stripPending := by
    unfold entryAtWarning
    repeat' split
    all_goals exact ⟨rfl, rfl⟩
  rw [portAtWarning_eq]
  split
  · exact ⟨slots.1, entry.renewal, slots.2, entry.thinned.trans (thinned_finish _ _ _),
      fun i g => (entry.carries i g).trans (carries_finish _ _ i g _)⟩
  · exact ⟨rfl, rfl, rfl, thinned_refl s, fun _ _ => carries_of_eq rfl⟩

theorem slotOf_afterWarning (s : State) (i : Fin 32) : slotOf (afterWarning s) i = slotOf (queueDropped s) i :=
  slotOf_of_slots (answerFrame_portAtWarning (queueDropped s)).slots i

theorem thinned_afterWarning (s : State) : Thinned (budgeted s) (afterWarning s) := by
  have queue : Thinned (ctxsWarned s) (setQueue [] (ctxsWarned s)) := thinned_of_eq rfl rfl
  exact (((ctxFrame_ctxsWarned s).thinned.trans queue).trans (dropFrame_queueDropped s).thinned).trans
    (answerFrame_portAtWarning _).thinned

theorem beside_afterWarning (s : State) : Beside (warned s) (afterWarning s) :=
  beside_portAtWarning (beside_dropQueue (beside_powerFailCtx (beside_powerFailCtx (beside_fixBudget (beside_refl _)))))

/-- The state as the line is asserted and the warning taken. -/
def asserted (s : State) : State := { s with pins := { s.pins with pfail := true }, warning := ⟨true, false⟩ }

theorem afterWarning_eq (s : State) : afterWarning s = warningTaken (asserted s) := by
  unfold afterWarning queueDropped ctxsWarned budgeted warningTaken
  rfl

theorem kept_afterWarning (hd : s.device ≠ .faulted) : Kept (asserted s) (afterWarning s) := by
  rw [afterWarning_eq]
  exact kept_warningTaken (s := asserted s) hd (kept_refl _)

theorem queue_afterWarning (s : State) : (afterWarning s).writer.queue = [] := by
  have dropped : (queueDropped s).writer.queue = [] := (dropFrame_queueDropped s).queue
  have entry : (entryAtWarning (queueDropped s)).writer.queue = [] := (dropFrame_entryAtWarning _).queue.trans dropped
  rw [afterWarning, portAtWarning_eq]
  split
  · change (entryAtWarning (queueDropped s)).writer.queue.map unwaited = []
    rw [entry]
    rfl
  · exact dropped

/-! ### The flush list (R182) -/

theorem Thinned.places (h : Thinned s t) : t.writer.flush.map itemPlace = s.writer.flush.map itemPlace := by
  refine List.ext_getElem? fun k => ?_
  rw [List.getElem?_map, List.getElem?_map]
  cases hk : s.writer.flush[k]? with
  | none =>
    rw [List.getElem?_eq_none (by rw [h.length]; exact List.getElem?_eq_none_iff.1 hk)]
  | some it =>
    obtain ⟨x, hx, place, -⟩ := h.items k it hk
    rw [hx, Option.map_some, Option.map_some, place]

/-- A flush list that still has items keeps their places. -/
theorem flush_afterWarning_items (h : s.writer.flush ≠ []) :
    (afterWarning s).writer.flush.map itemPlace = s.writer.flush.map itemPlace := by
  rw [(thinned_afterWarning s).places, budgeted, fixBudget_items (s := warned s) h]
  rfl

/-- The items of the queued HIGHWATER jobs that the budget takes. -/
def budgetHighs (s : State) : List FlushItem := (s.writer.queue.filterMap itemOfJob).take 4

theorem budgetHighs_fromEntry {it : FlushItem} (h : it ∈ budgetHighs s) : it.fromEntry = false := by
  obtain ⟨q, -, hq⟩ := List.mem_filterMap.1 (List.mem_of_mem_take h)
  exact itemOfJob_fromEntry hq

theorem budgetHighs_length (s : State) : (budgetHighs s).length ≤ 4 := List.length_take_le ..

theorem budgeted_flush (h : s.writer.flush = []) :
    (budgeted s).writer.flush = (addEntries s.cache.entries (budgetHighs s)).1 := by
  rw [budgeted, fixBudget_empty (s := warned s) h]
  rfl

/-- The flush list made at the warning: at most four items, the queued HIGHWATER jobs first with at least their values, then dirty
entries in their order. -/
theorem flush_afterWarning (h : s.writer.flush = []) : (afterWarning s).writer.flush.length ≤ 4 ∧
    ((afterWarning s).writer.flush.take (budgetHighs s).length).map itemPlace = (budgetHighs s).map itemPlace ∧
    (∀ (k : Nat) (it : FlushItem), (budgetHighs s)[k]? = some it →
      ∃ x : FlushItem, (afterWarning s).writer.flush[k]? = some x ∧ it.value ≤ x.value) ∧
    (((afterWarning s).writer.flush.drop (budgetHighs s).length).map itemPlace).Sublist
      ((s.cache.entries.filter flushes).map entryPlace) := by
  obtain ⟨old, new, out, raised, length, sub⟩ := addEntries_items (es := s.cache.entries) (budgetHighs_length s)
  rw [← budgeted_flush h] at out
  have thinned := thinned_afterWarning s
  have places := thinned.places
  rw [out, List.map_append] at places
  have oldPlaces := places_of_raised raised
  have count : (old.map itemPlace).length = (budgetHighs s).length := by rw [oldPlaces, List.length_map]
  refine ⟨by rw [thinned.length, out]; exact length, ?_, fun k it hk => ?_, ?_⟩
  · rw [List.map_take, places, ← count, List.take_left, oldPlaces]
  · obtain ⟨y, hy, hit⟩ : ∃ y, old[k]? = some y ∧ Raised it y := by
      have hlt : k < old.length := by
        rw [← raised.length_eq]
        exact (List.getElem?_eq_some_iff.1 hk).1
      refine ⟨old[k], List.getElem?_eq_getElem hlt, ?_⟩
      have rel := raised.get (raised.length_eq ▸ hlt) hlt
      rw [List.getElem?_eq_getElem (raised.length_eq ▸ hlt)] at hk
      cases hk
      exact rel
    have hout : (budgeted s).writer.flush[k]? = some y := by
      rw [out, List.getElem?_append_left (List.getElem?_eq_some_iff.1 hy).1, hy]
    obtain ⟨x, hx, -, reach⟩ := thinned.items k y hout
    refine ⟨x, hx, (reach it.value ⟨hit.value, fun hfrom => ?_⟩).1⟩
    rw [hit.fromEntry, budgetHighs_fromEntry (List.mem_of_getElem? hk)] at hfrom
    cases hfrom
  · rw [List.map_drop, places, ← count, List.drop_left]
    exact sub

theorem mem_places {l m : List FlushItem} (h : l.map itemPlace = m.map itemPlace) {it : FlushItem} (hit : it ∈ l) :
    ∃ x ∈ m, itemPlace x = itemPlace it := by
  obtain ⟨x, hx, hp⟩ := List.mem_map.1 (h ▸ List.mem_map_of_mem (f := itemPlace) hit)
  exact ⟨x, hx, hp⟩

theorem eq_of_entryKey {es : List Entry} (hd : (es.map entryKey).Nodup) {x e : Entry} (hx : x ∈ es) (he : e ∈ es)
    (hk : entryKey x = entryKey e) : x = e := List.inj_on_of_nodup_map hd hx he hk

/-- A dirty entry that no other one shares its cell with has an item with at least its h, where there was room or an item of its cell
(R182). -/
theorem flush_afterWarning_covers (h : s.writer.flush = []) (hd : (s.cache.entries.map entryKey).Nodup) {e : Entry}
    (he : e ∈ s.cache.entries) (hf : flushes e = true)
    (one : ∀ f ∈ s.cache.entries, f.slot = e.slot → f.cell = e.cell → flushes f = true → f = e)
    (room : (afterWarning s).writer.flush.length < 4 ∨ ∃ it ∈ (afterWarning s).writer.flush, it.slot = e.slot ∧ it.cell = e.cell) :
    ∃ it ∈ (afterWarning s).writer.flush, it.slot = e.slot ∧ it.cell = e.cell ∧ e.h ≤ it.value := by
  have thinned := thinned_afterWarning s
  have cell {it : FlushItem} : sameCell e it = true ↔ it.slot = e.slot ∧ it.cell = e.cell := by simp [sameCell]
  have covered : ∃ it ∈ (budgeted s).writer.flush, Covers e it := by
    have room' : (budgeted s).writer.flush.length < 4 ∨ ∃ it ∈ (budgeted s).writer.flush, sameCell e it = true := by
      refine room.imp (fun hl => thinned.length ▸ hl) fun ⟨it, hit, hc⟩ => ?_
      obtain ⟨x, hx, place⟩ := mem_places thinned.places hit
      exact ⟨x, hx, by rw [sameCell_place place, cell]; exact hc⟩
    rw [budgeted_flush h] at room' ⊢
    exact addEntries_covers (budgetHighs_length s) he hf one
      (fun it hit _ hfrom => by rw [budgetHighs_fromEntry hit] at hfrom; cases hfrom) room'
  obtain ⟨y, hy, hcell, value, own⟩ := covered
  obtain ⟨k, hk, hky⟩ := List.getElem_of_mem hy
  obtain ⟨x, hx, place, reach⟩ := thinned.items k y (by rw [List.getElem?_eq_getElem hk, hky])
  have reaches : Reaches (budgeted s) e.h y := by
    refine ⟨value, fun hfrom z hz hkey => ?_⟩
    obtain ⟨w, hw, d, f, rfl⟩ := source_of_forall₂ (budgetFrame s).entries hz
    have key : entryKey w = entryKey e := by
      have hw' : entryKey w = (y.slot, y.gen) := hkey
      rw [hw', own hfrom, (cell.1 hcell).1]
      rfl
    rw [eq_of_entryKey hd hw he key]
  refine ⟨x, List.mem_of_getElem? hx, ?_⟩
  have hcx : sameCell e x = true := by rw [sameCell_place place, hcell]
  exact ⟨(cell.1 hcx).1, (cell.1 hcx).2, (reach e.h reaches).1⟩

/-! ### The contexts (R131) -/

theorem renewal_afterWarning (s : State) : (afterWarning s).renewal = (ctxsWarned s).renewal :=
  (answerFrame_portAtWarning _).renewal.trans (dropFrame_queueDropped s).renewal

theorem keys_afterWarning (s : State) :
    ∀ k ∈ (ctxsWarned s).notices.map noticeKey, k ∈ (afterWarning s).notices.map noticeKey :=
  (beside_portAtWarning (beside_dropQueue (beside_refl (ctxsWarned s)))).keys

theorem afterWarning_ctxs (hv : VerifiesVerifying s) :
    (∀ i, CtxMet .powerFail (hasWorkLeft s i) s (afterWarning s) i) ∧
    (∀ v, s.renewal.verif = some v → VerifEnded .powerFail s (afterWarning s) v) ∧
    (afterWarning s).renewal.verif = none := by
  obtain ⟨met, verif, none⟩ := ctxsWarned_ctxs hv
  have same (i : Fin 2) : ctxOf (afterWarning s) i = ctxOf (ctxsWarned s) i :=
    ctxOf_congr (congrArg (·.ctxs) (renewal_afterWarning s)) i
  have still {i : Fin 2} (h : FailedWith .powerFail (ctxsWarned s) i) : FailedWith .powerFail (afterWarning s) i := by
    obtain ⟨state, result, key⟩ := h
    exact ⟨by rw [same, state], by rw [same, result], keys_afterWarning s _ key⟩
  refine ⟨fun i => ⟨fun ho => still ((met i).1 ho), fun he => (same i).trans ((met i).2 he)⟩, fun v h => ?_, ?_⟩
  · obtain ⟨fails, drops⟩ := verif v h
    exact ⟨fun hd => still (fails hd), fun hd => (same _).trans (drops hd)⟩
  · rw [renewal_afterWarning, none]

/-! ### The command in flight -/

theorem port_queueDropped (s : State) : (queueDropped s).port = s.port :=
  ((dropFrame_queueDropped s).port.trans (ctxFrame_ctxsWarned s).port).trans (budgetFrame s).port

theorem answeredAtWarning_queueDropped (s : State) : answeredAtWarning (queueDropped s) = answeredAtWarning s := by
  have waits : (queueDropped s).cache.waits.any (·.port) = s.cache.waits.any (·.port) := by
    have dropped : (queueDropped s).cache.waits = (ctxsWarned s).cache.waits := (dropFrame_queueDropped s).waits
    rw [dropped, (ctxFrame_ctxsWarned s).waits, (budgetFrame s).waits]
  have hand : handOfPort (queueDropped s) = handOfPort s := by
    have dropped : handOfPort (queueDropped s) = handOfPort (ctxsWarned s) :=
      congrArg (fun x => (taskJobs x).any (·.port)) (dropFrame_queueDropped s).job
    have budget : handOfPort (budgeted s) = handOfPort s :=
      congrArg (fun x => (taskJobs x).any (·.port)) (budgetFrame s).job
    rw [dropped, (ctxFrame_ctxsWarned s).handPort, budget]
  rw [answeredAtWarning, waits, hand, port_queueDropped, answeredAtWarning]

theorem respond_port_congr {c : Code} {b : List Byte} (h : t.port = s.port) : (respond c b t).port = (respond c b s).port := by
  rw [respond_port, respond_port, h]

theorem finish_port_eq (c : Code) (b : List Byte) (s : State) : (finish c b s).port = (respond c b s).port := rfl

/-- The port after the warning. -/
theorem port_afterWarning (s : State) : (afterWarning s).port =
    if answeredAtWarning s then (respond .powerFailing [] s).port else s.port := by
  rw [afterWarning, portAtWarning_eq, answeredAtWarning_queueDropped]
  split
  · rw [finish_port_eq]
    exact respond_port_congr ((dropFrame_entryAtWarning _).port.trans (port_queueDropped s))
  · exact port_queueDropped s

/-- A command is answered at the warning exactly where it waits as its rule says. -/
theorem port_afterWarning_iff {p : Prop} (h : answeredAtWarning s = true ↔ p) :
    (p → (afterWarning s).port = (respond .powerFailing [] s).port) ∧ (¬p → (afterWarning s).port = s.port) := by
  rw [port_afterWarning]
  exact ⟨fun hp => if_pos (h.2 hp), fun hp => if_neg fun ha => hp (h.1 ha)⟩

theorem any_wait_port (s : State) : s.cache.waits.any (·.port) = true ↔ ∃ w ∈ s.cache.waits, w.port = true :=
  List.any_eq_true

/-- An entry that the warning keeps, through the answer. -/
theorem afterWarning_entry {i : Fin 32} {g : Nat} {P : Entry → Prop} (h : HasEntry (queueDropped s) i g P)
    (hP : ∀ x y, P x → Carried x y → P y) : HasEntry (afterWarning s) i g P :=
  h.carry ((answerFrame_portAtWarning _).carries i g) hP

theorem afterWarning_protect {op : ProtectOp} {e : Entry} (hx : s.port.exec = .protect op)
    (hs : op.stage = .reserve ∨ op.stage = .room) (h : HasEntry (queueDropped s) op.slot op.gen (SameValues e)) :
    HasEntry (afterWarning s) op.slot op.gen fun x => SameValues e x ∧ x.resvPending = false := by
  have exec : (queueDropped s).port.exec = .protect op := by rw [port_queueDropped, hx]
  have answered : answeredAtWarning (queueDropped s) = true := by
    rcases hs with hs | hs <;> simp [answeredAtWarning, exec, hs]
  have pending : entryAtWarning (queueDropped s) = setPending op.slot op.gen false (queueDropped s) := by
    rcases hs with hs | hs <;> simp [entryAtWarning, exec, hs]
  obtain ⟨x, hx, hf, hw, same⟩ := h
  have cleared : HasEntry (entryAtWarning (queueDropped s)) op.slot op.gen fun x => SameValues e x ∧ x.resvPending = false := by
    rw [pending]
    exact ⟨{ x with resvPending := false }, by rw [findEntry_setPending, hx]; rfl, hf, hw,
      same.carried (carried_pending hf hw), rfl⟩
  rw [afterWarning, portAtWarning_eq, if_pos answered]
  exact cleared.carry (carries_finish _ _ _ _ _) fun _ _ ⟨hp, hr⟩ k => ⟨hp.carried k, k.resv hr⟩

theorem afterWarning_unprotect {op : UnprotectOp} {e : Entry} (hx : s.port.exec = .unprotect op)
    (hs : op.stage = .high ∨ op.stage = .room) (h : HasEntry (queueDropped s) op.slot op.trial.gen (SameValues e)) :
    HasEntry (afterWarning s) op.slot op.trial.gen fun x => SameValues e x ∧ x.dirty = true := by
  have exec : (queueDropped s).port.exec = .unprotect op := by rw [port_queueDropped, hx]
  have answered : answeredAtWarning (queueDropped s) = true := by
    rcases hs with hs | hs <;> simp [answeredAtWarning, exec, hs]
  have waiter : entryAtWarning (queueDropped s) = dirtyWaiter op (queueDropped s) := by
    rcases hs with hs | hs <;> simp [entryAtWarning, exec, hs]
  obtain ⟨x, hx, hf, hw, same⟩ := h
  have dirty : HasEntry (entryAtWarning (queueDropped s)) op.slot op.trial.gen fun x => SameValues e x ∧ x.dirty = true := by
    rw [waiter]
    refine ⟨{ x with dirty := true }, ?_, hf, hw, same.carried (carried_dirty hf hw), rfl⟩
    rw [dirtyWaiter, findEntry_updEntry (f := fun e => { e with dirty := true }) fun _ => ⟨rfl, rfl⟩, hx]
    rfl
  rw [afterWarning, portAtWarning_eq, if_pos answered]
  exact dirty.carry (carries_finish _ _ _ _ _) fun _ _ ⟨hp, hd⟩ k => ⟨hp.carried k, k.dirty hd⟩

end Sys2Proof.Machine
end

section
/-! PROOFS. What the warning makes of the dropped jobs, and PFAIL_ASSERT as a whole (R182, R202, Table 9-4). -/

namespace Sys2Proof.Machine

variable {r s t u : State}

/-! ### Due marks and repair marks -/

theorem genNumber_dropped (h : DropFrame (setQueue [] (ctxsWarned s)) u) (i : Fin 32) (g : GenRole) :
    genNumber (slotOf u i) g = genNumber (slotOf s i) g := genNumber_of_cells (cellOf_queueDropped h) g

/-- What a dropped job makes of its slot and every other dropped job keeps stands after the warning. -/
theorem mark_afterWarning {i : Fin 32} {P : SlotImg → Prop} {q : QJob} (hq : q ∈ s.writer.queue) (hc : q.ctx = none)
    (hi : itemOfJob q = none) (hs : jobSlot q.job = some i)
    (make : ∀ img, (∀ g, genNumber img g = genNumber (slotOf s i) g) → P (redue q img))
    (keep : ∀ x ∈ s.writer.queue, ∀ img, (∀ g, genNumber img g = genNumber (slotOf s i) g) → jobSlot x.job = some i →
      P img → P (redue x img)) : P (slotOf (afterWarning s) i) := by
  rw [slotOf_afterWarning]
  refine queueDropped_reaches (P := fun u => P (slotOf u i)) (mem_ctxsWarned hq hc hi) (fun u hu => ?_)
    fun u x hx hu hP => ?_
  · rw [slotOf_dropAtWarning, if_pos hs]
    exact make _ (genNumber_dropped hu i)
  · rw [slotOf_dropAtWarning]
    split
    · rename_i hx'
      exact keep x (mem_of_ctxsWarned hx) _ (genNumber_dropped hu i) hx' hP
    · exact hP

/-- A dropped ACTIVATE sets its due mark again (R25). -/
theorem actDue_afterWarning {i : Fin 32} {g : Nat} {q : QJob} (hq : q ∈ s.writer.queue) (hc : q.ctx = none)
    (hp : q.port = false) (hj : q.job = .activate i g) (hg : genNumber (slotOf s i) .staged = some g) :
    (slotOf (afterWarning s) i).actDue = some g := by
  refine mark_afterWarning (P := fun img => img.actDue = some g) hq hc (by rw [itemOfJob, hj]) (by rw [hj]; rfl)
    (fun img same => ?_) fun x _ img same _ hm => redue_actDue x (by rw [same, hg]) hm
  have go : (q.port || q.ctx.isSome || genNumber img .staged != some g) = false := by rw [hp, hc, same, hg]; simp
  simp only [redue, hj, go, Bool.false_eq_true, if_false]
  refine actDue_settleMarks ?_ rfl
  rw [← hg, ← same]
  exact genNumber_of_cells (fun c => by cases c <;> rfl) _

/-- A dropped OVERLAP_END sets its due mark again, with a cause that the queue held (R26). -/
theorem ovlDue_afterWarning {i : Fin 32} {g : Nat} {cause : OvlCause} {q : QJob} (hq : q ∈ s.writer.queue)
    (hc : q.ctx = none) (hj : q.job = .overlapEnd i g cause) (hg : genNumber (slotOf s i) .overlap = some g) :
    ∃ cause, (slotOf (afterWarning s) i).ovlDue = some (g, cause) ∧
      ∃ q ∈ s.writer.queue, q.job = .overlapEnd i g cause := by
  refine mark_afterWarning (P := fun img => ∃ cause, img.ovlDue = some (g, cause) ∧
    ∃ q ∈ s.writer.queue, q.job = .overlapEnd i g cause) hq hc (by rw [itemOfJob, hj]) (by rw [hj]; rfl)
    (fun img same => ⟨cause, ?_, q, hq, hj⟩) fun x hx img same hs ⟨cause', hm, old⟩ => ?_
  · have go : (genNumber img .overlap != some g) = false := by rw [same, hg]; simp
    simp only [redue, hj, go, Bool.false_eq_true, if_false]
    refine ovlDue_settleMarks ?_ rfl
    rw [← hg, ← same]
    exact genNumber_of_cells (fun c => by cases c <;> rfl) _
  · rcases redue_ovlDue x (by rw [same, hg]) hm with h | ⟨slot, cause'', hjx, h⟩
    · exact ⟨cause', h, old⟩
    · rw [hjx] at hs
      cases hs
      exact ⟨cause'', h, x, hx, hjx⟩

theorem repair_afterWarning {i : Fin 32} {c : CellId} {q : QJob} (hq : q ∈ s.writer.queue) (hc : q.ctx = none)
    (hj : q.job = .cellRepair i c) : repairOf (slotOf (afterWarning s) i) c = true := by
  refine mark_afterWarning (P := fun img => repairOf img c = true) hq hc (by rw [itemOfJob, hj]) (by rw [hj]; rfl)
    (fun img _ => ?_) fun x _ img _ _ hm => redue_repair x hm
  simp only [redue, hj]
  cases c <;> rfl

theorem repairFloor_afterWarning {i : Fin 32} {q : QJob} (hq : q ∈ s.writer.queue) (hc : q.ctx = none)
    (hj : q.job = .floorRepair i) : (slotOf (afterWarning s) i).repairFloor = true := by
  refine mark_afterWarning (P := fun img => img.repairFloor = true) hq hc (by rw [itemOfJob, hj]) (by rw [hj]; rfl)
    (fun img _ => ?_) fun x _ img _ _ hm => redue_repairFloor x hm
  simp only [redue, hj]

/-- A slot that no ACTIVATE, OVERLAP_END or repair names keeps its image. -/
theorem slotOf_afterWarning_unnamed {i : Fin 32} (h : ∀ q ∈ s.writer.queue, (∀ gen, q.job ≠ .activate i gen) ∧
    (∀ gen cause, q.job ≠ .overlapEnd i gen cause) ∧ (∀ c, q.job ≠ .cellRepair i c) ∧ q.job ≠ .floorRepair i) :
    slotOf (afterWarning s) i = slotOf s i := by
  rw [slotOf_afterWarning]
  refine queueDropped_keeps (P := fun u => slotOf u i = slotOf s i) ?_ fun u x hx hu => ?_
  · exact (slotOf_of_slots (ctxFrame_ctxsWarned s).slots i).trans (slotOf_of_slots (budgetFrame s).slots i)
  · obtain ⟨act, ovl, cell, floor⟩ := h x (mem_of_ctxsWarned hx)
    rw [slotOf_dropAtWarning]
    split
    · rename_i hs
      rw [redue, hu]
      split <;> rename_i hj
      · rw [hj] at hs; cases hs; exact absurd hj (act _)
      · rw [hj] at hs; cases hs; exact absurd hj (ovl _ _)
      · rw [hj] at hs; cases hs; exact absurd hj (cell _)
      · rw [hj] at hs; cases hs; exact absurd hj (cell _)
      · rw [hj] at hs; cases hs; exact absurd hj floor
      · rfl
    · exact hu

/-! ### The strip mark (R37) -/

theorem strip_dropAtWarning (s : State) (q : QJob) : (dropAtWarning s q).writer.stripPending =
    if q.job = .hour then true else s.writer.stripPending := by
  unfold dropAtWarning
  split <;> rename_i h <;> rw [h]
  all_goals first
    | rfl
    | (simp only [reduceCtorEq, if_false]; split <;> rfl)

theorem strip_afterWarning (s : State) : (afterWarning s).writer.stripPending = (queueDropped s).writer.stripPending :=
  (answerFrame_portAtWarning (queueDropped s)).strip

theorem strip_afterWarning_hour {q : QJob} (hq : q ∈ s.writer.queue) (hc : q.ctx = none) (hj : q.job = .hour) :
    (afterWarning s).writer.stripPending = true := by
  rw [strip_afterWarning]
  refine queueDropped_reaches (P := fun u => u.writer.stripPending = true) (mem_ctxsWarned hq hc (by rw [itemOfJob, hj]))
    (fun u _ => by rw [strip_dropAtWarning, if_pos hj]) fun u x _ _ hu => ?_
  rw [strip_dropAtWarning, hu, ite_self]

theorem strip_afterWarning_none (h : ∀ q ∈ s.writer.queue, q.job ≠ .hour) :
    (afterWarning s).writer.stripPending = s.writer.stripPending := by
  rw [strip_afterWarning]
  refine queueDropped_keeps (P := fun u => u.writer.stripPending = s.writer.stripPending) ?_ fun u x hx hu => ?_
  · exact (ctxFrame_ctxsWarned s).strip.trans (budgetFrame s).strip
  · rw [strip_dropAtWarning, if_neg (h x (mem_of_ctxsWarned hx)), hu]

/-! ### The entries of dropped counter jobs (R44, R87) -/

/-- What the entry of a dropped counter job takes and every other job keeps, it has after the warning. -/
theorem entry_afterWarning {i : Fin 32} {g : Nat} {e : Entry} {P : Entry → Prop} {q : QJob}
    (hq : q ∈ (ctxsWarned s).writer.queue) (he : HasEntry (ctxsWarned s) i g (SameValues e))
    (make : ∀ u, DropFrame (setQueue [] (ctxsWarned s)) u → HasEntry u i g (SameValues e) →
      HasEntry (dropAtWarning u q) i g P) (keep : ∀ x y, P x → Carried x y → P y) : HasEntry (afterWarning s) i g P := by
  have start (u : State) (hu : DropFrame (setQueue [] (ctxsWarned s)) u) : HasEntry u i g (SameValues e) :=
    he.carry ((carries_of_eq rfl).trans (hu.carries i g)) fun _ _ => SameValues.carried
  refine afterWarning_entry (queueDropped_reaches (P := fun u => HasEntry u i g P) hq (fun u hu => make u hu (start u hu))
    fun u x _ _ hu => hu.carry ((dropFrame_dropAtWarning u x).carries i g) keep) keep

theorem resv_afterWarning {i : Fin 32} {c : CellId} {g v : Nat} {e : Entry} {q : QJob} (hq : q ∈ s.writer.queue)
    (hc : q.ctx = none) (hj : q.job = .reserve i c g v) (he : HasEntry (ctxsWarned s) i g (SameValues e)) :
    HasEntry (afterWarning s) i g fun x => x.resvPending = false := by
  refine entry_afterWarning (mem_ctxsWarned hq hc (by rw [itemOfJob, hj])) he (fun u _ hu => ?_) fun x y hx k => k.resv hx
  obtain ⟨x, hx, hf, hw, -⟩ := hu
  have drop : dropAtWarning u q = setPending i g false u := by simp only [dropAtWarning, hj]
  rw [drop]
  exact ⟨{ x with resvPending := false }, by rw [findEntry_setPending, hx]; rfl, hf, hw, rfl⟩

/-- The entry of a dropped HIGHWATER keeps its h, dirty where it is above what is stored (R87). -/
theorem dirty_afterWarning {i : Fin 32} {c : CellId} {g v : Nat} {e : Entry} {q : QJob}
    (hq : q ∈ (ctxsWarned s).writer.queue) (hj : q.job = .highWater i c g v)
    (he : HasEntry (ctxsWarned s) i g (SameValues e)) : HasEntry (afterWarning s) i g fun x =>
      x.h = e.h ∧ (((cellOf (slotOf s i) c).map (·.highWater)).getD 0 < e.h → x.dirty = true) := by
  refine entry_afterWarning hq he (fun u hu hx => ?_) fun x y ⟨hh, hd⟩ k => ⟨k.h.trans hh, fun hl => k.dirty (hd hl)⟩
  obtain ⟨x, hx, hf, hw, same⟩ := hx
  rw [dropAtWarning_highWater hj, cellOf_queueDropped hu]
  generalize ((cellOf (slotOf s i) c).map (·.highWater)).getD 0 = high
  refine ⟨redirty high x, ?_, (carried_redirty high hf hw).filling, (carried_redirty high hf hw).withhold,
    (carried_redirty high hf hw).h.trans same.h, fun hl => ?_⟩
  · rw [findEntry_updEntry (redirty_keys high), hx]
    rfl
  · rw [redirty, if_pos (by rw [same.h]; exact hl)]

end Sys2Proof.Machine
end

section
/-! PROOFS. PFAIL_ASSERT takes the warning (R131, R182, R202). -/

namespace Sys2Proof.Machine

variable {s : State}

/-- The entry of a slot and generation, where the warning finds it READY without a cause and no fill of it on the Renewal Engine's
line. -/
theorem keeps_afterWarning {i : Fin 32} {g : Nat} {p : Entry → Entry → Prop}
    (h : ∀ e, HasEntry (ctxsWarned s) i g (SameValues e) → HasEntry (afterWarning s) i g (p e))
    (hl : ∀ c, s.engine.renewalLine ≠ some (.fill i c g)) {e : Entry} (he : findEntry s i g = some e)
    (hf : e.filling = false) (hw : e.withhold = none) : ∃ e', findEntry (afterWarning s) i g = some e' ∧ p e e' := by
  obtain ⟨x, hx, -, -, hp⟩ := h e (ctxsWarned_entry hl he hf hw)
  exact ⟨x, hx, hp⟩

theorem answered_protect {op : ProtectOp} (hx : s.port.exec = .protect op) : answeredAtWarning s = true ↔
    (op.stage = .reserve ∨ op.stage = .room ∨ op.stage = .fill ∧ ∃ w ∈ s.cache.waits, w.port = true) := by
  simp only [answeredAtWarning, hx, Bool.or_eq_true, Bool.and_eq_true, decide_eq_true_eq, any_wait_port, or_assoc]

theorem answered_unprotect {op : UnprotectOp} (hx : s.port.exec = .unprotect op) : answeredAtWarning s = true ↔
    (op.stage = .high ∨ op.stage = .room ∨ op.stage = .fill ∧ ∃ w ∈ s.cache.waits, w.port = true) := by
  simp only [answeredAtWarning, hx, Bool.or_eq_true, Bool.and_eq_true, decide_eq_true_eq, any_wait_port, or_assoc]

theorem answered_activate {op : ActivateOp} (hx : s.port.exec = .activate op) : answeredAtWarning s = true ↔
    (op.stage = .room ∨ op.stage = .fill ∧ (∃ w ∈ s.cache.waits, w.port = true) ∨
      op.stage = .store ∧ ¬∃ r q, s.writer.job = some r ∧ r.task = .queued q ∧ q.port = true) := by
  simp only [answeredAtWarning, hx, Bool.or_eq_true, Bool.and_eq_true, decide_eq_true_eq, any_wait_port, or_assoc,
    ← handOfPort_iff, Bool.not_eq_true', Bool.not_eq_true]

/-- A STORING context has work left unless its one job is the one in progress (R131). -/
theorem hasWorkLeft_iff (s : State) (i : Fin 2) : hasWorkLeft s i = true ↔
    1 < (ctxOf s i).jobs.length ∨ (ctxOf s i).jobs.length = 1 ∧ ¬handOf s i = true := by
  rw [hasWorkLeft_eq]
  split
  · rename_i h
    simp only [h, decide_eq_true_eq, not_true_eq_false, and_false, or_false]
  · rename_i h
    rw [decide_eq_true_eq, and_iff_left h]
    omega

/-- Settles O32, clause by clause from what each step of the warning does. -/
theorem pfailAssertTakesTheWarning : Obligations.PfailAssertTakesTheWarning := by
  unfold Obligations.PfailAssertTakesTheWarning
  intro s hrun htaken hd
  have beside := beside_afterWarning s
  have kept := kept_afterWarning (s := s) (by rcases hd with hd | hd <;> rw [hd] <;> nofun)
  refine ⟨afterWarning s, exec_pfailAssert hrun htaken hd, beside.device, beside.warning, kept.pins, queue_afterWarning s,
    beside.writes, beside.tamper, kept.array, kept.clock, beside.assocs, beside.monitor, beside.slots,
    ⟨flush_afterWarning_items, fun hf => ?_⟩, fun hv => ?_, fun op hx => ⟨port_afterWarning_iff (answered_protect hx), ?_⟩,
    fun op hx => ⟨port_afterWarning_iff (answered_unprotect hx), ?_⟩,
    fun op hx => port_afterWarning_iff (answered_activate hx), ⟨?_, ?_, ?_, ?_, ?_, strip_afterWarning_none, ?_, ?_,
      fun i => slotOf_afterWarning_unnamed⟩, fun failed hx => port_afterWarning_iff ?_, fun hx => port_afterWarning_iff ?_⟩
  · obtain ⟨length, first, values, rest⟩ := flush_afterWarning hf
    refine ⟨length, first, values, rest, fun hn e he hdirty hw one room => ?_⟩
    refine flush_afterWarning_covers hf hn he ?_ (fun f hfm hs hc hfl => ?_) room
    · rw [flushes, hdirty, hw]; rfl
    · simp only [flushes, Bool.and_eq_true, Option.isNone_iff_eq_none] at hfl
      exact one f hfm hs hc hfl.1 hfl.2
  · obtain ⟨met, verif, none⟩ := afterWarning_ctxs hv
    refine ⟨none, verif, fun i => ⟨fun h => (met i).1 (.inl h), fun h => ⟨fun hw => ?_, fun hl hh => ?_⟩,
      fun h => (met i).2 (.inl h)⟩⟩
    · exact (met i).1 (.inr ⟨h, (hasWorkLeft_iff s i).2 (hw.imp_right (And.imp_right (mt handOf_iff.1)))⟩)
    · refine (met i).2 (.inr ⟨h, Bool.eq_false_iff.2 fun hw => ?_⟩)
      rcases (hasWorkLeft_iff s i).1 hw with hw | ⟨-, hw⟩
      · omega
      · exact hw (handOf_iff.2 hh)
  · intro hs _ hl e he hf hw
    refine keeps_afterWarning (p := fun e x => (e.role = some .active → x.n = e.n) ∧ x.resvPending = false)
      (fun e h => ?_) hl he hf hw
    obtain ⟨x, hx, hf, hw, same, clear⟩ := afterWarning_protect hx hs (queueDropped_entry h)
    exact ⟨x, hx, hf, hw, same.n, clear⟩
  · intro hs _ hl e he hf hw
    refine keeps_afterWarning (p := fun e x => x.h = e.h ∧ x.dirty = true) (fun e h => ?_) hl he hf hw
    obtain ⟨x, hx, hf, hw, same, dirty⟩ := afterWarning_unprotect hx hs (queueDropped_entry h)
    exact ⟨x, hx, hf, hw, same.h, dirty⟩
  · rintro slot gen ⟨q, hq, hc, hp, hj⟩ hg
    exact actDue_afterWarning hq hc hp hj hg
  · rintro slot gen ⟨q, hq, hc, -, cause, hj⟩ hg
    exact ovlDue_afterWarning hq hc hj hg
  · rintro slot c ⟨q, hq, hc, -, hj⟩
    exact repair_afterWarning hq hc hj
  · rintro slot ⟨q, hq, hc, -, hj⟩
    exact repairFloor_afterWarning hq hc hj
  · rintro ⟨q, hq, hc, -, hj⟩
    exact strip_afterWarning_hour hq hc hj
  · rintro slot gen ⟨q, hq, hc, -, c, v, hj⟩ _ hl e he hf hw
    exact keeps_afterWarning (p := fun _ x => x.resvPending = false) (fun e h => resv_afterWarning hq hc hj h) hl he hf hw
  · intro before q after slot c gen v hq hc hj hb _ hl e he hf hw
    have left := (ctxFrame_ctxsWarned s).stay q (budgeted_behind hq hb) hc
    exact keeps_afterWarning (fun e h => dirty_afterWarning left hj h) hl he hf hw
  · simp [answeredAtWarning, hx]
  · rcases hx with hx | ⟨c, body, hx⟩ <;> simp [answeredAtWarning, hx]

end Sys2Proof.Machine
end

section
/-! PROOFS. What a predicate on the state needs for the withhold causes to keep it: it is enough that the answers to the command in flight,
its further trials, and the end of a verification do (R82, R85, R91, R93, R99, R105, R108). -/

namespace Sys2Proof.Machine

variable {r s t u : State} {K : State → Prop}

/-- What the further trials of an UNPROTECT on slot `j` need in order to keep `K`. -/
structure TrialsKeep (K : State → Prop) (j : Fin 32) : Prop where
  finish : ∀ {u} c b, K u → K (finish c b u)
  release : ∀ {u}, K u → K (releasePins .port u)
  exec : ∀ {u} {op : UnprotectOp}, op.slot = j → K u → K (setExec (.unprotect op) u)
  place : ∀ {u} job, K u → K (place .port job u)
  ask : ∀ {u} {c g}, cellHolding (slotOf u j) g = some c → K u → K (askCache .port j c g u).2

theorem runTrials_keeps {op : UnprotectOp} {ts : List Trial} (k : TrialsKeep K op.slot) (h : K u) : K (runTrials op ts u) := by
  induction ts generalizing op u with
  | nil => exact k.finish _ _ h
  | cons t rest ih =>
    have asked {c : CellId} {a : Ask} {v : State} (hc : cellHolding (slotOf (releasePins .port u) op.slot) t.gen = some c)
        (e : askCache .port op.slot c t.gen (releasePins .port u) = (a, v)) : K v := by
      have held := k.ask hc (k.release h)
      rw [e] at held
      exact held
    unfold runTrials
    dsimp only
    split
    · exact ih k (k.release h)
    · rename_i c hc
      split <;> rename_i e
      · exact ih k (asked hc e)
      · exact k.finish _ _ (asked hc e)
      · exact k.exec rfl (asked hc e)
      · split
        · exact ih k (asked hc e)
        · exact k.place _ (k.exec rfl (asked hc e))

/-- What the answers and the trials of the command in flight need in order to keep `K`. -/
structure PortKeeps (K : State → Prop) : Prop where
  finish : ∀ {u} c b, K u → K (finish c b u)
  withdraw : ∀ {u}, K u → K (setLine .port none u)
  trials : ∀ {u} {op : UnprotectOp}, u.port.exec = .unprotect op → K u → TrialsKeep K op.slot

theorem portRefused_keeps (k : PortKeeps K) {c : Code} (h : K u) : K (portRefused c u) := by
  unfold portRefused
  split
  · split
    · exact k.finish _ _ h
    · exact h
  · rename_i op hx
    repeat' split
    · exact runTrials_keeps (k.trials hx h) h
    · exact k.finish _ _ h
    · exact h
  · split
    · exact k.finish _ _ h
    · exact h
  all_goals exact h

theorem protectCause_keeps (k : PortKeeps K) {op : ProtectOp} {w : Withhold} (h : K u) : K (protectCause op w u) := by
  unfold protectCause
  split
  · exact h
  · exact h
  · exact k.finish _ _ h
  · split
    · exact h
    · exact k.finish _ _ (k.withdraw h)

theorem activateCaused_keeps (k : PortKeeps K) {op : ActivateOp} {w : Withhold} (h : K u) : K (activateCaused op w u) := by
  unfold activateCaused
  split
  · exact h
  · exact h
  · split
    · exact h
    · exact k.finish _ _ h
  · split
    · exact h
    · exact k.finish _ _ (k.withdraw h)

theorem unprotectCause_keeps (k : PortKeeps K) {op : UnprotectOp} {w : Withhold} (hx : u.port.exec = .unprotect op) (h : K u) :
    K (unprotectCause op w u) := by
  unfold unprotectCause
  split
  · exact h
  · exact h
  · repeat' split
    · exact k.finish _ _ h
    · exact h
    · exact k.finish _ _ h
  · repeat' split
    · exact h
    · exact runTrials_keeps (k.trials hx h) (k.withdraw h)
    · exact k.finish _ _ (k.withdraw h)

theorem portReact_keeps (k : PortKeeps K) (h : K u) : K (portReact u) := by
  unfold portReact
  split
  · split
    · exact protectCause_keeps k h
    · exact h
  · rename_i hx
    split
    · exact unprotectCause_keeps k hx h
    · exact h
  · split
    · exact activateCaused_keeps k h
    · exact h
  all_goals exact h

theorem portJobGone_keeps (fin : ∀ {u} c b, K u → K (finish c b u)) (h : K u) : K (portJobGone u) := by
  rcases portJobGone_cases u with e | ⟨c, b, e⟩ <;> rw [e]
  · exact h
  · exact fin c b h

/-- What the end of a verification needs in order to keep `K`. -/
structure VerifKeeps (K : State → Prop) : Prop where
  renewal : ∀ {u} v ns, K u → K { u with renewal := v, notices := ns }
  released : ∀ {u}, K u → K (verifReleased u)

theorem endVerif_keeps (k : VerifKeeps K) (h : K u) : K (endVerif u) := by
  rw [endVerif_eq]
  exact k.renewal _ _ (k.released h)

theorem ctxFail_keeps (k : VerifKeeps K) {i : Fin 2} {c : Code} (h : K u) : K (ctxFail i c u) := by
  obtain ⟨r, ns, e⟩ := ctxFail_parts i c u
  rw [e]
  exact k.renewal _ _ h

theorem ctxIdle_keeps (k : VerifKeeps K) {i : Fin 2} (h : K u) : K (ctxIdle i u) := k.renewal _ u.notices h

theorem failVerif_keeps (k : VerifKeeps K) {c : Code} (h : K u) : K (failVerif c u) := by
  unfold failVerif
  split
  · exact h
  · exact ctxFail_keeps k (endVerif_keeps k h)

theorem dropVerif_keeps (k : VerifKeeps K) (h : K u) : K (dropVerif u) := by
  unfold dropVerif
  split
  · exact h
  · exact ctxIdle_keeps k (endVerif_keeps k h)

theorem renewalRefused_keeps (k : VerifKeeps K) (h : K u) : K (renewalRefused u) := by
  unfold renewalRefused
  repeat' split
  all_goals first | exact h | exact dropVerif_keeps k h | exact failVerif_keeps k h

theorem renewalReact_keeps (k : VerifKeeps K) (h : K u) : K (renewalReact u) := by
  unfold renewalReact
  repeat' split
  all_goals first | exact h | exact failVerif_keeps k h

/-! ### Causes -/

/-- The state as a cause has been given and the waiting fills that it ends are gone, before anyone is told. -/
def caused (w : Withhold) (p : Fin 32 → Nat → Bool) (s : State) : State :=
  let s := giveCause w (fun e => p e.slot e.gen) s
  { s with cache := { s.cache with waits := s.cache.waits.filter fun x => !p x.slot x.gen } }

/-- A waiting fill that the cause ends is the Port Executor's. -/
def endsPortWait (p : Fin 32 → Nat → Bool) (s : State) : Prop := ∃ x ∈ s.cache.waits, p x.slot x.gen = true ∧ x.port = true

/-- The holders of a fill are told that it ended, the Port Executor only with `toPort`. -/
theorem tellRefused_keeps (kv : VerifKeeps K) {toPort toRenewal : Bool} {c : Code}
    (port : toPort = true → ∀ {u}, K u → K (portRefused c u)) (h : K u) :
    K (tellHolders toPort toRenewal (portRefused c) renewalRefused u) := by
  have toldPort {v : State} (hv : K v) : K (if toPort = true then portRefused c v else v) := by
    split
    · rename_i told
      exact port told hv
    · exact hv
  have toldRenewal {v : State} (hv : K v) : K (if toRenewal = true then renewalRefused v else v) := by
    split
    · exact renewalRefused_keeps kv hv
    · exact hv
  unfold tellHolders tellBoth
  split
  · exact toldPort (toldRenewal h)
  · exact toldRenewal (toldPort h)

/-- What a cause needs in order to keep `K`, given `told` where it may reach the Port Executor. -/
theorem causes_keeps {w : Withhold} {p : Fin 32 → Nat → Bool} (kv : VerifKeeps K) (start : K (caused w p s))
    (told : Prop) (refused : told → ∀ {u} c, K u → K (portRefused c u))
    (waits : endsPortWait p s → told)
    (pins : ∀ {u} {e : Entry}, K u → e ∈ u.cache.entries → p e.slot e.gen = true → e.pinPort = true → told)
    (gone : ∀ {u} {e : Entry}, p e.slot e.gen = true → K u → K (removeEntry e.slot e.gen (dropFillRequest e u)))
    (react : ∀ {u}, K u → K (portReact u)) : K (causes w p s) := by
  have ended : K (endWaits w p (giveCause w (fun e => p e.slot e.gen) s)) := by
    refine tellRefused_keeps kv (fun ht => refused ?_ _) start
    obtain ⟨x, hx, hport⟩ := List.any_eq_true.1 ht
    obtain ⟨hx, hp⟩ := List.mem_filter.1 hx
    exact waits ⟨x, hx, hp, hport⟩
  refine renewalReact_keeps kv (react ?_)
  refine List.foldlRecOn (motive := K) _ withdrawCaused ended fun u hu e he => ?_
  obtain ⟨he, hp⟩ := List.mem_filter.1 he
  unfold withdrawCaused
  split
  · exact hu
  · split
    · exact tellRefused_keeps kv (fun ht => refused (pins ended he hp ht) _) (gone hp hu)
    · exact hu

theorem removeCounterJobs_keeps (fin : ∀ {u} c b, K u → K (finish c b u)) (queue : ∀ {u} q, K u → K (setQueue q u))
    {p : QJob → Bool} (h : K u) : K (removeCounterJobs p u) := by
  unfold removeCounterJobs
  dsimp only
  split
  · exact portJobGone_keeps fin (queue _ h)
  · exact queue _ h

end Sys2Proof.Machine
end

section
/-! PROOFS. A generation that leaves its cell: what is left of its entries, of the fills that wait for room and of its counter jobs
(R15, R23, R85, R91, R93). -/

namespace Sys2Proof.Machine

variable {r s t u : State} {i : Fin 32} {p : Nat → Prop} {w : Withhold}

/-! ### Pins -/

/-- An entry without a requester's pin, as its release leaves it before a cause removes it (R83, R92). -/
def unpinned (q : Requester) (e : Entry) : Entry :=
  match q with
  | .port =>
    if e.role = some .acceptOnly then { e with pinPort := false, n := none, resvPending := false }
    else { e with pinPort := false }
  | .renewal => { e with pinRenewal := false }

/-- An entry is held, or its fill runs. -/
def heldOrFilling (e : Entry) : Bool := pinned e || e.filling

theorem heldOrFilling_iff {e : Entry} :
    heldOrFilling e = true ↔ e.pinPort = true ∨ e.pinRenewal = true ∨ e.filling = true := by
  simp only [heldOrFilling, pinned, Bool.or_eq_true, or_assoc]

theorem unpinned_keeps (q : Requester) (e : Entry) : (unpinned q e).slot = e.slot ∧ (unpinned q e).gen = e.gen ∧
    (unpinned q e).withhold = e.withhold ∧ (unpinned q e).filling = e.filling := by
  cases q
  · unfold unpinned
    dsimp only
    split <;> exact ⟨rfl, rfl, rfl, rfl⟩
  · exact ⟨rfl, rfl, rfl, rfl⟩

/-- What is left of an entry at the release of a requester's pins: the entry without the pin where it is held on or has no cause; of a
cause that ends, SUSPENDED lets it go on (R83, R94). -/
theorem releaseEntry_cases {q : Requester} {e x : Entry} (h : releaseEntry q e = some x) :
    x = e ∨ x = unpinned q e ∧ (heldOrFilling x = true ∨ e.withhold = none) ∨
      x = { unpinned q e with withhold := none } ∧ e.withhold = some .suspended := by
  have cause := (unpinned_keeps q e).2.2.1
  unfold releaseEntry at h
  split at h
  · cases h; exact .inl rfl
  refine .inr ?_
  change (if heldOrFilling (unpinned q e) then _ else _) = _ at h
  split at h
  · rename_i held
    cases h
    exact .inl ⟨rfl, .inl held⟩
  · change (match (unpinned q e).withhold with | none => _ | some .suspended => _ | some _ => _) = _ at h
    rw [cause] at h
    split at h
    · rename_i hw
      cases h
      exact .inl ⟨rfl, .inr hw⟩
    · rename_i hw
      cases h
      exact .inr ⟨rfl, hw⟩
    · cases h

/-! ### Discarded entries -/

/-- What is left of an entry that the cause has met: held or FILLING, and carrying the cause or one above it. -/
def LeftOf (i : Fin 32) (p : Nat → Prop) (w : Withhold) (e : Entry) : Prop :=
  e.slot = i → p e.gen → (e.pinPort = true ∨ e.pinRenewal = true ∨ e.filling = true) ∧
    ∃ cause, e.withhold = some cause ∧ causeRank w ≤ causeRank cause

theorem leftOf_pin {q : Requester} {e : Entry} (h : LeftOf i p w e) : LeftOf i p w (pin q e) := by
  cases q <;> intro hs hp <;> obtain ⟨held, cause⟩ := h hs hp <;> refine ⟨?_, cause⟩
  · exact .inl rfl
  · exact .inr (.inl rfl)

/-- The release of a pin removes an entry with a cause that nothing holds any more (R83). -/
theorem leftOf_release {q : Requester} {e x : Entry} (hw : w ≠ .suspended) (hx : releaseEntry q e = some x)
    (h : LeftOf i p w e) : LeftOf i p w x := by
  obtain ⟨slot, gen, cause, -⟩ := unpinned_keeps q e
  rcases releaseEntry_cases hx with rfl | ⟨rfl, held⟩ | ⟨rfl, hc⟩
  · exact h
  · intro hs hp
    obtain ⟨-, c, hc, rank⟩ := h (slot ▸ hs) (gen ▸ hp)
    refine ⟨heldOrFilling_iff.1 (held.resolve_right (by rw [hc]; nofun)), c, cause.trans hc, rank⟩
  · intro hs hp
    obtain ⟨-, c, hc', rank⟩ := h (slot ▸ hs) (gen ▸ hp)
    cases hc.symm.trans hc'
    cases w
    case suspended => exact absurd rfl hw
    all_goals exact absurd rank (by decide)

theorem leftOf_addCause {e : Entry} (h : heldOrFilling e = true) : LeftOf i p w (addCause w e) := by
  intro _ _
  have held := heldOrFilling_iff.1 h
  unfold addCause
  split
  · exact ⟨held, w, rfl, le_rfl⟩
  · rename_i old hold
    split
    · exact ⟨held, w, rfl, le_rfl⟩
    · exact ⟨held, old, hold, by omega⟩

/-- No entry of the selected generations of a slot is usable, no fill of them waits, and no cell holds one of them. -/
structure Discarding (i : Fin 32) (p : Nat → Prop) (w : Withhold) (u : State) : Prop where
  entries : ∀ e ∈ u.cache.entries, LeftOf i p w e
  waits : ∀ x ∈ u.cache.waits, x.slot = i → ¬p x.gen
  cells : ∀ g c, cellHolding (slotOf u i) g = some c → ¬p g

theorem Discarding.discarded (h : Discarding i p w u) : Discarded u i p w := ⟨h.entries, h.waits⟩

/-- An operation that changes neither the slots nor a selected entry or wait, unless to release it. -/
theorem Discarding.of_cache (h : Discarding i p w s) (slots : t.slots = s.slots)
    (entries : ∀ x ∈ t.cache.entries, (∃ e ∈ s.cache.entries, LeftOf i p w e → LeftOf i p w x))
    (waits : ∀ x ∈ t.cache.waits, ∃ y ∈ s.cache.waits, x.slot = y.slot ∧ x.gen = y.gen) : Discarding i p w t := by
  refine ⟨fun x hx => ?_, fun x hx hs => ?_, fun g c hc => h.cells g c (slotOf_of_slots slots i ▸ hc)⟩
  · obtain ⟨e, he, left⟩ := entries x hx
    exact left (h.entries e he)
  · obtain ⟨y, hy, slot, gen⟩ := waits x hx
    rw [gen]
    exact h.waits y hy (slot ▸ hs)

theorem Discarding.of_eq (h : Discarding i p w s) (slots : t.slots = s.slots) (cache : t.cache = s.cache) :
    Discarding i p w t :=
  h.of_cache slots (fun x hx => ⟨x, cache ▸ hx, id⟩) fun x hx => ⟨x, cache ▸ hx, rfl, rfl⟩

theorem discarding_releasePins {q : Requester} (hw : w ≠ .suspended) (h : Discarding i p w s) :
    Discarding i p w (releasePins q s) := by
  refine h.of_cache rfl (fun x hx => ?_) fun x hx => ⟨x, hx, rfl, rfl⟩
  obtain ⟨e, he, released⟩ := List.mem_filterMap.1 hx
  exact ⟨e, he, leftOf_release hw released⟩

theorem discarding_portLetsGo (h : Discarding i p w s) : Discarding i p w (portLetsGo s) := by
  refine h.of_cache rfl (fun x hx => ⟨x, hx, id⟩) fun x hx => ?_
  obtain ⟨y, hy, rfl⟩ := List.mem_map.1 hx
  exact ⟨y, (List.mem_filter.1 hy).1, rfl, rfl⟩

theorem discarding_finish (hw : w ≠ .suspended) {c : Code} {b : List Byte} (h : Discarding i p w s) :
    Discarding i p w (finish c b s) :=
  (discarding_releasePins hw (discarding_portLetsGo h)).of_eq rfl rfl

theorem discarding_setLine {q : Requester} {j : Option EngineJob} (h : Discarding i p w s) :
    Discarding i p w (setLine q j s) := h.of_eq setLine_slots setLine_cache

theorem discarding_place {q : Requester} {j : EngineJob} (h : Discarding i p w s) : Discarding i p w (place q j s) :=
  h.of_eq place_slots place_cache

theorem discarding_removeEntry {j : Fin 32} {g : Nat} (h : Discarding i p w s) : Discarding i p w (removeEntry j g s) :=
  h.of_cache rfl (fun x hx => ⟨x, (List.mem_filter.1 hx).1, id⟩) fun x hx => ⟨x, hx, rfl, rfl⟩

theorem discarding_updEntry {j : Fin 32} {g : Nat} {f : Entry → Entry} (hf : ∀ e, LeftOf i p w e → LeftOf i p w (f e))
    (h : Discarding i p w s) : Discarding i p w (updEntry j g f s) := by
  refine h.of_cache rfl (fun x hx => ?_) fun x hx => ⟨x, hx, rfl, rfl⟩
  obtain ⟨e, he, rfl⟩ := List.mem_map.1 hx
  refine ⟨e, he, fun left => ?_⟩
  split
  · exact hf e left
  · exact left

/-- A fill begins for a generation that is not selected. -/
theorem discarding_beginFill {q : Requester} {j : Fin 32} {c : CellId} {g : Nat} (hg : j = i → ¬p g)
    (h : Discarding i p w s) : Discarding i p w (beginFill q j c g s) := by
  unfold beginFill
  split
  · rename_i v made
    obtain ⟨-, waits, entries, -⟩ := makePlace_spec made (kept_refl s)
    have placed : Discarding i p w v :=
      h.of_cache (calm_makePlace made (calm_refl s)).slots (fun x hx => ⟨x, entries.subset hx, id⟩)
        fun x hx => ⟨x, waits ▸ hx, rfl, rfl⟩
    refine discarding_place ⟨fun x hx => ?_, placed.waits, placed.cells⟩
    rcases List.mem_cons.1 hx with rfl | hx
    · exact fun hs hp => absurd hp (hg hs)
    · exact placed.entries x hx
  · refine ⟨h.entries, fun x hx hs => ?_, h.cells⟩
    rcases List.mem_append.1 hx with hx | hx
    · exact h.waits x hx hs
    · cases List.mem_singleton.1 hx
      exact hg hs

theorem discarding_takeHit {q : Requester} {e : Entry} (he : e ∈ s.cache.entries) (h : Discarding i p w s) :
    Discarding i p w (takeHit q e s) := by
  refine h.of_cache rfl (fun x hx => ?_) fun x hx => ⟨x, hx, rfl, rfl⟩
  rcases List.mem_cons.1 hx with rfl | hx
  · exact ⟨e, he, leftOf_pin⟩
  · exact ⟨x, (List.mem_filter.1 hx).1, id⟩

theorem discarding_askCache {q : Requester} {j : Fin 32} {c : CellId} {g : Nat}
    (hc : cellHolding (slotOf s j) g = some c) (h : Discarding i p w s) : Discarding i p w (askCache q j c g s).2 := by
  have free (hj : j = i) : ¬p g := h.cells g c (hj ▸ hc)
  unfold askCache
  repeat' split
  · exact h
  · exact h
  · exact discarding_updEntry (fun _ => leftOf_pin) h
  · exact h
  · rename_i he _ _ _
    exact discarding_takeHit (findEntry_mem he) h
  · refine h.of_cache rfl (fun x hx => ⟨x, hx, id⟩) fun x hx => ?_
    obtain ⟨y, hy, rfl⟩ := List.mem_map.1 hx
    refine ⟨y, hy, ?_⟩
    split
    · exact joinWait_keys q y
    · exact ⟨rfl, rfl⟩
  · exact discarding_beginFill free h

theorem portKeeps_discarding (hw : w ≠ .suspended) : PortKeeps (Discarding i p w) where
  finish _ _ h := discarding_finish hw h
  withdraw h := discarding_setLine h
  trials _ _ :=
    { finish := fun _ _ h => discarding_finish hw h
      release := fun h => discarding_releasePins hw h
      exec := fun _ h => h.of_eq rfl rfl
      place := fun _ h => discarding_place h
      ask := fun hc h => discarding_askCache hc h }

theorem discarding_withdrawFill {j : Fin 32} {c : CellId} {g : Nat} (h : Discarding i p w s) :
    Discarding i p w (withdrawFill j c g s) := by
  unfold withdrawFill
  repeat' split
  · exact h
  · exact discarding_setLine h
  · exact discarding_removeEntry h

theorem discarding_withdrawRenewal (h : Discarding i p w s) : Discarding i p w (withdrawRenewal s) := by
  unfold withdrawRenewal
  split
  · exact h
  · exact discarding_withdrawFill (discarding_setLine h)
  · exact discarding_setLine h

theorem discarding_orphanRenewal (h : Discarding i p w s) : Discarding i p w (orphanRenewal s) := by
  unfold orphanRenewal
  repeat' split
  all_goals first | with_reducible exact h | exact h.of_eq rfl rfl

theorem discarding_leaveWaits (h : Discarding i p w s) : Discarding i p w (leaveWaits s) := by
  refine h.of_cache rfl (fun x hx => ⟨x, hx, id⟩) fun x hx => ?_
  obtain ⟨y, hy, rfl⟩ := List.mem_map.1 hx
  exact ⟨y, (List.mem_filter.1 hy).1, rfl, rfl⟩

theorem verifKeeps_discarding (hw : w ≠ .suspended) : VerifKeeps (Discarding i p w) where
  renewal _ _ h := h.of_eq rfl rfl
  released h := discarding_releasePins hw (discarding_leaveWaits (discarding_orphanRenewal (discarding_withdrawRenewal h)))

theorem discarding_dropFillRequest {e : Entry} (h : Discarding i p w s) : Discarding i p w (dropFillRequest e s) := by
  unfold dropFillRequest
  dsimp -proj only
  repeat' split
  · exact discarding_setLine (discarding_setLine h)
  · exact discarding_setLine h
  · exact discarding_setLine h
  · exact h

end Sys2Proof.Machine
end

section
/-! PROOFS. The entries and counter jobs of a generation that leaves its cell, to the end of the completion (R15, R19, R23, R93). -/

namespace Sys2Proof.Machine

variable {r s t u : State} {i : Fin 32} {p : Nat → Prop} {w : Withhold}

theorem discarding_caused {b : Fin 32 → Nat → Bool} (hb : ∀ j g, b j g = true ↔ j = i ∧ p g) (hw : w ≠ .suspended)
    (cells : ∀ g c, cellHolding (slotOf s i) g = some c → ¬p g) : Discarding i p w (caused w b s) := by
  refine ⟨fun x hx => ?_, fun x hx hs hp => ?_, cells⟩
  · obtain ⟨e, -, he⟩ := List.mem_filterMap.1 hx
    split at he
    · rename_i free
      cases he
      intro hs hp
      simp [(hb _ _).2 ⟨hs, hp⟩] at free
    · split at he
      · rename_i held
        cases he
        exact leftOf_addCause held
      · cases he
  · obtain ⟨-, free⟩ := List.mem_filter.1 hx
    simp [(hb _ _).2 ⟨hs, hp⟩] at free

/-- A cause on the generations of a slot that no cell of it holds discards their entries (R85, R91). -/
theorem discarding_causes {b : Fin 32 → Nat → Bool} (hb : ∀ j g, b j g = true ↔ j = i ∧ p g) (hw : w ≠ .suspended)
    (cells : ∀ g c, cellHolding (slotOf s i) g = some c → ¬p g) : Discarding i p w (causes w b s) :=
  have port := portKeeps_discarding (i := i) (p := p) hw
  causes_keeps (verifKeeps_discarding hw) (discarding_caused hb hw cells) True (fun _ {_} _ h => portRefused_keeps port h)
    (fun _ => trivial) (fun _ _ _ _ => trivial) (fun _ h => discarding_removeEntry (discarding_dropFillRequest h))
    (fun h => portReact_keeps port h)

theorem discarding_removeCounterJobs {f : QJob → Bool} (hw : w ≠ .suspended) (h : Discarding i p w s) :
    Discarding i p w (removeCounterJobs f s) :=
  removeCounterJobs_keeps (fun _ _ h => discarding_finish hw h) (fun _ h => h.of_eq rfl rfl) h

/-! ### Counter jobs -/

theorem isCounterFor_iff {c : CellId} {q : QJob} :
    isCounterFor i c q = true ↔ (∃ g v, q.job = .reserve i c g v) ∨ ∃ g v, q.job = .highWater i c g v := by
  have reserve : isReserveFor i c q = true ↔ ∃ g v, q.job = .reserve i c g v := by
    unfold isReserveFor
    split <;> rename_i h <;> simp [h]
    intro g v hj
    exact h _ _ _ _ hj
  rw [isCounterFor, Bool.or_eq_true, isHighFor_iff, reserve, or_comm]

/-- The jobs that are left are some of those that were queued, where they change only in their waiter. -/
def JobsOf (s : State) (f : QJob → Bool) (t : State) : Prop :=
  ∀ q ∈ t.writer.queue, ∃ x ∈ s.writer.queue, f x = false ∧ q.job = x.job

/-- The removed jobs are gone from the queue, also where the command that waits on one is answered (R23). -/
theorem jobsOf_removeCounterJobs (f : QJob → Bool) (s : State) : JobsOf s f (removeCounterJobs f s) := by
  have removed : JobsOf s f (setQueue (s.writer.queue.filter fun q => !f q) s) := by
    intro q hq
    obtain ⟨hq, hf⟩ := List.mem_filter.1 hq
    exact ⟨q, hq, by simpa using hf, rfl⟩
  unfold removeCounterJobs
  dsimp only
  split
  · refine portJobGone_keeps (K := JobsOf s f) (fun {u} _ _ h q hq => ?_) removed
    obtain ⟨x, hx, rfl⟩ := List.mem_map.1 hq
    exact h x hx
  · exact removed

theorem noCounterJob_removeCounterJobs {f : QJob → Bool} {c : CellId} (hf : ∀ q, isCounterFor i c q = true → f q = true) :
    NoCounterJob (removeCounterJobs f s) i c := by
  intro q hq g v
  obtain ⟨x, -, hx, same⟩ := jobsOf_removeCounterJobs f s q hq
  have free : isCounterFor i c x ≠ true := fun h => by rw [hf x h] at hx; cases hx
  rw [same]
  exact ⟨fun h => free (isCounterFor_iff.2 (.inl ⟨g, v, h⟩)), fun h => free (isCounterFor_iff.2 (.inr ⟨g, v, h⟩))⟩

theorem noCounterJob_finish {c : CellId} {k : Code} {b : List Byte} (h : NoCounterJob s i c) :
    NoCounterJob (finish k b s) i c := by
  intro q hq
  obtain ⟨x, hx, rfl⟩ := List.mem_map.1 hq
  exact h x hx

theorem NoCounterJob.of_queue {c : CellId} (h : NoCounterJob s i c) (hq : t.writer.queue = s.writer.queue) :
    NoCounterJob t i c := by
  rw [NoCounterJob, hq]
  exact h

end Sys2Proof.Machine
end

section
/-! PROOFS. A completed job: what its effect, the answers to its requesters and the comparison after an ARM_RECORD leave outside the
slot it names (R12, R152, R160, R171). -/

namespace Sys2Proof.Machine

variable {r s t u : State}

/-! ### The effect on a slot -/

/-- What a job that names a slot leaves: device state, monitor, Association List, strip position, and the contexts but for that of a
verification in hand, which may have ended. -/
structure OffSlot (s t : State) : Prop where
  device : t.device = s.device
  assocs : t.assocs = s.assocs
  monitor : t.monitor = s.monitor
  nextStrip : t.writer.nextStrip = s.writer.nextStrip
  verif : ∀ i, Verifies t i → Verifies s i
  ctxs : ∀ i, ¬Verifies s i → ctxOf t i = ctxOf s i

theorem offSlot_refl (s : State) : OffSlot s s := ⟨rfl, rfl, rfl, rfl, fun _ => id, fun _ _ => rfl⟩

theorem OffSlot.trans (h : OffSlot r s) (k : OffSlot s t) : OffSlot r t :=
  ⟨k.device.trans h.device, k.assocs.trans h.assocs, k.monitor.trans h.monitor, k.nextStrip.trans h.nextStrip,
    fun i hi => h.verif i (k.verif i hi), fun i hi => (k.ctxs i fun hs => hi (h.verif i hs)).trans (h.ctxs i hi)⟩

theorem offSlot_of_frames (b : Beside s t) (a : Aside s t) : OffSlot s t :=
  ⟨b.device, b.assocs, b.monitor, b.nextStrip, fun _ => a.verifies, a.ctxs⟩

/-- Slots, cache, engine, port and notices may change. -/
theorem offSlot_parts {slots cache engine port notices} (s : State) :
    OffSlot s { s with slots, cache, engine, port, notices } := ⟨rfl, rfl, rfl, rfl, fun _ => id, fun _ _ => rfl⟩

theorem offSlot_updSlot (i : Fin 32) (f : SlotImg → SlotImg) (s : State) : OffSlot s (updSlot i f s) := offSlot_parts s

theorem offSlot_genLeaves (i : Fin 32) (c : CellId) (g : Nat) (s : State) : OffSlot s (genLeaves i c g s) :=
  offSlot_of_frames (beside_genLeaves (beside_refl s)) (aside_genLeaves i c g s)

theorem offSlot_finish (c : Code) (b : List Byte) (s : State) : OffSlot s (finish c b s) :=
  offSlot_of_frames (beside_finish (beside_refl s)) (calm_finish (calm_refl s)).aside

theorem offSlot_doneStage (i : Fin 32) (b : GenRecord) (f : Nat) (both : Bool) (s : State) :
    OffSlot s (doneStage i b f both s) := by
  have displaced (c : CellId) (before : SlotImg) (u : State) : OffSlot u (stageDisplaced i c before u) := by
    unfold stageDisplaced
    split
    · exact offSlot_refl u
    · dsimp only
      split
      · exact (offSlot_parts u).trans (offSlot_genLeaves _ _ _ _)
      · exact offSlot_genLeaves _ _ _ _
  unfold doneStage
  dsimp only
  split
  · exact (offSlot_updSlot i _ s).trans (offSlot_of_frames (beside_removeCounterJobs (beside_refl _))
      (calm_removeCounterJobs (calm_refl _)).aside)
  · exact (offSlot_updSlot i _ s).trans (displaced _ _ _)

theorem offSlot_activatePrevious (i : Fin 32) (kept : Bool) (y : Option (CellId × CellImg)) (s : State) :
    OffSlot s (activatePrevious i kept y s) := by
  unfold activatePrevious
  split
  · exact offSlot_refl s
  · dsimp only
    split
    · exact offSlot_parts s
    · exact offSlot_genLeaves _ _ _ _

theorem offSlot_raiseVerifyOnly (i : Fin 32) (c : CellId) (g : Nat) (s : State) : OffSlot s (raiseVerifyOnly i c g s) := by
  rcases raiseVerifyOnly_cases i c g s with h | h <;> rw [h]
  · exact offSlot_refl s
  · exact offSlot_parts s

theorem offSlot_activation (i : Fin 32) (gen hour : Nat) (c : CellId) (x : CellImg) (s : State) :
    OffSlot s (activation i gen hour c x s) :=
  (((offSlot_updSlot i _ s).trans (offSlot_activatePrevious i _ _ _)).trans (offSlot_raiseVerifyOnly i c gen _)).trans
    (offSlot_parts _)

theorem offSlot_doneActivate (i : Fin 32) (gen hour : Nat) (port : Bool) (s : State) :
    OffSlot s (doneActivate i gen hour port s) := by
  cases h : genWith (slotOf s i) .staged with
  | none => simp only [doneActivate, h]; exact offSlot_refl s
  | some y =>
    obtain ⟨c, x⟩ := y
    rw [doneActivate_eq h]
    split
    · exact (offSlot_activation i gen hour c x s).trans (offSlot_finish _ _ _)
    · exact offSlot_activation i gen hour c x s

theorem offSlot_doneOverlapEnd (i : Fin 32) (gen : Nat) (cause : OvlCause) (s : State) :
    OffSlot s (doneOverlapEnd i gen cause s) := by
  unfold doneOverlapEnd
  split
  · exact offSlot_refl s
  · exact (offSlot_parts s).trans (offSlot_genLeaves _ _ _ _)

theorem offSlot_doneRevoke (i : Fin 32) (unbind : Bool) (s : State) : OffSlot s (doneRevoke i unbind s) :=
  (offSlot_parts s).trans (offSlot_of_frames (beside_slotErased (beside_refl _)) (aside_slotErased i _))

theorem offSlot_doneHeader (i : Fin 32) (b : Option Binding) (p : Policy) (m : CounterMode) (s : State) :
    OffSlot s (doneHeader i b p m s) := by
  unfold doneHeader
  dsimp only
  split
  · refine (offSlot_parts s).trans (offSlot_of_frames (beside_flushRequests (beside_markFlush (beside_refl _))) ?_)
    exact (calm_flushRequests (calm_parts (calm_refl _))).aside
  · exact offSlot_parts s

theorem offSlot_doneEffect {q : QJob} {i : Fin 32} (h : jobSlot q.job = some i) (hour : Nat) (both : Bool) (s : State) :
    OffSlot s (doneEffect q hour both s) := by
  unfold doneEffect
  split
  · exact offSlot_doneStage _ _ _ _ s
  · exact offSlot_doneActivate _ _ _ _ s
  · exact offSlot_doneOverlapEnd _ _ _ s
  · exact offSlot_doneRevoke _ _ s
  · exact offSlot_parts s
  · exact offSlot_parts s
  · exact offSlot_doneHeader _ _ _ _ s
  · exact offSlot_parts s
  · exact offSlot_parts s
  iterate 4 rename_i hj; rw [hj] at h; cases h
  · exact offSlot_refl s
  · exact offSlot_refl s

end Sys2Proof.Machine
end

section
/-! PROOFS. The end of a completion: the context of the job, the comparison after an ARM_RECORD, and what both leave (R152, R160,
R171). -/

namespace Sys2Proof.Machine

variable {r s t u : State}

/-! ### A DONE context and its notice -/

/-- The context is as it became with its last job, and the notice of its end stands. -/
structure DoneCtx (i : Fin 2) (x : Ctx) (n : Notice) (s : State) : Prop where
  state : x.state = .done
  key : noticeKey n = .renewalFinished i
  ctx : ctxOf s i = x
  notice : n ∈ s.notices
  unverified : ¬Verifies s i

variable {i j : Fin 2} {x : Ctx} {n : Notice}

theorem DoneCtx.aside (h : DoneCtx i x n s) (k : Aside s t) : DoneCtx i x n t := by
  refine ⟨h.state, h.key, (k.ctxs i h.unverified).trans h.ctx, k.notices n h.notice ?_, fun ht => h.unverified (k.verifies ht)⟩
  rintro ⟨l, key, hl⟩
  cases h.key.symm.trans key
  exact h.unverified hl

theorem DoneCtx.of_eq (h : DoneCtx i x n s) (ctxs : t.renewal.ctxs = s.renewal.ctxs)
    (verif : t.renewal.verif = s.renewal.verif) (notice : n ∈ t.notices) : DoneCtx i x n t :=
  ⟨h.state, h.key, (ctxOf_congr ctxs i).trans h.ctx, notice, by rw [Verifies, verif]; exact h.unverified⟩

theorem DoneCtx.raise (h : DoneCtx i x n s) {m : Notice} (hm : noticeKey m ≠ .renewalFinished i) :
    DoneCtx i x n (raise m s) :=
  h.of_eq rfl rfl (mem_raiseIn_of_ne h.notice fun e => hm (e.symm.trans h.key))

/-- Another context that fails leaves the DONE one. -/
theorem doneCtx_ctxFail (hj : i ≠ j) {c : Code} (h : DoneCtx i x n s) : DoneCtx i x n (ctxFail j c s) :=
  ⟨h.state, h.key, (ctxOf_ctxFail_other hj).trans h.ctx,
    mem_raiseIn_of_ne h.notice fun e => by cases h.key.symm.trans e; exact hj rfl, h.unverified⟩

theorem doneCtx_endCtx (c : Code) (w : Bool) (j : Fin 2) (h : DoneCtx i x n s) : DoneCtx i x n (endCtx c w s j) := by
  by_cases hj : i = j
  · subst hj
    rw [endCtx_ended (.inl (.inr (.inl (by rw [h.ctx, h.state]))))]
    exact h
  unfold endCtx
  split
  · exact doneCtx_ctxFail hj h
  · exact doneCtx_ctxFail hj (h.of_eq (t := leaveQueue j s) rfl rfl h.notice)
  · split
    · exact h.aside (aside_dropVerif s)
    · exact h.aside (aside_failVerif c s)
  · split
    · exact doneCtx_ctxFail hj (h.of_eq rfl rfl h.notice)
    · exact h
  all_goals exact h

theorem doneCtx_tamperEvent (origin : Origin) (h : DoneCtx i x n s) : DoneCtx i x n (tamperEvent origin s) := by
  have barred : DoneCtx i x n (eventBarred origin s) :=
    (h.of_eq (t := setBars _ (handList _ _ s)) rfl rfl h.notice).raise nofun
  refine DoneCtx.aside ?_ (aside_eventEnd origin s)
  rw [tamperCtxs_eq]
  exact doneCtx_endCtx _ _ _ (doneCtx_endCtx _ _ _ barred)

/-! ### The comparison after an ARM_RECORD (R171) -/

/-- What a comparison leaves: slots, Association List and the arm record in force. -/
structure Compared (s t : State) : Prop where
  slots : t.slots = s.slots
  assocs : t.assocs = s.assocs
  monitor : ∃ b, t.monitor = { s.monitor with matching := b }

theorem compared_tamperEvent (origin : Origin) (b : Bool) (s : State) :
    Compared s (tamperEvent origin { s with monitor := { s.monitor with matching := b } }) := by
  have met (v : State) : Beside (eventBarred origin v) (tamperEvent origin v) := by
    rw [tamperEvent_eq]
    unfold eventMet
    rw [tamperCtxs_eq]
    exact beside_voidJobs (beside_causes (beside_causes ((beside_endCtx _ _ _ 0).trans (beside_endCtx _ _ _ 1))))
  have slots (v : State) : (tamperEvent origin v).slots = v.slots := by
    rw [(aside_eventEnd origin v).slots, tamperCtxs_eq, (ctxFrame_endCtx _ _ _ 1).slots, (ctxFrame_endCtx _ _ _ 0).slots]
    rfl
  exact ⟨slots _, (met _).assocs, b, (met _).monitor⟩

theorem compareLive_cases (s : State) : compareLive s = s ∨
    (∃ b, compareLive s = { s with monitor := { s.monitor with matching := b } }) ∨
    compareLive s = tamperEvent .live { s with monitor := { s.monitor with matching := false } } := by
  unfold compareLive compareNow
  repeat' split
  · exact .inr (.inl ⟨_, rfl⟩)
  · exact .inr (.inr rfl)
  · exact .inl rfl
  · exact .inl rfl

theorem compared_compareLive (s : State) : Compared s (compareLive s) := by
  rcases compareLive_cases s with e | ⟨b, e⟩ | e <;> rw [e]
  · exact ⟨rfl, rfl, s.monitor.matching, rfl⟩
  · exact ⟨rfl, rfl, b, rfl⟩
  · exact compared_tamperEvent .live false s

theorem doneCtx_compareLive (h : DoneCtx i x n s) : DoneCtx i x n (compareLive s) := by
  rcases compareLive_cases s with e | ⟨b, e⟩ | e <;> rw [e]
  · exact h
  · exact h.of_eq rfl rfl h.notice
  · exact doneCtx_tamperEvent .live (h.of_eq rfl rfl h.notice)

end Sys2Proof.Machine
end

section
/-! PROOFS. What the rest of a completion leaves of the effect of its job (R12, R152). -/

namespace Sys2Proof.Machine

variable {r s t u : State} {q : QJob} {hour : Nat} {both : Bool}

/-- The state after the completion of a queued job, as the command of its last write leaves it. -/
def completed (q : QJob) (hour : Nat) (both : Bool) (s : State) : State := portSettle (completeJob q hour both s)

theorem completed_of_not_arm (h : isArm q.job = false) :
    completed q hour both s = portSettle (tellContext q (tellPort q (doneEffect q hour both s))) := by
  rw [completed, completeJob_of_not_arm h]

/-- Where no command waits on the job, its context alone is told. -/
theorem completed_untold (h : isArm q.job = false) (hp : q.port = false ∨ (doneEffect q hour both s).port.exec = .free) :
    completed q hour both s = portSettle (tellContext q (doneEffect q hour both s)) := by
  rw [completed_of_not_arm h, tellPort_unanswered hp]

/-! ### Slots, list and monitor -/

theorem beside_completed (h : isArm q.job = false) : Beside (doneEffect q hour both s) (completed q hour both s) := by
  rw [completed_of_not_arm h]
  exact beside_portSettle (beside_tellContext (beside_tellPort (beside_refl _)))

theorem slotBecomes_completed {i : Fin 32} {img : SlotImg} (h : isArm q.job = false)
    (core : slotCore (slotOf (doneEffect q hour both s) i) = slotCore img)
    (mark : (slotOf (doneEffect q hour both s) i).quarantined = img.quarantined) :
    SlotBecomes (completed q hour both s) i img := by
  have shape := slotShape_completed (s := s) (hour := hour) (both := both) h i
  refine ⟨?_, ?_⟩
  · rw [← core, ← slotCore_slotShape, ← slotCore_slotShape (slotOf (doneEffect q hour both s) i)]
    exact congrArg slotCore shape
  · have same := congrArg SlotImg.quarantined shape
    exact same.trans mark

theorem slots_tellContext (q : QJob) (s : State) : (tellContext q s).slots = s.slots := (tellContext_keeps q s).2.2.2.2

theorem slots_portSettle (s : State) : (portSettle s).slots = s.slots := (portSettle_settled s).slots

theorem slots_completed_untold (h : isArm q.job = false) (hp : q.port = false ∨ (doneEffect q hour both s).port.exec = .free) :
    (completed q hour both s).slots = (doneEffect q hour both s).slots := by
  rw [completed_untold h hp, slots_portSettle, slots_tellContext]

/-- A cell is as its job leaves it where it holds a generation without an activation, which has no wear. -/
theorem cellOf_completed {i : Fin 32} {c : CellId} {x : CellImg} (h : isArm q.job = false)
    (hx : cellOf (slotOf (doneEffect q hour both s) i) c = some x) (ha : x.activation = none) :
    cellOf (slotOf (completed q hour both s) i) c = some x := by
  have shape := congrArg (cellOf · c) (slotShape_completed (s := s) (hour := hour) (both := both) h i)
  simp only [cellOf_slotShape, hx, Option.map_some] at shape
  obtain ⟨y, hy, same⟩ := Option.map_eq_some_iff.1 shape
  have fresh (z : CellImg) (hz : z.activation = none) : cellShape z = z := by simp [cellShape, hz]
  rw [fresh x ha] at same
  have hz : y.activation = none := by
    have act : (cellShape y).activation = y.activation := by unfold cellShape; split <;> rfl
    rw [← act, same, ha]
  rw [fresh y hz] at same
  exact hy.trans (congrArg some same)

/-! ### Notices -/

theorem mem_tellContext {n : Notice} (hn : n ∈ s.notices) (hk : ∀ i, noticeKey n ≠ .renewalFinished i) :
    n ∈ (tellContext q s).notices := by
  unfold tellContext ctxJobDone
  dsimp -proj only
  repeat' split
  all_goals first | exact hn | exact mem_raiseIn_of_ne hn (hk _)

theorem notices_portSettle (s : State) : (portSettle s).notices = s.notices := (calm_portSettle (calm_refl s)).notices

/-- A notice of the effect stays, unless it tells of wear or of a context (R198). -/
theorem mem_completed {n : Notice} (h : isArm q.job = false) (hn : n ∈ (doneEffect q hour both s).notices)
    (hw : ∀ i, noticeKey n ≠ .wearChanged i) (hk : ∀ i, noticeKey n ≠ .renewalFinished i) :
    n ∈ (completed q hour both s).notices := by
  rw [completed_of_not_arm h, notices_portSettle]
  exact mem_tellContext ((told_tellPort q _).notices n hn hw) hk

/-! ### Cache and queue -/

/-- A predicate that the end of a context and the answer in FAULTED keep is kept by the rest of the completion. -/
theorem completed_keeps {K : State → Prop} (h : isArm q.job = false)
    (hp : q.port = false ∨ (doneEffect q hour both s).port.exec = .free)
    (renewal : ∀ {u} v ns, K u → K { u with renewal := v, notices := ns })
    (fin : ∀ {u} c b, K u → K (finish c b u)) (start : K (doneEffect q hour both s)) : K (completed q hour both s) := by
  rw [completed_untold h hp]
  obtain ⟨v, ns, e⟩ := tellContext_parts q (doneEffect q hour both s)
  have told : K (tellContext q (doneEffect q hour both s)) := by
    rw [e]
    exact renewal v ns start
  rcases portSettle_cases (tellContext q (doneEffect q hour both s)) with e | e <;> rw [e]
  · exact told
  · exact fin _ _ told

theorem doneEffect_arm {record : ArmRecord} (h : q.job = .armRecord record) (hour : Nat) (both : Bool) (s : State) :
    doneEffect q hour both s = doneArm record s := by simp only [doneEffect, h]

/-- Outside FAULTED the rest of the completion leaves cache and queue where no command waits on the job. -/
theorem cache_completed (h : isArm q.job = false) (hp : q.port = false ∨ (doneEffect q hour both s).port.exec = .free)
    (hd : (doneEffect q hour both s).device ≠ .faulted) :
    (completed q hour both s).cache = (doneEffect q hour both s).cache ∧
      (completed q hour both s).writer = (doneEffect q hour both s).writer := by
  have device : (tellContext q (doneEffect q hour both s)).device ≠ .faulted := by
    rw [(beside_tellContext (beside_refl _)).device]
    exact hd
  obtain ⟨cache, -, writer, -, -⟩ := tellContext_keeps q (doneEffect q hour both s)
  rw [completed_untold h hp, portSettle_of_not_faulted device]
  exact ⟨cache, writer⟩

end Sys2Proof.Machine
end

section
/-! PROOFS. The slot, the entry or the record that a completed job changes, and those it leaves (R10, R15 to R22, R38, R46, R51, R70
to R72, R160). -/

namespace Sys2Proof.Machine

variable {r s t u : State} {q : QJob} {hour : Nat} {both : Bool} {i : Fin 32}

/-! ### SUSPEND, RESUME, HEADER and the counter jobs -/

theorem suspend_completed (h : q.job = .suspend i) :
    SlotBecomes (completed q hour both s) i { slotOf s i with suspended := true } := by
  have effect : doneEffect q hour both s = doneSuspend i true s := by simp only [doneEffect, h]
  refine slotBecomes_completed (by rw [h]; rfl) ?_ ?_ <;> rw [effect, doneSuspend, slotOf_setSlot]

theorem resume_completed (h : q.job = .resume i) :
    SlotBecomes (completed q hour both s) i { slotOf s i with suspended := false } := by
  have effect : doneEffect q hour both s = doneSuspend i false s := by simp only [doneEffect, h]
  refine slotBecomes_completed (by rw [h]; rfl) ?_ ?_ <;> rw [effect, doneSuspend, slotOf_setSlot]

/-- The slot with its header as a HEADER writes it. -/
def headed (b : Option Binding) (p : Policy) (m : CounterMode) (img : SlotImg) : SlotImg :=
  { img with binding := b, policy := p, mode := m }

theorem doneHeader_eq (b : Option Binding) (p : Policy) (m : CounterMode) (s : State) : doneHeader i b p m s =
    if (slotOf s i).mode = .writeBack && m = .writeThrough then
      flushRequests (markFlush (fun e => e.slot == i) (setSlot s i (headed b p m (slotOf s i))))
    else setSlot s i (headed b p m (slotOf s i)) := rfl

theorem slotOf_doneHeader (b : Option Binding) (p : Policy) (m : CounterMode) (j : Fin 32) (s : State) :
    slotOf (doneHeader i b p m s) j = slotOf (setSlot s i (headed b p m (slotOf s i))) j := by
  rw [doneHeader_eq]
  split
  · rw [slotOf_of_slots (calm_flushRequests (calm_refl _)).slots, slotOf_of_slots (markFlush_frame _ _).1]
  · rfl

theorem header_completed {b : Option Binding} {p : Policy} {m : CounterMode} (h : q.job = .header i b p m) :
    SlotBecomes (completed q hour both s) i { slotOf s i with binding := b, policy := p, mode := m } := by
  have effect : doneEffect q hour both s = doneHeader i b p m s := by simp only [doneEffect, h]
  refine slotBecomes_completed (by rw [h]; rfl) ?_ ?_ <;> rw [effect, slotOf_doneHeader, slotOf_setSlot] <;> rfl

theorem slotOf_doneReserve (c : CellId) (g v : Nat) (s : State) : slotOf (doneReserve i c g v s) i =
    setCell (slotOf s i) c ((cellOf (slotOf s i) c).map fun x => { x with ceiling := max x.ceiling v }) := slotOf_setSlot

theorem slotOf_doneHigh (c : CellId) (g v : Nat) (s : State) : slotOf (doneHigh i c g v s) i =
    setCell (slotOf s i) c ((cellOf (slotOf s i) c).map fun x => { x with highWater := max x.highWater v }) := slotOf_setSlot

theorem reserve_completed {c : CellId} {g v : Nat} {x : CellImg} (h : q.job = .reserve i c g v)
    (hx : cellOf (slotOf s i) c = some x) : SlotBecomes (completed q hour both s) i
      (setCell (slotOf s i) c (some { x with ceiling := max x.ceiling v })) := by
  have effect : doneEffect q hour both s = doneReserve i c g v s := by simp only [doneEffect, h]
  refine slotBecomes_completed (by rw [h]; rfl) ?_ ?_ <;> rw [effect, slotOf_doneReserve, hx] <;> rfl

theorem highWater_completed {c : CellId} {g v : Nat} {x : CellImg} (h : q.job = .highWater i c g v)
    (hx : cellOf (slotOf s i) c = some x) : SlotBecomes (completed q hour both s) i
      (setCell (slotOf s i) c (some { x with highWater := max x.highWater v })) := by
  have effect : doneEffect q hour both s = doneHigh i c g v s := by simp only [doneEffect, h]
  refine slotBecomes_completed (by rw [h]; rfl) ?_ ?_ <;> rw [effect, slotOf_doneHigh, hx] <;> rfl

/-! ### STAGE, OVERLAP_END and REVOKE_SLOT -/

theorem slotCore_settleMarks (img : SlotImg) : slotCore (settleMarks img) = slotCore img := rfl

theorem slotCore_stagedSlot (c : CellId) (b : GenRecord) (f : Nat) (img : SlotImg) :
    slotCore (stagedSlot c b f img) =
      slotCore { setCell img c (some (stagedImg b f)) with floor := b.params.generation, quarantined := false } := by
  cases c <;> rfl

/-- A STAGE that its take found the slot QUARANTINED for: cell A holds its generation, cell B is EMPTY (R15, log entry 45). -/
theorem stage_both_completed {target : Binding} {b : GenRecord} {f : Nat} (h : q.job = .stage i target b f) :
    (slotOf (completed q hour true s) i).cellA = some (stagedImg b f) ∧
    SlotBecomes (completed q hour true s) i { slotOf s i with
      floor := b.params.generation, cellA := some (stagedImg b f), cellB := none, quarantined := false } := by
  have effect : doneEffect q hour true s = doneStage i b f true s := by simp only [doneEffect, h]
  have arm : isArm q.job = false := by rw [h]; rfl
  refine ⟨cellOf_completed (c := .a) arm ?_ rfl, slotBecomes_completed arm ?_ ?_⟩
  · rw [effect, slotOf_doneStage_both]; rfl
  · rw [effect, slotOf_doneStage_both]; rfl
  · rw [effect, slotOf_doneStage_both]; rfl

theorem stage_completed {target : Binding} {b : GenRecord} {f : Nat} {c : CellId} (h : q.job = .stage i target b f)
    (hc : StagesInto { slotOf s i with quarantined := false } c) :
    cellOf (slotOf (completed q hour false s) i) c = some (stagedImg b f) ∧
    SlotBecomes (completed q hour false s) i { setCell (slotOf s i) c (some (stagedImg b f)) with
      floor := b.params.generation, quarantined := false } := by
  have effect : doneEffect q hour false s = doneStage i b f false s := by simp only [doneEffect, h]
  have arm : isArm q.job = false := by rw [h]; rfl
  have slot : slotOf (doneEffect q hour false s) i = settleMarks (stagedSlot c b f (slotOf s i)) := by
    rw [effect, slotOf_doneStage, stageTarget_of_stagesInto hc]
  refine ⟨cellOf_completed arm ?_ rfl, slotBecomes_completed arm ?_ ?_⟩
  · rw [slot]
    exact cellOf_stagedSlot c b f _
  · rw [slot, slotCore_settleMarks, slotCore_stagedSlot]
  · rw [slot]; rfl

theorem overlapEnd_completed {c : CellId} {x : CellImg} {g : Nat} {cause : OvlCause} (h : q.job = .overlapEnd i g cause)
    (hx : genWith (slotOf s i) .overlap = some (c, x)) :
    SlotBecomes (completed q hour both s) i (setCell (slotOf s i) c none) := by
  have effect : doneEffect q hour both s = doneOverlapEnd i g cause s := by simp only [doneEffect, h]
  refine slotBecomes_completed (by rw [h]; rfl) ?_ ?_ <;> rw [effect, slotOf_doneOverlapEnd hx] <;> rfl

theorem revoke_completed {unbind : Bool} (h : q.job = .revokeSlot i unbind) :
    SlotBecomes (completed q hour both s) i { slotOf s i with
      binding := if unbind then none else (slotOf s i).binding, cellA := none, cellB := none, quarantined := false } := by
  have effect : doneEffect q hour both s = doneRevoke i unbind s := by simp only [doneEffect, h]
  refine slotBecomes_completed (by rw [h]; rfl) ?_ ?_ <;> rw [effect, slotOf_doneRevoke] <;> rfl

theorem revoke_marks {unbind : Bool} (h : q.job = .revokeSlot i unbind) :
    (slotOf (completed q hour both s) i).graceProgress = 0 ∧ (slotOf (completed q hour both s) i).actDue = none ∧
      (slotOf (completed q hour both s) i).ovlDue = none := by
  have effect : slotOf (doneEffect q hour both s) i = revokeImg unbind (slotOf s i) := by
    simp only [doneEffect, h, slotOf_doneRevoke]
  have shape := slotShape_completed (q := q) (s := s) (hour := hour) (both := both) (by rw [h]; rfl) i
  rw [effect] at shape
  have progress := congrArg SlotImg.graceProgress shape
  have act := congrArg SlotImg.actDue shape
  have ovl := congrArg SlotImg.ovlDue shape
  exact ⟨progress, act, ovl⟩

/-! ### Slots that a job does not name -/

theorem slotOf_updSlot_other {j : Fin 32} {f : SlotImg → SlotImg} (h : i ≠ j) : slotOf (updSlot j f s) i = slotOf s i :=
  slotOf_setSlot_other h

theorem slotOf_activation_other {j : Fin 32} {g : Nat} {c : CellId} {x : CellImg} (h : i ≠ j) :
    slotOf (activation j g hour c x s) i = slotOf s i := by
  have previous (y : Option (CellId × CellImg)) (kept : Bool) (f : SlotImg → SlotImg) :
      slotOf (activatePrevious j kept y (updSlot j f s)) i = slotOf s i := by
    rw [slotOf_of_slots (slots_activatePrevious _ _ _ _), slotOf_updSlot_other h]
  change slotOf (raiseVerifyOnly j c g _) i = _
  rcases raiseVerifyOnly_cases j c g (activatePrevious j ((genWith (slotOf s j) .current).isSome && !noGrace x.params)
    (genWith (slotOf s j) .current)
    (updSlot j (activated hour c ((genWith (slotOf s j) .current).isSome && !noGrace x.params)) s)) with e | e <;> rw [e]
  · exact previous _ _ _
  · rw [clearUnused, slotOf_setSlot_other h]
    exact previous _ _ _

theorem slotOf_doneActivate_other {j : Fin 32} {g : Nat} {port : Bool} (h : i ≠ j) :
    slotOf (doneActivate j g hour port s) i = slotOf s i := by
  cases hg : genWith (slotOf s j) .staged with
  | none => simp only [doneActivate, hg]
  | some y =>
    obtain ⟨c, x⟩ := y
    rw [doneActivate_eq hg]
    split
    · rw [slotOf_finish, slotOf_activation_other h]
    · exact slotOf_activation_other h

theorem slotOf_doneStage_other {j : Fin 32} {b : GenRecord} {f : Nat} (h : i ≠ j) :
    slotOf (doneStage j b f both s) i = slotOf s i := by
  unfold doneStage
  dsimp only
  split
  · rw [slotOf_of_slots (calm_removeCounterJobs (calm_refl _)).slots, slotOf_updSlot_other h]
  · rw [slotOf_of_slots (aside_stageDisplaced _ _ _ _), slotOf_updSlot_other h]

theorem slotOf_doneOverlapEnd_other {j : Fin 32} {g : Nat} {cause : OvlCause} (h : i ≠ j) :
    slotOf (doneOverlapEnd j g cause s) i = slotOf s i := by
  unfold doneOverlapEnd
  split
  · rfl
  · rename_i c x _
    rw [slotOf_of_slots (aside_genLeaves _ _ _ _).slots]
    change slotOf (updSlot j (fun img => setCell img c none) s) i = _
    exact slotOf_updSlot_other h

theorem slotOf_doneRevoke_other {j : Fin 32} {unbind : Bool} (h : i ≠ j) :
    slotOf (doneRevoke j unbind s) i = slotOf s i := by
  rw [doneRevoke, slotOf_of_slots (aside_slotErased _ _).slots, slotOf_setSlot_other h]

/-- A job leaves every slot that it does not name. -/
theorem slotOf_doneEffect_other (h : jobSlot q.job ≠ some i) : slotOf (doneEffect q hour both s) i = slotOf s i := by
  have named {j : Fin 32} (hj : jobSlot q.job = some j) : i ≠ j := by
    rintro rfl
    exact h hj
  unfold doneEffect
  split <;> rename_i hj <;> rw [hj] at named
  · exact slotOf_doneStage_other (named rfl)
  · exact slotOf_doneActivate_other (named rfl)
  · exact slotOf_doneOverlapEnd_other (named rfl)
  · exact slotOf_doneRevoke_other (named rfl)
  · exact slotOf_setSlot_other (named rfl)
  · exact slotOf_setSlot_other (named rfl)
  · rw [slotOf_doneHeader, slotOf_setSlot_other (named rfl)]
  · exact slotOf_setSlot_other (named rfl)
  · exact slotOf_setSlot_other (named rfl)
  · rfl
  · unfold doneAssociation
    dsimp only
    split <;> rfl
  · rfl
  · rfl

/-- A repair changes no slot image (R188). -/
theorem slotOf_doneEffect_repair (h : (∃ c, q.job = .cellRepair i c) ∨ q.job = .floorRepair i) :
    slotOf (doneEffect q hour both s) i = slotOf s i := by
  rcases h with ⟨c, h⟩ | h <;> simp only [doneEffect, h]

/-! ### ARM_RECORD -/

theorem completed_arm {record : ArmRecord} (h : q.job = .armRecord record) :
    completed q hour both s = portSettle (compareLive (tellContext q (tellPort q (doneArm record s)))) := by
  rw [completed, completeJob_eq, doneEffect_arm h, h]
  rfl

/-- The comparison and the answers leave of the new record's state what they leave of any (R160, R171). -/
theorem monitor_completed_arm {record : ArmRecord} (h : q.job = .armRecord record) :
    ∃ b, (completed q hour both s).monitor = { (doneArm record s).monitor with matching := b } := by
  obtain ⟨b, monitor⟩ := (compared_compareLive (tellContext q (tellPort q (doneArm record s)))).monitor
  refine ⟨b, ?_⟩
  rw [completed_arm h, (beside_portSettle (beside_refl _)).monitor, monitor,
    (beside_tellContext (beside_tellPort (beside_refl (doneArm record s)))).monitor]

theorem assocs_completed_arm {record : ArmRecord} (h : q.job = .armRecord record) :
    (completed q hour both s).assocs = s.assocs := by
  rw [completed_arm h, (beside_portSettle (beside_refl _)).assocs, (compared_compareLive _).assocs,
    (beside_tellContext (beside_tellPort (beside_refl (doneArm record s)))).assocs]
  rfl

theorem slotBecomes_completed_arm {record : ArmRecord} (h : q.job = .armRecord record) (i : Fin 32) :
    SlotBecomes (completed q hour both s) i (slotOf s i) := by
  have shape : slotShape (slotOf (completed q hour both s) i) = slotShape (slotOf s i) := by
    rw [completed_arm h, slotOf_of_slots (slots_portSettle _), slotOf_of_slots (compared_compareLive _).slots,
      slotOf_of_slots (slots_tellContext _ _)]
    exact (told_tellPort q (doneArm record s)).shapes i
  refine ⟨?_, ?_⟩
  · rw [← slotCore_slotShape, shape, slotCore_slotShape]
  · have same := congrArg SlotImg.quarantined shape
    exact same

theorem isArm_iff {j : StoreJob} : isArm j = true ↔ ∃ record, j = .armRecord record := by
  cases j <;> simp [isArm]

/-- Every slot that the job does not name, or names for a repair, stays (R12, R188). -/
theorem otherSlots_completed (h : jobSlot q.job ≠ some i ∨ (∃ c, q.job = .cellRepair i c) ∨ q.job = .floorRepair i) :
    SlotBecomes (completed q hour both s) i (slotOf s i) := by
  cases arm : isArm q.job with
  | true =>
    obtain ⟨record, hj⟩ := isArm_iff.1 arm
    exact slotBecomes_completed_arm hj i
  | false =>
    have slot : slotOf (doneEffect q hour both s) i = slotOf s i :=
      h.elim slotOf_doneEffect_other slotOf_doneEffect_repair
    exact slotBecomes_completed arm (by rw [slot]) (by rw [slot])

/-! ### The Association List, the strip and the monitor -/

theorem assocOf_completed (h : isArm q.job = false) (j : Fin 8) :
    assocOf (completed q hour both s) j = assocOf (doneEffect q hour both s) j :=
  congrArg (fun v : Vector AssocImg 8 => v[j]) (beside_completed h).assocs

/-- The resolved entry is one that `Resolves` describes. -/
theorem resolves_resolveEnrol (s : State) (j : Fin 8) (choices : Roles RoleChoice) :
    Resolves s j choices (resolveEnrol s j choices) := by
  intro r
  rw [resolveEnrol, roleGet_rolesOf]
  refine ⟨fun slot p m h => ?_, fun h => ?_, fun h => ?_⟩ <;> rw [h] <;> rfl

theorem emptied_completed {j : Fin 8} (h : q.job = .association j .empty) :
    assocOf (completed q hour both s) j = .blank (assocOf s j).floor := by
  rw [assocOf_completed (by rw [h]; rfl)]
  simp only [doneEffect, h]
  exact assocOf_setAssoc

theorem enrol_completed {j : Fin 8} {party : Id64} {cls : PartyClass} {choices : Roles RoleChoice}
    (h : q.job = .association j (.enrol party cls choices)) : assocOf (completed q hour both s) j =
      ⟨.active, some (party, cls), resolveEnrol s j choices, some ((assocOf s j).floor.getD 0)⟩ := by
  rw [assocOf_completed (by rw [h]; rfl)]
  simp only [doneEffect, h]
  exact assocOf_setAssoc

theorem bundleFloor_completed {j : Fin 8} {p : Id64} {c : PartyClass} {v : Nat} (h : q.job = .bundleFloor j p c v) :
    assocOf (completed q hour both s) j = { assocOf s j with floor := some v } := by
  rw [assocOf_completed (by rw [h]; rfl)]
  simp only [doneEffect, h]
  exact assocOf_setAssoc

theorem jobSlot_none {j : StoreJob} (h : jobSlot j = none) : j = .hour ∨ (∃ k form, j = .association k form) ∨
    (∃ k p c v, j = .bundleFloor k p c v) ∨ ∃ record, j = .armRecord record := by
  cases j <;> simp_all [jobSlot]

/-- An entry stays where the job is none of its own. -/
theorem otherEntries_completed {j : Fin 8} (ha : ∀ form, q.job ≠ .association j form)
    (hb : ∀ p c v, q.job ≠ .bundleFloor j p c v) : assocOf (completed q hour both s) j = assocOf s j := by
  cases arm : isArm q.job with
  | true =>
    obtain ⟨record, hj⟩ := isArm_iff.1 arm
    exact congrArg (fun v : Vector AssocImg 8 => v[j]) (assocs_completed_arm hj)
  | false =>
    rw [assocOf_completed arm]
    cases hs : jobSlot q.job with
    | some i => exact congrArg (fun v : Vector AssocImg 8 => v[j]) (offSlot_doneEffect hs hour both s).assocs
    | none =>
      rcases jobSlot_none hs with hj | ⟨k, form, hj⟩ | ⟨k, p, c, v, hj⟩ | ⟨record, hj⟩
      · simp only [doneEffect, hj]; rfl
      · have other : j ≠ k := by rintro rfl; exact ha form hj
        cases form <;> simp only [doneEffect, hj] <;> exact assocOf_setAssoc_other other
      · simp only [doneEffect, hj]
        exact assocOf_setAssoc_other (by rintro rfl; exact hb p c v hj)
      · rw [hj] at arm; cases arm

theorem monitor_completed (h : isArm q.job = false) : (completed q hour both s).monitor = s.monitor := by
  rw [(beside_completed h).monitor]
  cases hs : jobSlot q.job with
  | some i => exact (offSlot_doneEffect hs hour both s).monitor
  | none =>
    rcases jobSlot_none hs with hj | ⟨k, form, hj⟩ | ⟨k, p, c, v, hj⟩ | ⟨record, hj⟩
    · simp only [doneEffect, hj]; rfl
    · cases form <;> simp only [doneEffect, hj] <;> rfl
    · simp only [doneEffect, hj]; rfl
    · rw [hj] at h; cases h

theorem hour_completed (h : q.job = .hour) :
    (completed q hour both s).writer.nextStrip = s.writer.nextStrip + 1 := by
  rw [(beside_completed (by rw [h]; rfl)).nextStrip]
  simp only [doneEffect, h]
  rfl

end Sys2Proof.Machine
end

section
/-! PROOFS. The generations that a completed STAGE, OVERLAP_END, REVOKE_SLOT or ACTIVATE takes from their cells (R15 to R19, R23, R24,
R93). -/

namespace Sys2Proof.Machine

variable {r s t u : State} {q : QJob} {hour : Nat} {both : Bool} {i : Fin 32} {c : CellId} {g : Nat}

/-- The generation has left its cell, and stays so while commands and contexts are told. -/
structure GenGone (i : Fin 32) (c : CellId) (g : Nat) (u : State) : Prop where
  discarding : cellHolding (slotOf u i) g = none → Discarding i (· = g) .retired u
  counters : NoCounterJob u i c

theorem GenGone.left (h : GenGone i c g u) : GenLeft u i c g := ⟨fun hc => (h.discarding hc).discarded, h.counters⟩

theorem genGone_genLeaves (i : Fin 32) (c : CellId) (g : Nat) (s : State) : GenGone i c g (genLeaves i c g s) := by
  refine ⟨fun hc => ?_, noCounterJob_removeCounterJobs fun _ => id⟩
  rw [slotOf_of_slots (aside_genLeaves i c g s).slots] at hc
  refine discarding_removeCounterJobs nofun (discarding_causes (fun j k => ?_) nofun fun k d hk hg => ?_)
  · simp
  · subst hg
    rw [hc] at hk
    cases hk

theorem GenGone.of_parts (h : GenGone i c g s) (holds : cellHolding (slotOf t i) g = cellHolding (slotOf s i) g)
    (discarding : Discarding i (· = g) .retired s → Discarding i (· = g) .retired t)
    (counters : NoCounterJob s i c → NoCounterJob t i c) : GenGone i c g t :=
  ⟨fun hc => discarding (h.discarding (holds ▸ hc)), counters h.counters⟩

theorem genGone_finish {k : Code} {b : List Byte} (h : GenGone i c g s) : GenGone i c g (finish k b s) :=
  h.of_parts rfl (fun d => discarding_finish (by decide) d) noCounterJob_finish

theorem genGone_completed (h : isArm q.job = false) (hp : q.port = false ∨ (doneEffect q hour both s).port.exec = .free)
    (k : GenGone i c g (doneEffect q hour both s)) : GenGone i c g (completed q hour both s) :=
  completed_keeps h hp (fun _ _ k => k.of_parts rfl (fun d => d.of_eq rfl rfl) fun n => n.of_queue rfl)
    (fun _ _ => genGone_finish) k

theorem noCounterJob_completed (h : isArm q.job = false)
    (hp : q.port = false ∨ (doneEffect q hour both s).port.exec = .free)
    (k : NoCounterJob (doneEffect q hour both s) i c) : NoCounterJob (completed q hour both s) i c :=
  completed_keeps (K := fun u => NoCounterJob u i c) h hp (fun _ _ k => k.of_queue rfl) (fun _ _ => noCounterJob_finish) k

theorem mem_genLeaves {n : Notice} (hn : n ∈ s.notices) (hk : ∀ j, noticeKey n ≠ .renewalFinished j) :
    n ∈ (genLeaves i c g s).notices :=
  (aside_genLeaves i c g s).notices n hn fun ⟨j, key, _⟩ => hk j key

/-! ### STAGE (R15) -/

/-- The slot's images as a STAGE has put its generation into a cell. -/
def stagePut (i : Fin 32) (c : CellId) (b : GenRecord) (f : Nat) (s : State) : State := updSlot i (stagedSlot c b f) s

theorem doneStage_displaces {b : GenRecord} {f : Nat} {x : CellImg}
    (hc : StagesInto { slotOf s i with quarantined := false } c) (hx : cellOf (slotOf s i) c = some x) :
    doneStage i b f false s = genLeaves i c x.params.generation
      (if roleIn (slotOf s i) c = some .overlap then
        raise (.overlapEnded i x.params.generation .superseded) (stagePut i c b f s)
      else stagePut i c b f s) := by
  have target := stageTarget_of_stagesInto hc
  have cell : cellOf { slotOf s i with quarantined := false } c = some x := hx
  simp only [doneStage, target, Bool.false_eq_true, if_false, stageDisplaced, cell]
  rfl

theorem stage_left {target : Binding} {b : GenRecord} {f : Nat} {x : CellImg} (h : q.job = .stage i target b f)
    (hc : StagesInto { slotOf s i with quarantined := false } c) (hx : cellOf (slotOf s i) c = some x) :
    (q.port = false → GenLeft (completed q hour false s) i c x.params.generation) ∧
    (roleIn (slotOf s i) c = some .overlap →
      Notice.overlapEnded i x.params.generation .superseded ∈ (completed q hour false s).notices) := by
  have arm : isArm q.job = false := by rw [h]; rfl
  have effect : doneEffect q hour false s = _ :=
    (by simp only [doneEffect, h] : doneEffect q hour false s = doneStage i b f false s).trans (doneStage_displaces hc hx)
  refine ⟨fun hp => (genGone_completed arm (.inl hp) ?_).left, fun hr => mem_completed arm ?_ nofun nofun⟩
  · rw [effect]
    exact genGone_genLeaves _ _ _ _
  · rw [effect, if_pos hr]
    exact mem_genLeaves (mem_raiseIn _ _) nofun

theorem stage_both_left {target : Binding} {b : GenRecord} {f : Nat} (h : q.job = .stage i target b f)
    (hp : q.port = false) : NoCounterJob (completed q hour true s) i .a ∧ NoCounterJob (completed q hour true s) i .b := by
  have arm : isArm q.job = false := by rw [h]; rfl
  have effect : doneEffect q hour true s = doneStage i b f true s := by simp only [doneEffect, h]
  have removed (c : CellId) : NoCounterJob (doneStage i b f true s) i c := by
    simp only [doneStage, if_true]
    refine noCounterJob_removeCounterJobs fun q hq => ?_
    cases c <;> simp [hq]
  exact ⟨noCounterJob_completed arm (.inl hp) (effect ▸ removed .a), noCounterJob_completed arm (.inl hp) (effect ▸ removed .b)⟩

/-! ### OVERLAP_END and REVOKE_SLOT (R18, R19) -/

theorem overlapEnd_left {x : CellImg} {cause : OvlCause} (h : q.job = .overlapEnd i g cause)
    (hx : genWith (slotOf s i) .overlap = some (c, x)) :
    (q.port = false → GenLeft (completed q hour both s) i c g) ∧
    Notice.overlapEnded i g cause ∈ (completed q hour both s).notices := by
  have arm : isArm q.job = false := by rw [h]; rfl
  have effect : doneEffect q hour both s = genLeaves i c g
      (raise (.overlapEnded i g cause) (updSlot i (fun img => setCell img c none) s)) := by
    simp only [doneEffect, h, doneOverlapEnd, hx]
  refine ⟨fun hp => (genGone_completed arm (.inl hp) ?_).left, mem_completed arm ?_ nofun nofun⟩ <;> rw [effect]
  · exact genGone_genLeaves _ _ _ _
  · exact mem_genLeaves (mem_raiseIn _ _) nofun

/-- Every entry of a revoked slot is discarded (R19, R93). -/
structure SlotGone (i : Fin 32) (u : State) : Prop where
  discarding : Discarding i (fun _ => True) .erased u
  counters : ∀ c, NoCounterJob u i c

theorem slotGone_slotErased (h : ∀ g, cellHolding (slotOf s i) g = none) : SlotGone i (slotErased i s) := by
  refine ⟨discarding_removeCounterJobs nofun (discarding_causes (fun j k => ?_) nofun fun k d hk _ => ?_), fun c => ?_⟩
  · simp
  · rw [h] at hk
    cases hk
  · refine noCounterJob_removeCounterJobs fun q hq => ?_
    cases c <;> simp [hq]

theorem revoke_left {unbind : Bool} (h : q.job = .revokeSlot i unbind) (hp : q.port = false) :
    Discarded (completed q hour both s) i (fun _ => True) .erased ∧ NoCounterJob (completed q hour both s) i .a ∧
      NoCounterJob (completed q hour both s) i .b := by
  have arm : isArm q.job = false := by rw [h]; rfl
  have effect : doneEffect q hour both s = slotErased i (setSlot s i (revokeImg unbind (slotOf s i))) := by
    simp only [doneEffect, h, doneRevoke]
  have gone : SlotGone i (completed q hour both s) := by
    refine completed_keeps arm (.inl hp) (fun _ _ k => ⟨k.discarding.of_eq rfl rfl, fun c => (k.counters c).of_queue rfl⟩)
      (fun _ _ k => ⟨discarding_finish (by decide) k.discarding, fun c => noCounterJob_finish (k.counters c)⟩) ?_
    rw [effect]
    refine slotGone_slotErased fun k => ?_
    rw [slotOf_setSlot]
    rfl
  exact ⟨gone.discarding.discarded, gone.counters .a, gone.counters .b⟩

end Sys2Proof.Machine
end

section
/-! PROOFS. A completed ACTIVATE: the slot, the notice, and the previous current generation where it leaves its cell (R7, R16, R17,
R24). -/

namespace Sys2Proof.Machine

variable {r s t u : State} {q : QJob} {hour : Nat} {both : Bool} {i : Fin 32} {c : CellId} {x : CellImg} {gen : Nat}

/-- The previous current generation stays as overlap (R17). -/
def keepsPrevious (x : CellImg) (img : SlotImg) : Bool := (genWith img .current).isSome && !noGrace x.params

theorem doneEffect_activate (h : q.job = .activate i gen) (hx : genWith (slotOf s i) .staged = some (c, x)) :
    doneEffect q hour both s = if q.port then finish .ok (activateBody i gen (genNumber (slotOf s i) .current)
        (keepsPrevious x (slotOf s i))) (activation i gen hour c x s)
      else activation i gen hour c x s := by
  simp only [doneEffect, h, doneActivate_eq hx]
  rfl

/-- An ACTIVATE command is answered by the effect, so that none waits afterwards (R158). -/
theorem activate_untold (h : q.job = .activate i gen) (hx : genWith (slotOf s i) .staged = some (c, x)) :
    q.port = false ∨ (doneEffect q hour both s).port.exec = .free := by
  cases hp : q.port with
  | false => exact .inl rfl
  | true =>
    refine .inr ?_
    rw [doneEffect_activate h hx, hp]
    rfl

/-- What the effect of the job gives and an answer keeps, the completion keeps. -/
theorem activate_keeps {K : State → Prop} (h : q.job = .activate i gen)
    (hx : genWith (slotOf s i) .staged = some (c, x))
    (renewal : ∀ {u} v ns, K u → K { u with renewal := v, notices := ns })
    (fin : ∀ {u} k b, K u → K (finish k b u)) (start : K (activation i gen hour c x s)) : K (completed q hour both s) := by
  refine completed_keeps (by rw [h]; rfl) (activate_untold h hx) renewal fin ?_
  rw [doneEffect_activate h hx]
  split
  · exact fin _ _ start
  · exact start

/-! ### The slot (R16, R17) -/

theorem slotOf_completed_activate (h : q.job = .activate i gen) (hx : genWith (slotOf s i) .staged = some (c, x)) :
    slotOf (completed q hour both s) i = slotOf (activation i gen hour c x s) i := by
  rw [slotOf_of_slots (slots_completed_untold (by rw [h]; rfl) (activate_untold h hx)), doneEffect_activate h hx]
  split
  · exact slotOf_finish
  · rfl

/-- The cell of the activated generation: its stamp, the hour of the take, and wear 0. -/
def stamped (stamp hour : Nat) (x : CellImg) : CellImg := { x with activation := some ⟨stamp, hour⟩, wear := some 0 }

variable {img : SlotImg} {p : CellId} {y : CellImg} {a : Activation}

theorem activated_first (hx : genWith img .staged = some (c, x)) (hn : genWith img .current = none) :
    activated hour c (keepsPrevious x img) img = { setCell img c (some (stamped 1 hour x)) with graceProgress := 0 } := by
  simp only [activated, activatedImg, nextStamp, hn, Option.map_none, (genWith_cell hx).2, Option.map_some]
  rfl

theorem nextStamp_of_current (hy : genWith img .current = some (p, y)) (ha : y.activation = some a) :
    nextStamp img = a.stamp + 1 := by
  simp only [nextStamp, hy, ha, Option.map_some, Option.getD_some]

theorem activated_kept (hx : genWith img .staged = some (c, x)) (hy : genWith img .current = some (p, y))
    (ha : y.activation = some a) (hg : noGrace x.params = false) : activated hour c (keepsPrevious x img) img =
      { setCell img c (some (stamped (a.stamp + 1) hour x)) with graceProgress := 0 } := by
  have kept : keepsPrevious x img = true := by simp [keepsPrevious, hy, hg]
  simp only [activated, activatedImg, nextStamp_of_current hy ha, kept, hy, (genWith_cell hx).2, Option.map_some, if_true]
  rfl

/-- The current and the staged generation are in different cells. -/
theorem current_ne_staged (hx : genWith img .staged = some (c, x)) (hy : genWith img .current = some (p, y)) : p ≠ c := by
  rintro rfl
  have staged := genWith_role hx
  rw [genWith_role hy] at staged
  cases staged

theorem cellOf_setCell_ne {d : CellId} {z : Option CellImg} (h : d ≠ c) : cellOf (setCell img d z) c = cellOf img c := by
  cases d <;> cases c <;> first | rfl | exact absurd rfl h

theorem activated_gone (hx : genWith img .staged = some (c, x)) (hy : genWith img .current = some (p, y))
    (ha : y.activation = some a) (hg : noGrace x.params = true) : activated hour c (keepsPrevious x img) img =
      { setCell (setCell img p none) c (some (stamped (a.stamp + 1) hour x)) with graceProgress := 0 } := by
  have kept : keepsPrevious x img = false := by simp [keepsPrevious, hg]
  have cell : cellOf (setCell img p none) c = some x :=
    (cellOf_setCell_ne (current_ne_staged hx hy)).trans (genWith_cell hx).2
  simp only [activated, activatedImg, nextStamp_of_current hy ha, kept, hy, cell, Option.map_some, Bool.false_eq_true,
    if_false]
  rfl

theorem slotOf_activation_cases : slotOf (activation i gen hour c x s) i =
      settleMarks (activated hour c (keepsPrevious x (slotOf s i)) (slotOf s i)) ∨
    slotOf (activation i gen hour c x s) i =
      setCell (settleMarks (activated hour c (keepsPrevious x (slotOf s i)) (slotOf s i))) c
        ((cellOf (settleMarks (activated hour c (keepsPrevious x (slotOf s i)) (slotOf s i))) c).map fun x =>
          { x with unused := false }) := slotOf_activation i gen hour c x s

/-- The slot takes its image as activated, but for the unused mark of the new current generation. -/
theorem slotBecomes_activate {stamp : Nat} (h : q.job = .activate i gen)
    (hx : genWith (slotOf s i) .staged = some (c, x))
    (he : activated hour c (keepsPrevious x (slotOf s i)) (slotOf s i) =
      { setCell img c (some (stamped stamp hour x)) with graceProgress := 0 }) :
    SlotBecomes (completed q hour both s) i (setCell img c (some { x with activation := some ⟨stamp, hour⟩ })) := by
  have core : slotCore { setCell img c (some (stamped stamp hour x)) with graceProgress := 0 } =
      slotCore (setCell img c (some { x with activation := some ⟨stamp, hour⟩ })) := by cases c <;> rfl
  have mark : ({ setCell img c (some (stamped stamp hour x)) with graceProgress := 0 } : SlotImg).quarantined =
      (setCell img c (some { x with activation := some ⟨stamp, hour⟩ })).quarantined := by cases c <;> rfl
  rw [SlotBecomes, slotOf_completed_activate h hx, ← core, ← mark, ← he]
  rcases slotOf_activation_cases (i := i) (gen := gen) (hour := hour) (c := c) (x := x) (s := s) with e | e <;> rw [e]
  · exact ⟨rfl, rfl⟩
  · refine ⟨slotCore_setCell ?_, setCell_quarantined⟩
    rw [Option.map_map]
    rfl

theorem wear_activate {stamp : Nat} (h : q.job = .activate i gen) (hx : genWith (slotOf s i) .staged = some (c, x))
    (he : activated hour c (keepsPrevious x (slotOf s i)) (slotOf s i) =
      { setCell img c (some (stamped stamp hour x)) with graceProgress := 0 }) :
    (cellOf (slotOf (completed q hour both s) i) c).map (·.wear) = some (some 0) := by
  have cell : cellOf (settleMarks (activated hour c (keepsPrevious x (slotOf s i)) (slotOf s i))) c =
      some (stamped stamp hour x) := by
    rw [he]
    cases c <;> rfl
  rw [slotOf_completed_activate h hx]
  rcases slotOf_activation_cases (i := i) (gen := gen) (hour := hour) (c := c) (x := x) (s := s) with e | e <;> rw [e]
  · rw [cell]; rfl
  · rw [cellOf_setCell, cell]; rfl

theorem graceProgress_activate (h : q.job = .activate i gen) (hx : genWith (slotOf s i) .staged = some (c, x)) :
    (slotOf (completed q hour both s) i).graceProgress = 0 := by
  rw [slotOf_completed_activate h hx, graceProgress_activation]

/-! ### The notice and the previous generation (R17, R24, R93) -/

/-- The state as the slot is activated and the previous generation kept or gone. -/
def stampedState (i : Fin 32) (hour : Nat) (c : CellId) (x : CellImg) (s : State) : State :=
  activatePrevious i (keepsPrevious x (slotOf s i)) (genWith (slotOf s i) .current)
    (updSlot i (activated hour c (keepsPrevious x (slotOf s i))) s)

theorem activation_eq : activation i gen hour c x s =
    raise (.activated i gen ((genWith (slotOf s i) .current).map fun y => y.2.params.generation)
      (keepsPrevious x (slotOf s i))) (raiseVerifyOnly i c gen (stampedState i hour c x s)) := rfl

theorem notice_activate (h : q.job = .activate i gen) (hx : genWith (slotOf s i) .staged = some (c, x)) :
    Notice.activated i gen ((genWith (slotOf s i) .current).map fun y => y.2.params.generation)
      (keepsPrevious x (slotOf s i)) ∈ (completed q hour both s).notices := by
  refine mem_completed (by rw [h]; rfl) ?_ nofun nofun
  rw [doneEffect_activate h hx]
  split
  · exact mem_raiseIn _ _
  · exact mem_raiseIn _ _

theorem cellHolding_congr {img jmg : SlotImg} {g : Nat}
    (ha : img.cellA.any (fun x => x.params.generation == g) = jmg.cellA.any fun x => x.params.generation == g)
    (hb : img.cellB.any (fun x => x.params.generation == g) = jmg.cellB.any fun x => x.params.generation == g) :
    cellHolding img g = cellHolding jmg g := by
  unfold cellHolding
  rw [ha, hb]

theorem cellHolding_clearUnused (g : Nat) :
    cellHolding (slotOf (clearUnused i c s) i) g = cellHolding (slotOf s i) g := by
  have any (z : Option CellImg) : (z.map fun x => { x with unused := false }).any (fun x => x.params.generation == g) =
      z.any fun x => x.params.generation == g := by cases z <;> rfl
  rw [clearUnused_slot]
  cases c
  · exact cellHolding_congr (any _) rfl
  · exact cellHolding_congr rfl (any _)

theorem discarding_clearUnused {P : Nat → Prop} {w : Withhold} (h : Discarding i P w s) :
    Discarding i P w (clearUnused i c s) :=
  ⟨h.entries, h.waits, fun g d hd => h.cells g d (cellHolding_clearUnused g ▸ hd)⟩

theorem genGone_raiseVerifyOnly {d : CellId} {g k : Nat} (h : GenGone i d g s) : GenGone i d g (raiseVerifyOnly i c k s) := by
  rcases raiseVerifyOnly_cases i c k s with e | e <;> rw [e]
  · exact h
  · refine h.of_parts (cellHolding_clearUnused g) (fun gone => discarding_clearUnused (discarding_updEntry ?_ gone))
      fun counters => counters.of_queue rfl
    exact fun _ left => left

theorem activate_left (h : q.job = .activate i gen) (hx : genWith (slotOf s i) .staged = some (c, x))
    (hy : genWith (slotOf s i) .current = some (p, y)) (hg : noGrace x.params = true) :
    GenLeft (completed q hour both s) i p y.params.generation := by
  have kept : keepsPrevious x (slotOf s i) = false := by simp [keepsPrevious, hg]
  have gone : GenGone i p y.params.generation (stampedState i hour c x s) := by
    rw [stampedState, hy, kept]
    exact genGone_genLeaves _ _ _ _
  refine (activate_keeps (K := GenGone i p y.params.generation) h hx
    (fun _ _ k => k.of_parts rfl (fun d => d.of_eq rfl rfl) fun n => n.of_queue rfl) (fun _ _ => genGone_finish) ?_).left
  rw [activation_eq]
  exact (genGone_raiseVerifyOnly gone).of_parts rfl (fun d => d.of_eq rfl rfl) fun n => n.of_queue rfl

end Sys2Proof.Machine
end

section
/-! PROOFS. The entry that waits to become ACTIVE while the previous generation of its slot leaves its cell (R79, R85, R92, R93). -/

namespace Sys2Proof.Machine

variable {r s t u : State} {i : Fin 32} {g : Nat} {e : Entry} {q : Requester}

/-! ### An entry that waits -/

/-- A READY entry without a cause, of the role and values of `e`. -/
structure Awaits (e x : Entry) : Prop where
  role : x.role = some .verifyOnly
  key : x.key = e.key
  h : x.h = e.h
  dirty : x.dirty = e.dirty
  flushReq : x.flushReq = e.flushReq
  withhold : x.withhold = none
  filling : x.filling = false

theorem awaits_pin {x : Entry} (h : Awaits e x) : Awaits e (pin q x) := by
  cases q <;> exact ⟨h.role, h.key, h.h, h.dirty, h.flushReq, h.withhold, h.filling⟩

/-- What releasing pins makes of an entry without a cause (R83). -/
theorem releaseEntry_of_uncaused {x : Entry} (q : Requester) (h : x.withhold = none) :
    ∃ y, releaseEntry q x = some y ∧ (y = x ∨ y = unpinned q x) := by
  have cause := (unpinned_keeps q x).2.2.1.trans h
  unfold releaseEntry
  split
  · exact ⟨x, rfl, .inl rfl⟩
  · refine ⟨unpinned q x, ?_, .inr rfl⟩
    change (if heldOrFilling (unpinned q x) then some (unpinned q x) else
      match (unpinned q x).withhold with
      | none => some (unpinned q x)
      | some .suspended => some { unpinned q x with withhold := none }
      | some _ => none) = _
    rw [cause]
    split <;> rfl

theorem findEntry_releasePins {x : Entry} (hx : findEntry s i g = some x) (h : x.withhold = none) :
    ∃ y, findEntry (releasePins q s) i g = some y ∧ (y = x ∨ y = unpinned q x) := by
  obtain ⟨y, hy, eq⟩ := releaseEntry_of_uncaused q h
  exact ⟨y, find?_filterMap_key (fun _ _ hab => (releaseEntry_key hab).1) hx hy, eq⟩

theorem awaits_unpinned {x : Entry} (h : Awaits e x) : Awaits e (unpinned q x) := by
  obtain ⟨role, key, high, dirty, flush, cause, ready⟩ := h
  cases q
  · have other : x.role ≠ some .acceptOnly := by rw [role]; nofun
    simp only [unpinned, if_neg other]
    exact ⟨role, key, high, dirty, flush, cause, ready⟩
  · exact ⟨role, key, high, dirty, flush, cause, ready⟩

/-- The cache holds the entry that waits, and no fill of it is asked for by the Renewal Engine. -/
structure Waiting (i : Fin 32) (g : Nat) (e : Entry) (u : State) : Prop where
  entry : ∃ x, findEntry u i g = some x ∧ Awaits e x
  line : ∀ c, u.engine.renewalLine ≠ some (.fill i c g)

theorem Waiting.of_eq (h : Waiting i g e s) (entries : t.cache.entries = s.cache.entries)
    (line : t.engine.renewalLine = s.engine.renewalLine) : Waiting i g e t :=
  ⟨by rw [findEntry_congr entries]; exact h.entry, by rw [line]; exact h.line⟩

theorem waiting_releasePins (h : Waiting i g e s) : Waiting i g e (releasePins q s) := by
  obtain ⟨x, hx, waits⟩ := h.entry
  obtain ⟨y, hy, rfl | rfl⟩ := findEntry_releasePins (q := q) hx waits.withhold
  · exact ⟨⟨_, hy, waits⟩, h.line⟩
  · exact ⟨⟨_, hy, awaits_unpinned waits⟩, h.line⟩

theorem waiting_finish {k : Code} {b : List Byte} (h : Waiting i g e s) : Waiting i g e (finish k b s) :=
  (waiting_releasePins (s := portLetsGo s) (q := .port) (h.of_eq rfl rfl)).of_eq rfl rfl

theorem waiting_removeEntry {j : Fin 32} {k : Nat} (hk : ¬(i = j ∧ g = k)) (h : Waiting i g e s) :
    Waiting i g e (removeEntry j k s) := by
  obtain ⟨x, hx, waits⟩ := h.entry
  exact ⟨⟨x, findEntry_removeEntry_other hk hx, waits⟩, h.line⟩

theorem waiting_setLine {j : Option EngineJob} (hj : q = .port ∨ j = none) (h : Waiting i g e s) :
    Waiting i g e (setLine q j s) := by
  rcases hj with rfl | rfl
  · exact h.of_eq rfl rfl
  · cases q
    · exact h.of_eq rfl rfl
    · exact ⟨h.entry, fun _ => nofun⟩

theorem waiting_place {j : EngineJob} (h : Waiting i g e s) : Waiting i g e (place .port j s) := by
  unfold place
  split
  · exact h.of_eq rfl rfl
  · exact h.of_eq rfl rfl

theorem waiting_dropFillRequest {x : Entry} (h : Waiting i g e s) : Waiting i g e (dropFillRequest x s) := by
  unfold dropFillRequest
  dsimp -proj only
  repeat' split
  · exact waiting_setLine (.inr rfl) (waiting_setLine (.inr rfl) h)
  · exact waiting_setLine (.inr rfl) h
  · exact waiting_setLine (.inr rfl) h
  · exact h

theorem waiting_verifReleased (h : Waiting i g e s) : Waiting i g e (verifReleased s) := by
  have withdrawn : Waiting i g e (withdrawRenewal s) := by
    unfold withdrawRenewal
    split
    · exact h
    · rename_i j c k line
      have other : ¬(i = j ∧ g = k) := by
        rintro ⟨rfl, rfl⟩
        exact h.line c line
      have cleared := waiting_setLine (q := .renewal) (j := none) (.inr rfl) h
      unfold withdrawFill
      split
      · exact cleared
      · split
        · exact waiting_setLine (.inl rfl) cleared
        · exact waiting_removeEntry other cleared
    · exact waiting_setLine (.inr rfl) h
  have orphaned : Waiting i g e (orphanRenewal (withdrawRenewal s)) := by
    unfold orphanRenewal
    repeat' split
    all_goals first | with_reducible exact withdrawn | exact withdrawn.of_eq rfl rfl
  exact waiting_releasePins (orphaned.of_eq rfl rfl)

/-- A hit on the entry itself pins it (R79). -/
theorem waiting_takeHit {x : Entry} (hx : findEntry s i g = some x) (waits : Awaits e x) (h : Waiting i g e s) :
    Waiting i g e (takeHit q x s) := by
  refine ⟨⟨pin q x, ?_, awaits_pin waits⟩, h.line⟩
  have key := findEntry_key hx
  have own : ((pin q x).slot == i && (pin q x).gen == g) = true := by simp [pin_keys, key]
  exact List.find?_cons_of_pos own

/-- Whoever asks for the entry that waits is refused or has a hit. -/
theorem askCache_of_waiting {c : CellId} (h : Waiting i g e s) : (askCache q i c g s).2 = s ∨
    ∃ x, findEntry s i g = some x ∧ Awaits e x ∧ (askCache q i c g s).2 = takeHit q x s := by
  obtain ⟨x, hx, waits⟩ := h.entry
  unfold askCache
  split
  · exact .inl rfl
  · split
    · exact .inl rfl
    · simp only [hx, waits.filling, Bool.false_eq_true, if_false, waits.withhold]
      exact .inr ⟨x, rfl, waits, rfl⟩

/-! ### The previous generation leaves -/

/-- The slot's only generation is the one whose entry waits, and an UNPROTECT in flight is one of the slot. -/
structure OwnTrials (i : Fin 32) (g : Nat) (e : Entry) (u : State) : Prop where
  waiting : Waiting i g e u
  cells : ∀ k c, cellHolding (slotOf u i) k = some c → k = g
  exec : ∀ op, u.port.exec = .unprotect op → op.slot = i

theorem OwnTrials.of_waiting (h : OwnTrials i g e s) (waiting : Waiting i g e t) (slots : t.slots = s.slots)
    (exec : t.port.exec = s.port.exec ∨ t.port.exec = .free) : OwnTrials i g e t := by
  refine ⟨waiting, fun k c hc => h.cells k c (slotOf_of_slots slots i ▸ hc), fun op hx => ?_⟩
  rcases exec with x | x <;> rw [x] at hx
  · exact h.exec op hx
  · cases hx

theorem portKeeps_ownTrials : PortKeeps (OwnTrials i g e) where
  finish _ _ h := h.of_waiting (waiting_finish h.waiting) rfl (.inr rfl)
  withdraw h := h.of_waiting (waiting_setLine (.inl rfl) h.waiting) rfl (.inl rfl)
  trials hx h := by
    cases h.exec _ hx
    exact
    { finish := fun _ _ h => h.of_waiting (waiting_finish h.waiting) rfl (.inr rfl)
      release := fun h => h.of_waiting (waiting_releasePins h.waiting) rfl (.inl rfl)
      exec := fun hop h => ⟨h.waiting.of_eq rfl rfl, h.cells, fun _ he => by cases he; exact hop⟩
      place := fun _ h => h.of_waiting (waiting_place h.waiting) place_slots (.inl (congrArg (·.exec) place_port))
      ask := fun {u c k} hc h => by
        have own := h.cells k c hc
        subst own
        rcases askCache_of_waiting (q := .port) (c := c) h.waiting with same | ⟨x, hx, waits, hit⟩
        · rw [same]; exact h
        · rw [hit]; exact h.of_waiting (waiting_takeHit hx waits h.waiting) rfl (.inl rfl) }

theorem verifReleased_port (s : State) : (verifReleased s).port = s.port :=
  ((((ctxFrame_withdrawRenewal s).trans (ctxFrame_orphanRenewal _)).trans (ctxFrame_leaveWaits _)).trans
    (ctxFrame_releasePins _ _)).port

theorem verifKeeps_ownTrials : VerifKeeps (OwnTrials i g e) where
  renewal _ _ h := h.of_waiting (h.waiting.of_eq rfl rfl) rfl (.inl rfl)
  released {u} h := h.of_waiting (waiting_verifReleased h.waiting) (calm_verifReleased u).slots
    (.inl (congrArg (·.exec) (verifReleased_port u)))

/-- What is left of the entries of a state: pinned by the Port Executor or with a cause only where they were. -/
structure Lesser (y x : Entry) : Prop where
  slot : x.slot = y.slot
  gen : x.gen = y.gen
  pin : x.pinPort = true → y.pinPort = true
  cause : x.withhold ≠ none → y.withhold ≠ none

theorem lesser_refl (x : Entry) : Lesser x x := ⟨rfl, rfl, id, id⟩

theorem lesser_release {y x : Entry} (h : releaseEntry q y = some x) : Lesser y x := by
  obtain ⟨slot, gen, cause, -⟩ := unpinned_keeps q y
  have pin : (unpinned q y).pinPort = true → y.pinPort = true := by
    cases q
    · unfold unpinned
      dsimp only
      split <;> nofun
    · exact id
  rcases releaseEntry_cases h with rfl | ⟨rfl, -⟩ | ⟨rfl, -⟩
  · exact lesser_refl x
  · exact ⟨slot, gen, pin, by rw [cause]; exact id⟩
  · exact ⟨slot, gen, pin, fun h => absurd rfl h⟩

/-- Entries have gone or been let go, and a job of the Port Executor that was granted is. -/
structure Lessened (s t : State) : Prop where
  entries : ∀ x ∈ t.cache.entries, ∃ y ∈ s.cache.entries, Lesser y x
  granted : portJobGranted s = true → portJobGranted t = true

theorem Lessened.trans (h : Lessened r s) (k : Lessened s t) : Lessened r t := by
  refine ⟨fun x hx => ?_, fun hg => k.granted (h.granted hg)⟩
  obtain ⟨y, hy, yx⟩ := k.entries x hx
  obtain ⟨z, hz, zy⟩ := h.entries y hy
  exact ⟨z, hz, yx.slot.trans zy.slot, yx.gen.trans zy.gen, fun hp => zy.pin (yx.pin hp), fun hc => zy.cause (yx.cause hc)⟩

theorem lessened_of_entries (job : t.engine.job = s.engine.job)
    (entries : ∀ x ∈ t.cache.entries, ∃ y ∈ s.cache.entries, Lesser y x) : Lessened s t :=
  ⟨entries, fun hg => by rw [portJobGranted, job]; exact hg⟩

theorem lessened_of_eq (job : t.engine.job = s.engine.job) (entries : t.cache.entries = s.cache.entries) : Lessened s t :=
  lessened_of_entries job fun x hx => ⟨x, entries ▸ hx, lesser_refl x⟩

theorem lessened_releasePins (q : Requester) (s : State) : Lessened s (releasePins q s) := by
  refine lessened_of_entries rfl fun x hx => ?_
  obtain ⟨y, hy, released⟩ := List.mem_filterMap.1 hx
  exact ⟨y, hy, lesser_release released⟩

theorem lessened_finish (k : Code) (b : List Byte) (s : State) : Lessened s (finish k b s) :=
  have going : Lessened s (portLetsGo s) := lessened_of_eq rfl rfl
  have answered : Lessened (releasePins .port (portLetsGo s)) (finish k b s) := lessened_of_eq rfl rfl
  (going.trans (lessened_releasePins .port _)).trans answered

theorem lessened_removeEntry (j : Fin 32) (k : Nat) (s : State) : Lessened s (removeEntry j k s) :=
  lessened_of_entries rfl fun x hx => ⟨x, (List.mem_filter.1 hx).1, lesser_refl x⟩

theorem lessened_setLine (q : Requester) (j : Option EngineJob) (s : State) : Lessened s (setLine q j s) := by
  cases q <;> exact lessened_of_eq rfl rfl

theorem lessened_dropFillRequest (x : Entry) (s : State) : Lessened s (dropFillRequest x s) := by
  unfold dropFillRequest
  dsimp -proj only
  repeat' split
  · exact (lessened_setLine _ _ _).trans (lessened_setLine _ _ _)
  · exact lessened_setLine _ _ _
  · exact lessened_setLine _ _ _
  · exact lessened_of_eq rfl rfl

theorem lessened_withdrawRenewal (s : State) : Lessened s (withdrawRenewal s) := by
  unfold withdrawRenewal
  split
  · exact lessened_of_eq rfl rfl
  · refine (lessened_setLine .renewal none s).trans ?_
    unfold withdrawFill
    split
    · exact lessened_of_eq rfl rfl
    · split
      · exact lessened_setLine _ _ _
      · exact lessened_removeEntry _ _ _
  · exact lessened_setLine _ _ _

/-- A job of the Renewal Engine that becomes an orphan is none of the Port Executor's. -/
theorem lessened_orphanRenewal (s : State) : Lessened s (orphanRenewal s) := by
  unfold orphanRenewal
  split
  · exact lessened_of_eq rfl rfl
  · rename_i job _ hj
    refine ⟨fun x hx => ⟨x, hx, lesser_refl x⟩, fun hg => ?_⟩
    simp [portJobGranted, hj] at hg
  · exact lessened_of_eq rfl rfl
  · exact lessened_of_eq rfl rfl

theorem lessened_verifReleased (s : State) : Lessened s (verifReleased s) :=
  (((lessened_withdrawRenewal s).trans (lessened_orphanRenewal _)).trans
    (lessened_of_eq (t := leaveWaits _) rfl rfl)).trans (lessened_releasePins _ _)

/-- The UNPROTECT in flight is one of another slot, and no cause reaches it. -/
structure ElsewhereTrials (i : Fin 32) (g : Nat) (e : Entry) (op : UnprotectOp) (u : State) : Prop where
  waiting : Waiting i g e u
  exec : u.port.exec = .unprotect op ∨ u.port.exec = .free
  pins : ∀ x ∈ u.cache.entries, x.pinPort = true → x.slot = op.slot
  granted : op.stage = .frame → ∀ x ∈ u.cache.entries, x.slot = op.slot → x.gen = op.trial.gen → x.withhold ≠ none →
    portJobGranted u = true

variable {op : UnprotectOp}

theorem ElsewhereTrials.of_waiting (h : ElsewhereTrials i g e op s) (waiting : Waiting i g e t)
    (exec : t.port.exec = s.port.exec ∨ t.port.exec = .free)
    (less : Lessened s t) : ElsewhereTrials i g e op t := by
  refine ⟨waiting, ?_, fun x hx hp => ?_, fun hs x hx slot gen cause => ?_⟩
  · rcases exec with x | x
    · rw [x]; exact h.exec
    · exact .inr x
  · obtain ⟨y, hy, yx⟩ := less.entries x hx
    rw [yx.slot]
    exact h.pins y hy (yx.pin hp)
  · obtain ⟨y, hy, yx⟩ := less.entries x hx
    exact less.granted (h.granted hs y hy (yx.slot ▸ slot) (yx.gen ▸ gen) (yx.cause cause))

theorem ElsewhereTrials.finish (h : ElsewhereTrials i g e op s) (k : Code) (b : List Byte) :
    ElsewhereTrials i g e op (finish k b s) :=
  h.of_waiting (waiting_finish h.waiting) (.inr rfl) (lessened_finish k b s)

theorem verifKeeps_elsewhereTrials : VerifKeeps (ElsewhereTrials i g e op) where
  renewal _ _ h := h.of_waiting (h.waiting.of_eq rfl rfl) (.inl rfl) (lessened_of_eq rfl rfl)
  released {u} h := h.of_waiting (waiting_verifReleased h.waiting) (.inl (congrArg (·.exec) (verifReleased_port u)))
    (lessened_verifReleased u)

/-- The UNPROTECT of another slot goes on, or is answered. -/
theorem ElsewhereTrials.react (h : ElsewhereTrials i g e op s) : ElsewhereTrials i g e op (portReact s) := by
  rcases h.exec with hx | hx
  · unfold portReact
    simp only [hx]
    split
    · rename_i w hw
      obtain ⟨x, found, cause⟩ := Option.bind_eq_some_iff.1 hw
      obtain ⟨slot, gen⟩ := findEntry_key found
      unfold unprotectCause
      split
      · exact h
      · exact h
      · repeat' split
        · exact h.finish _ _
        · exact h
        · exact h.finish _ _
      · rename_i hs
        rw [if_pos (h.granted hs x (findEntry_mem found) slot gen (by rw [cause]; nofun))]
        exact h
    · exact h
  · unfold portReact
    simp only [hx]
    exact h

/-! ### The previous generation's cause -/

theorem waiting_caused {w : Withhold} {b : Fin 32 → Nat → Bool} (hb : b i g = false) (h : Waiting i g e s) :
    Waiting i g e (caused w b s) := by
  obtain ⟨x, hx, waits⟩ := h.entry
  obtain ⟨slot, gen⟩ := findEntry_key hx
  refine ⟨⟨x, ?_, waits⟩, h.line⟩
  refine find?_filterMap_key (fun a y hy => ?_) hx ?_
  · split at hy
    · cases hy; rfl
    · split at hy
      · cases hy
        unfold addCause
        repeat' split
        all_goals rfl
      · split at hy
        · cases hy; rfl
        · cases hy
  · exact if_pos (by simp [slot, gen, hb])

theorem dropFillRequest_port (x : Entry) (s : State) : (dropFillRequest x s).port = s.port := by
  unfold dropFillRequest
  dsimp -proj only
  repeat' split
  all_goals simp

theorem addCause_keeps (w : Withhold) (x : Entry) : entryKey (addCause w x) = entryKey x ∧
    (addCause w x).pinPort = x.pinPort := by
  unfold addCause
  repeat' split
  all_goals exact ⟨rfl, rfl⟩

theorem mem_caused {w : Withhold} {b : Fin 32 → Nat → Bool} {x : Entry} (hx : x ∈ (caused w b s).cache.entries) :
    ∃ y ∈ s.cache.entries, entryKey x = entryKey y ∧ x.pinPort = y.pinPort := by
  obtain ⟨y, hy, given⟩ := List.mem_filterMap.1 hx
  refine ⟨y, hy, ?_⟩
  repeat' split at given
  all_goals cases given
  all_goals first | exact ⟨rfl, rfl⟩ | exact addCause_keeps w y

theorem mem_of_mem_caused {w : Withhold} {b : Fin 32 → Nat → Bool} {x : Entry} (hx : x ∈ (caused w b s).cache.entries)
    (hb : b x.slot x.gen = false) : x ∈ s.cache.entries := by
  obtain ⟨y, hy, given⟩ := List.mem_filterMap.1 hx
  split at given
  · cases given; exact hy
  · rename_i selected
    have key : entryKey x = entryKey y := by
      repeat' split at given
      all_goals cases given
      all_goals first | rfl | exact (addCause_keeps w y).1
    obtain ⟨slot, gen⟩ := Prod.ext_iff.1 key
    simp only [entryKey] at slot gen
    rw [slot, gen] at hb
    simp [hb] at selected

theorem findEntry_of_mem (one : OneEntryEach s) {x : Entry} (hx : x ∈ s.cache.entries) :
    findEntry s x.slot x.gen = some x := by
  cases found : findEntry s x.slot x.gen with
  | none =>
    have none := List.find?_eq_none.1 found x hx
    simp at none
  | some y =>
    obtain ⟨slot, gen⟩ := findEntry_key found
    rw [eq_of_entryKey one (findEntry_mem found) hx (Prod.ext slot gen)]

/-- The entry of the new generation stays while the previous one's entries meet their cause (R92, R93). -/
theorem waiting_genLeaves {c : CellId} {p : Nat} (orders : HoldersInOrder s) (one : OneEntryEach s) (hp : p ≠ g)
    (cells : ∀ k c, cellHolding (slotOf s i) k = some c → k = g) (h : Waiting i g e s) :
    Waiting i g e (genLeaves i c p s) := by
  have free : (i == i && g == p) = false := by simp [Ne.symm hp]
  have start := waiting_caused (w := .retired) (b := fun j k => j == i && k == p) free h
  have selected {j : Fin 32} {k : Nat} (hk : (j == i && k == p) = true) : j = i ∧ k = p := by simpa using hk
  have apart {x : Entry} (hk : (x.slot == i && x.gen == p) = true) : ¬(i = x.slot ∧ g = x.gen) :=
    fun ⟨_, gen⟩ => hp ((selected hk).2.symm.trans gen.symm)
  by_cases own : ∀ op, s.port.exec = .unprotect op → op.slot = i
  · have port := portKeeps_ownTrials (i := i) (g := g) (e := e)
    have kept : OwnTrials i g e (genLeaves i c p s) := by
      unfold genLeaves
      refine removeCounterJobs_keeps port.finish (fun _ h => h.of_waiting (h.waiting.of_eq rfl rfl) rfl (.inl rfl)) ?_
      refine causes_keeps verifKeeps_ownTrials ⟨start, cells, own⟩ True (fun _ {_} _ h => portRefused_keeps port h)
        (fun _ => trivial) (fun _ _ _ _ => trivial) (fun {u x} hk h => ?_) (fun h => portReact_keeps port h)
      exact h.of_waiting (waiting_removeEntry (apart hk) (waiting_dropFillRequest h.waiting))
        (calm_removeEntry (calm_dropFillRequest (calm_refl u))).slots (.inl (congrArg (·.exec) (dropFillRequest_port x u)))
    exact kept.waiting
  · push Not at own
    obtain ⟨op, hx, other⟩ := own
    have kept : ElsewhereTrials i g e op (genLeaves i c p s) := by
      unfold genLeaves
      refine removeCounterJobs_keeps (fun k b h => h.finish k b)
        (fun _ h => h.of_waiting (h.waiting.of_eq rfl rfl) (.inl rfl) (lessened_of_eq rfl rfl)) ?_
      refine causes_keeps verifKeeps_elsewhereTrials ⟨start, .inl hx, ?_, ?_⟩ False (fun h => h.elim) ?_ ?_
        (fun {u x} hk h => ?_) (fun h => h.react)
      · intro x hx' hp
        obtain ⟨y, hy, key, pin⟩ := mem_caused hx'
        have slot : x.slot = y.slot := congrArg (·.1) key
        exact slot.trans (orders.pins op hx y hy (pin ▸ hp)).1
      · intro hs x hx' slot gen cause
        have held := mem_of_mem_caused hx' (by rw [slot]; simp [other])
        refine orders.granted op hx hs ?_
        rw [← slot, ← gen, causeOf_of_findEntry (findEntry_of_mem one held)]
        exact cause
      · rintro ⟨x, hx', hk, port⟩
        exact other ((orders.waits op hx x hx' port).1.symm.trans (selected hk).1)
      · intro u x h hx' hk pin
        exact other ((h.pins x hx' pin).symm.trans (selected hk).1)
      · exact h.of_waiting (waiting_removeEntry (apart hk) (waiting_dropFillRequest h.waiting))
          (.inl (congrArg (·.exec) (dropFillRequest_port x u)))
          ((lessened_dropFillRequest x u).trans (lessened_removeEntry _ _ _))
    exact kept.waiting

end Sys2Proof.Machine
end

section
/-! PROOFS. The entries' roles at an activation (R41, R42, R92). -/

namespace Sys2Proof.Machine

variable {r s t u : State} {q : QJob} {hour : Nat} {both : Bool} {i : Fin 32} {c : CellId} {x : CellImg} {gen : Nat}

/-! ### The rest of the completion -/

theorem findEntry_finish {k : Code} {b : List Byte} {g : Nat} {e : Entry} (h : findEntry s i g = some e)
    (hw : e.withhold = none) : ∃ y, findEntry (finish k b s) i g = some y ∧ (y = e ∨ y = unpinned .port e) :=
  findEntry_releasePins (s := portLetsGo s) h hw

/-- An entry without a cause is found as the activation leaves it, without the pin of an ACTIVATE command that is answered. -/
theorem findEntry_completed_activate (h : q.job = .activate i gen) (hx : genWith (slotOf s i) .staged = some (c, x))
    (hd : s.device ≠ .faulted) {g : Nat} {e : Entry} (he : findEntry (activation i gen hour c x s) i g = some e)
    (hw : e.withhold = none) : ∃ y, findEntry (completed q hour both s) i g = some y ∧
      (y = e ∨ q.port = true ∧ y = unpinned .port e) := by
  have device : (doneEffect q hour both s).device ≠ .faulted := by
    rw [(offSlot_doneEffect (i := i) (by rw [h]; rfl) hour both s).device]
    exact hd
  obtain ⟨cache, -⟩ := cache_completed (q := q) (by rw [h]; rfl) (activate_untold h hx) device
  rw [findEntry_congr (congrArg (·.entries) cache), doneEffect_activate h hx]
  split
  · rename_i hp
    obtain ⟨y, hy, same⟩ := findEntry_finish he hw
    exact ⟨y, hy, same.imp_right fun e => ⟨hp, e⟩⟩
  · exact ⟨e, he, .inl rfl⟩

/-! ### The entry of the new current generation (R42) -/

/-- The entry waits for its activation, with the values of `e`. -/
structure AwaitsRole (e z : Entry) : Prop where
  role : z.role = some .verifyOnly
  key : z.key = e.key
  h : z.h = e.h
  dirty : z.dirty = e.dirty
  flushReq : z.flushReq = e.flushReq
  withhold : z.withhold = none

theorem Awaits.awaitsRole {e z : Entry} (h : Awaits e z) : AwaitsRole e z :=
  ⟨h.role, h.key, h.h, h.dirty, h.flushReq, h.withhold⟩

/-- An ACTIVE entry with the values of `e` and its start point (R42). -/
structure Activated (e : Entry) (n : Nat) (z : Entry) : Prop where
  role : z.role = some .active
  key : z.key = e.key
  h : z.h = e.h
  dirty : z.dirty = e.dirty
  flushReq : z.flushReq = e.flushReq
  n : z.n = some n

theorem activated_unpinned {e z : Entry} {n : Nat} (h : Activated e n z) : Activated e n (unpinned .port z) := by
  have other : z.role ≠ some .acceptOnly := by rw [h.role]; nofun
  simp only [unpinned, if_neg other]
  exact ⟨h.role, h.key, h.h, h.dirty, h.flushReq, h.n⟩

theorem keys_activeEntry (s : State) (i : Fin 32) (c : CellId) (e : Entry) :
    (activeEntry s i c e).slot = e.slot ∧ (activeEntry s i c e).gen = e.gen := ⟨rfl, rfl⟩

theorem findEntry_raiseVerifyOnly {z : Entry} (hz : findEntry s i gen = some z) (hr : z.role = some .verifyOnly) :
    findEntry (raiseVerifyOnly i c gen s) i gen = some (activeEntry s i c z) ∧
      slotOf (raiseVerifyOnly i c gen s) i =
        setCell (slotOf s i) c ((cellOf (slotOf s i) c).map fun x => { x with unused := false }) := by
  simp only [raiseVerifyOnly, hz, hr, if_true]
  refine ⟨?_, clearUnused_slot i c _⟩
  change findEntry (updEntry i gen (activeEntry s i c) s) i gen = _
  rw [findEntry_updEntry (keys_activeEntry s i c), hz]
  rfl

theorem findEntry_raiseVerifyOnly_other {g : Nat} (h : g ≠ gen) :
    findEntry (raiseVerifyOnly i c gen s) i g = findEntry s i g := by
  rcases raiseVerifyOnly_cases i c gen s with e | e <;> rw [e]
  change findEntry (updEntry i gen (activeEntry s i c) s) i g = _
  exact findEntry_updEntry_other (keys_activeEntry s i c) (.inr h)

/-- What the activation makes of the entry that waits, where the slot holds the activated generation. -/
theorem activated_entry {e z : Entry} {stamp : Nat} (h : q.job = .activate i gen)
    (hx : genWith (slotOf s i) .staged = some (c, x)) (hd : s.device ≠ .faulted)
    (cell : cellOf (slotOf (stampedState i hour c x s) i) c = some (stamped stamp hour x))
    (hz : findEntry (stampedState i hour c x s) i gen = some z) (waits : AwaitsRole e z) :
    (cellOf (slotOf (completed q hour both s) i) c).map (·.unused) = some false ∧
    ∃ y, findEntry (completed q hour both s) i gen = some y ∧ Activated e (startPoint x) y := by
  obtain ⟨found, slot⟩ := findEntry_raiseVerifyOnly (c := c) hz waits.role
  have active : Activated e (startPoint x) (activeEntry (stampedState i hour c x s) i c z) := by
    refine ⟨rfl, waits.key, waits.h, waits.dirty, waits.flushReq, ?_⟩
    change (cellOf (slotOf (stampedState i hour c x s) i) c).map startPoint = _
    rw [cell]
    rfl
  refine ⟨?_, ?_⟩
  · rw [slotOf_completed_activate h hx]
    change (cellOf (slotOf (raiseVerifyOnly i c gen (stampedState i hour c x s)) i) c).map (·.unused) = _
    rw [slot, cellOf_setCell, cell]
    rfl
  · obtain ⟨y, hy, rfl | ⟨-, rfl⟩⟩ := findEntry_completed_activate (q := q) (both := both) h hx hd
      (e := activeEntry (stampedState i hour c x s) i c z) (g := gen) found waits.withhold
    · exact ⟨_, hy, active⟩
    · exact ⟨_, hy, activated_unpinned active⟩

theorem slotOf_stampedState : slotOf (stampedState i hour c x s) i =
    settleMarks (activated hour c (keepsPrevious x (slotOf s i)) (slotOf s i)) := by
  rw [stampedState, slotOf_of_slots (slots_activatePrevious _ _ _ _), slotOf_updSlot]

/-- The cell of the new current generation holds it, however the previous one is left. -/
theorem cell_stampedState {img : SlotImg} {stamp : Nat} (he : activated hour c (keepsPrevious x (slotOf s i)) (slotOf s i) =
    { setCell img c (some (stamped stamp hour x)) with graceProgress := 0 }) :
    cellOf (slotOf (stampedState i hour c x s) i) c = some (stamped stamp hour x) := by
  rw [slotOf_stampedState, he]
  cases c <;> rfl

theorem stampedState_first (hn : genWith (slotOf s i) .current = none) :
    stampedState i hour c x s = updSlot i (activated hour c (keepsPrevious x (slotOf s i))) s := by
  simp only [stampedState, hn, activatePrevious]

variable {p : CellId} {y : CellImg} {a : Activation}

theorem stampedState_kept (hy : genWith (slotOf s i) .current = some (p, y)) (hg : noGrace x.params = false) :
    stampedState i hour c x s = updEntry i y.params.generation (acceptOnlyEntry (protectHolds s i y.params.generation))
      (updSlot i (activated hour c (keepsPrevious x (slotOf s i))) s) := by
  have kept : keepsPrevious x (slotOf s i) = true := by simp [keepsPrevious, hy, hg]
  simp only [stampedState, hy, activatePrevious, kept, if_true]
  rfl

theorem stampedState_gone (hy : genWith (slotOf s i) .current = some (p, y)) (hg : noGrace x.params = true) :
    stampedState i hour c x s = genLeaves i p y.params.generation
      (updSlot i (activated hour c (keepsPrevious x (slotOf s i))) s) := by
  have kept : keepsPrevious x (slotOf s i) = false := by simp [keepsPrevious, hg]
  simp only [stampedState, hy, activatePrevious, kept, Bool.false_eq_true, if_false]

theorem findEntry_updSlot {j k : Fin 32} {g : Nat} {f : SlotImg → SlotImg} :
    findEntry (updSlot j f s) k g = findEntry s k g := rfl

theorem rolesMove_first (h : q.job = .activate i x.params.generation) (hx : genWith (slotOf s i) .staged = some (c, x))
    (hn : genWith (slotOf s i) .current = none) (hd : s.device ≠ .faulted) :
    RolesMove s (completed q hour both s) i c x none := by
  refine ⟨fun _ _ hg => absurd hg (by simp), fun e he hr hw => ?_⟩
  have cell := cell_stampedState (activated_first (hour := hour) hx hn)
  have found : findEntry (stampedState i hour c x s) i x.params.generation = some e := by
    rw [stampedState_first hn, findEntry_updSlot, he]
  obtain ⟨unused, z, hz, active⟩ := activated_entry (q := q) (both := both) h hx hd cell found
    ⟨hr, rfl, rfl, rfl, rfl, hw⟩
  exact ⟨unused, z, hz, active.role, active.key, active.h, active.dirty, active.flushReq, active.n⟩

/-! ### The entry of the previous current generation (R92) -/

theorem keys_acceptOnlyEntry (held : Bool) (e : Entry) :
    (acceptOnlyEntry held e).slot = e.slot ∧ (acceptOnlyEntry held e).gen = e.gen := by
  unfold acceptOnlyEntry
  repeat' split
  all_goals exact ⟨rfl, rfl⟩

/-- An entry that is ACCEPT_ONLY since the activation, keeping its next value only for a PROTECT that holds it. -/
structure AcceptsOnly (held : Bool) (e z : Entry) : Prop where
  role : z.role = some .acceptOnly
  key : z.key = e.key
  h : z.h = e.h
  dirty : z.dirty = e.dirty
  flushReq : z.flushReq = e.flushReq
  holds : held = true → z.n = e.n ∧ z.resvPending = e.resvPending
  free : held = false → z.n = none ∧ z.resvPending = false

theorem acceptsOnly_acceptOnlyEntry {held : Bool} {e : Entry} (hr : e.role = some .active) :
    AcceptsOnly held e (acceptOnlyEntry held e) := by
  simp only [acceptOnlyEntry, hr, if_true]
  cases held
  · exact ⟨rfl, rfl, rfl, rfl, rfl, nofun, fun _ => ⟨rfl, rfl⟩⟩
  · exact ⟨rfl, rfl, rfl, rfl, rfl, fun _ => ⟨rfl, rfl⟩, nofun⟩

/-- The Port Executor's release takes the next value of an entry that no PROTECT holds, which has none. -/
theorem acceptsOnly_unpinned {e z : Entry} (h : AcceptsOnly false e z) : AcceptsOnly false e (unpinned .port z) := by
  simp only [unpinned, h.role, if_true]
  exact ⟨rfl, h.key, h.h, h.dirty, h.flushReq, nofun, fun _ => ⟨rfl, rfl⟩⟩

theorem protectHolds_iff {g : Nat} :
    protectHolds s i g = true ↔ ∃ op, s.port.exec = .protect op ∧ op.slot = i ∧ op.gen = g := by
  unfold protectHolds
  split <;> rename_i hx <;> simp [hx]

theorem withhold_acceptOnlyEntry (held : Bool) (e : Entry) : (acceptOnlyEntry held e).withhold = e.withhold := by
  unfold acceptOnlyEntry
  repeat' split
  all_goals rfl

theorem previous_entry {e : Entry} (h : q.job = .activate i gen) (hx : genWith (slotOf s i) .staged = some (c, x))
    (hy : genWith (slotOf s i) .current = some (p, y)) (hg : noGrace x.params = false) (hd : s.device ≠ .faulted)
    (hne : y.params.generation ≠ gen) (hport : q.port = true → ∃ op, s.port.exec = .activate op)
    (he : findEntry s i y.params.generation = some e) (hr : e.role = some .active) (hw : e.withhold = none) :
    ∃ z, findEntry (completed q hour both s) i y.params.generation = some z ∧
      AcceptsOnly (protectHolds s i y.params.generation) e z := by
  have only := acceptsOnly_acceptOnlyEntry (held := protectHolds s i y.params.generation) hr
  have found : findEntry (activation i gen hour c x s) i y.params.generation =
      some (acceptOnlyEntry (protectHolds s i y.params.generation) e) := by
    change findEntry (raiseVerifyOnly i c gen (stampedState i hour c x s)) i _ = _
    rw [findEntry_raiseVerifyOnly_other hne, stampedState_kept hy hg, findEntry_updEntry (keys_acceptOnlyEntry _)]
    rw [findEntry_updSlot, he]
    rfl
  obtain ⟨z, hz, rfl | ⟨hp, rfl⟩⟩ := findEntry_completed_activate (q := q) (both := both) h hx hd found
    ((withhold_acceptOnlyEntry _ e).trans hw)
  · exact ⟨_, hz, only⟩
  · have free : protectHolds s i y.params.generation = false := by
      obtain ⟨op, hop⟩ := hport hp
      rw [Bool.eq_false_iff, ne_eq, protectHolds_iff, hop]
      nofun
    rw [free] at only ⊢
    exact ⟨_, hz.trans (by rw [free]), acceptsOnly_unpinned only⟩

theorem rolesMove_kept (h : q.job = .activate i x.params.generation) (hx : genWith (slotOf s i) .staged = some (c, x))
    (hy : genWith (slotOf s i) .current = some (p, y)) (ha : y.activation = some a) (hg : noGrace x.params = false)
    (hd : s.device ≠ .faulted) (hne : y.params.generation ≠ x.params.generation)
    (hport : q.port = true → ∃ op, s.port.exec = .activate op) :
    RolesMove s (completed q hour both s) i c x (some y.params.generation) := by
  refine ⟨fun g e hg' he hr hw => ?_, fun e he hr hw => ?_⟩
  · cases hg'
    obtain ⟨z, hz, only⟩ := previous_entry (hour := hour) (both := both) h hx hy hg hd hne hport he hr hw
    refine ⟨z, hz, only.role, only.key, only.h, only.dirty, only.flushReq, fun held => only.holds (protectHolds_iff.2 held),
      fun free => only.free ?_⟩
    rw [Bool.eq_false_iff, ne_eq, protectHolds_iff]
    rintro ⟨op, hop, slot, gen⟩
    exact free op hop slot gen
  · have cell := cell_stampedState (activated_kept (hour := hour) hx hy ha hg)
    have found : findEntry (stampedState i hour c x s) i x.params.generation = some e := by
      rw [stampedState_kept hy hg, findEntry_updEntry_other (keys_acceptOnlyEntry _) (.inr hne.symm), findEntry_updSlot, he]
    obtain ⟨unused, z, hz, active⟩ := activated_entry (q := q) (both := both) h hx hd cell found
      ⟨hr, rfl, rfl, rfl, rfl, hw⟩
    exact ⟨unused, z, hz, active.role, active.key, active.h, active.dirty, active.flushReq, active.n⟩

/-! ### The previous current generation leaves its cell (R17, R92, R93) -/

/-- Where the previous generation's cell is emptied, the slot's only generation is the activated one. -/
theorem cellHolding_gone {img : SlotImg} {stamp k : Nat} {d : CellId} (hpc : p ≠ c)
    (h : cellHolding { setCell (setCell img p none) c (some (stamped stamp hour x)) with graceProgress := 0 } k = some d) :
    k = x.params.generation := by
  cases p <;> cases c <;> first
    | exact absurd rfl hpc
    | skip
  all_goals
    by_contra hne
    have differ : (x.params.generation == k) = false := by simpa using Ne.symm hne
    simp [cellHolding, setCell, stamped, differ] at h

theorem waiting_updSlot {j : Fin 32} {g : Nat} {e : Entry} {f : SlotImg → SlotImg} (h : Waiting i g e s) :
    Waiting i g e (updSlot j f s) := h.of_eq rfl rfl

theorem holdersInOrder_updSlot {j : Fin 32} {f : SlotImg → SlotImg} (h : HoldersInOrder s) :
    HoldersInOrder (updSlot j f s) := ⟨h.granted, h.fills, h.roles, h.pins, h.waits⟩

theorem oneEntryEach_updSlot {j : Fin 32} {f : SlotImg → SlotImg} (h : OneEntryEach s) : OneEntryEach (updSlot j f s) := h

theorem rolesMove_gone (h : q.job = .activate i x.params.generation) (hx : genWith (slotOf s i) .staged = some (c, x))
    (hy : genWith (slotOf s i) .current = some (p, y)) (ha : y.activation = some a) (hg : noGrace x.params = true)
    (hd : s.device ≠ .faulted) (hne : y.params.generation ≠ x.params.generation) (one : OneEntryEach s)
    (orders : HoldersInOrder s) : RolesMove s (completed q hour both s) i c x none := by
  refine ⟨fun _ _ hg => absurd hg (by simp), fun e he hr hw => ?_⟩
  have image := activated_gone (hour := hour) hx hy ha hg
  have cell := cell_stampedState image
  have ready : e.filling = false := by
    cases hf : e.filling with
    | false => rfl
    | true =>
      rw [orders.roles e (findEntry_mem he) hf] at hr
      cases hr
  have waiting : Waiting i x.params.generation e s := by
    refine ⟨⟨e, he, hr, rfl, rfl, rfl, rfl, hw, ready⟩, fun d line => ?_⟩
    obtain ⟨slot, gen⟩ := findEntry_key he
    rw [orders.fills i d _ line e (findEntry_mem he) slot gen] at ready
    cases ready
  have left : Waiting i x.params.generation e (stampedState i hour c x s) := by
    rw [stampedState_gone hy hg]
    refine waiting_genLeaves (holdersInOrder_updSlot orders) (oneEntryEach_updSlot one) hne (fun k d hk => ?_)
      (waiting_updSlot waiting)
    rw [slotOf_updSlot, image] at hk
    exact cellHolding_gone (current_ne_staged hx hy) hk
  obtain ⟨z, hz, waits⟩ := left.entry
  obtain ⟨unused, y, hy, active⟩ := activated_entry (q := q) (both := both) h hx hd cell hz waits.awaitsRole
  exact ⟨unused, y, hy, active.role, active.key, active.h, active.dirty, active.flushReq, active.n⟩

end Sys2Proof.Machine
end

section
/-! PROOFS. Whom a completed job tells, and what the cache and the queue make of a HEADER, a RESERVE and a HIGHWATER (R44, R46, R51,
R86 to R88, R103, R111, R152, R158). -/

namespace Sys2Proof.Machine

variable {r s t u : State} {q : QJob} {hour : Nat} {both : Bool} {i : Fin 32} {c : CellId} {x : CellImg} {gen : Nat}

/-! ### Entries (R46, R87, R88) -/

/-- Outside FAULTED, where no command waits on a job of a slot, cache and queue are as its effect leaves them. -/
theorem cache_completed_slot (h : jobSlot q.job = some i) (hp : q.port = false) (hd : s.device ≠ .faulted) :
    (completed q hour both s).cache = (doneEffect q hour both s).cache ∧
      (completed q hour both s).writer = (doneEffect q hour both s).writer := by
  refine cache_completed ?_ (.inl hp) ?_
  · cases arm : isArm q.job with
    | false => rfl
    | true =>
      obtain ⟨record, hj⟩ := isArm_iff.1 arm
      rw [hj] at h
      cases h
  · rw [(offSlot_doneEffect h hour both s).device]
    exact hd

theorem header_flushes {b : Option Binding} {p : Policy} (h : q.job = .header i b p .writeThrough)
    (hm : (slotOf s i).mode = .writeBack) (one : OneEntryEach s) (hp : q.port = false) (hd : s.device ≠ .faulted) {e : Entry}
    (he : e ∈ s.cache.entries) (hs : e.slot = i) (dirty : e.dirty = true) : Flushing (completed q hour both s) e := by
  have effect : doneEffect q hour both s = flushRequests (markFlush (fun e => e.slot == i)
      (setSlot s i (headed b p .writeThrough (slotOf s i)))) := by
    simp only [doneEffect, h, doneHeader_eq, hm, decide_true, Bool.and_self, if_true]
  have flushes := flushRequests_markFlush (p := fun e => e.slot == i)
    (s := setSlot s i (headed b p .writeThrough (slotOf s i))) one he dirty (by simp [hs])
  obtain ⟨cache, writer⟩ := cache_completed_slot (q := q) (hour := hour) (both := both) (s := s) (i := i)
    (by rw [h]; rfl) hp hd
  rw [← effect] at flushes
  rw [Flushing, cache, writer]
  exact flushes

theorem reserve_flag {v : Nat} {e : Entry} (h : q.job = .reserve i c gen v) (hp : q.port = false) (hd : s.device ≠ .faulted)
    (he : findEntry s i gen = some e) :
    findEntry (completed q hour both s) i gen = some { e with resvPending := false } := by
  obtain ⟨cache, -⟩ := cache_completed_slot (q := q) (hour := hour) (both := both) (s := s) (i := i) (by rw [h]; rfl) hp hd
  rw [findEntry_congr (congrArg (·.entries) cache)]
  simp only [doneEffect, h, doneReserve]
  rw [findEntry_setPending, findEntry_setSlot, he]
  rfl

theorem highWater_flags {v : Nat} {e : Entry} (h : q.job = .highWater i c gen v) (hp : q.port = false)
    (hd : s.device ≠ .faulted) (he : findEntry s i gen = some e) : findEntry (completed q hour both s) i gen =
      some (if e.h = v then { e with dirty := false, flushReq := false } else e) := by
  obtain ⟨cache, -⟩ := cache_completed_slot (q := q) (hour := hour) (both := both) (s := s) (i := i) (by rw [h]; rfl) hp hd
  rw [findEntry_congr (congrArg (·.entries) cache)]
  simp only [doneEffect, h]
  rw [findEntry_doneHigh, he]
  rfl

/-! ### The context of the job (R152) -/

/-- The effect of a job leaves device state and contexts, but for that of a verification in hand. -/
theorem ctx_doneEffect (j : Fin 2) (hv : ¬Verifies s j) : (doneEffect q hour both s).device = s.device ∧
    ctxOf (doneEffect q hour both s) j = ctxOf s j ∧ ¬Verifies (doneEffect q hour both s) j := by
  cases hs : jobSlot q.job with
  | some i =>
    have off := offSlot_doneEffect hs hour both s
    exact ⟨off.device, off.ctxs j hv, fun h => hv (off.verif j h)⟩
  | none =>
    rcases jobSlot_none hs with hj | ⟨k, form, hj⟩ | ⟨k, p, c, v, hj⟩ | ⟨record, hj⟩
    · simp only [doneEffect, hj]; exact ⟨rfl, rfl, hv⟩
    · cases form <;> simp only [doneEffect, hj] <;> exact ⟨rfl, rfl, hv⟩
    · simp only [doneEffect, hj]; exact ⟨rfl, rfl, hv⟩
    · simp only [doneEffect, hj]; exact ⟨rfl, rfl, hv⟩

/-- The context as its last job leaves it (R152). -/
def doneCtx (x : Ctx) : Ctx :=
  { x with state := .done, timer := none, dropPending := false, result := some ⟨x.success, x.fields⟩, jobs := [] }

variable {j : Fin 2} {k : StoreJob} {more : List (StoreJob × JobMark)}

theorem ctxJobDone_eq (hd : s.device ≠ .faulted) (hs : (ctxOf s j).state = .storing)
    (hj : (ctxOf s j).jobs = (k, .queued) :: more) : ctxJobDone j s =
      if more.isEmpty then ctxDone j (setCtx s j { ctxOf s j with jobs := more })
      else setCtx s j { ctxOf s j with jobs := more } := by
  simp [ctxJobDone, hd, hs, hj, endFirst]

theorem ctxJobDone_last (hd : s.device ≠ .faulted) (hs : (ctxOf s j).state = .storing)
    (hj : (ctxOf s j).jobs = [(k, .queued)]) (hv : ¬Verifies s j) :
    DoneCtx j (doneCtx (ctxOf s j)) (.renewalFinished j (ctxOf s j).success) (ctxJobDone j s) := by
  rw [ctxJobDone_eq hd hs hj, List.isEmpty_nil, if_pos rfl]
  have same : ctxOf (setCtx s j { ctxOf s j with jobs := [] }) j = { ctxOf s j with jobs := [] } := ctxOf_setCtx
  unfold ctxDone
  dsimp only
  rw [same]
  exact ⟨rfl, rfl, ctxOf_setCtx, mem_raiseIn _ _, hv⟩

theorem ctxJobDone_more (hd : s.device ≠ .faulted) (hs : (ctxOf s j).state = .storing)
    (hj : (ctxOf s j).jobs = (k, .queued) :: more) (hm : more ≠ []) :
    ctxOf (ctxJobDone j s) j = { ctxOf s j with jobs := more } := by
  rw [ctxJobDone_eq hd hs hj, if_neg (by simpa using hm), ctxOf_setCtx]

theorem tellContext_of_ctx (hc : q.ctx = some j) (s : State) : tellContext q s = ctxJobDone j s := by
  simp only [tellContext, hc]

/-- The context of a job as the answer to the command in flight and the effect leave it. -/
theorem ctx_told (hd : s.device ≠ .faulted) (hv : ¬Verifies s j) :
    (tellPort q (doneEffect q hour both s)).device ≠ .faulted ∧
      ctxOf (tellPort q (doneEffect q hour both s)) j = ctxOf s j ∧
      ¬Verifies (tellPort q (doneEffect q hour both s)) j := by
  obtain ⟨device, ctx, verif⟩ := ctx_doneEffect (q := q) (hour := hour) (both := both) j hv
  have told := told_tellPort q (doneEffect q hour both s)
  refine ⟨by rw [told.device, device]; exact hd, (ctxOf_congr (congrArg (·.ctxs) told.renewal) j).trans ctx, ?_⟩
  rw [Verifies, told.renewal]
  exact verif

theorem ctx_completed_last (hc : q.ctx = some j) (hd : s.device ≠ .faulted) (hs : (ctxOf s j).state = .storing)
    (hj : (ctxOf s j).jobs = [(k, .queued)]) (hv : ¬Verifies s j) :
    DoneCtx j (doneCtx (ctxOf s j)) (.renewalFinished j (ctxOf s j).success) (completed q hour both s) := by
  obtain ⟨device, ctx, verif⟩ := ctx_told (q := q) (hour := hour) (both := both) hd hv
  have done := ctxJobDone_last device (by rw [ctx, hs]) (by rw [ctx, hj]) verif
  rw [ctx, ← tellContext_of_ctx hc] at done
  have settle {u : State} (h : DoneCtx j (doneCtx (ctxOf s j)) (.renewalFinished j (ctxOf s j).success) u) :
      DoneCtx j (doneCtx (ctxOf s j)) (.renewalFinished j (ctxOf s j).success) (portSettle u) :=
    h.aside (calm_portSettle (calm_refl u)).aside
  rw [completed, completeJob_eq]
  split
  · exact settle (doneCtx_compareLive done)
  · exact settle done

theorem ctx_completed_more (arm : isArm q.job = false) (hc : q.ctx = some j) (hd : s.device ≠ .faulted)
    (hs : (ctxOf s j).state = .storing) (hj : (ctxOf s j).jobs = (k, .queued) :: more) (hv : ¬Verifies s j)
    (hm : more ≠ []) : ctxOf (completed q hour both s) j = { ctxOf s j with jobs := more } := by
  obtain ⟨device, ctx, -⟩ := ctx_told (q := q) (hour := hour) (both := both) hd hv
  rw [completed_of_not_arm arm, ctxOf_congr (congrArg (·.ctxs) (calm_portSettle (calm_refl _)).renewal),
    tellContext_of_ctx hc, ctxJobDone_more device (by rw [ctx, hs]) (by rw [ctx, hj]) hm, ctx]

end Sys2Proof.Machine
end

section
/-! PROOFS. The command that waits on a completed RESERVE, HIGHWATER or ACTIVATE is told (R44, R86, R103, R111, R158). -/

namespace Sys2Proof.Machine

variable {r s t u : State} {q : QJob} {hour : Nat} {both : Bool} {i : Fin 32} {c : CellId} {x : CellImg} {gen v : Nat}

/-- A command that the job answers is answered as the job completes. -/
theorem answers_completed {k : Code} {b : List Byte} (arm : isArm q.job = false)
    (told : Answers s (tellPort q (doneEffect q hour both s)) k b) : Answers s (completed q hour both s) k b := by
  have port : (tellContext q (tellPort q (doneEffect q hour both s))).port = (tellPort q (doneEffect q hour both s)).port :=
    (tellContext_keeps q _).2.1
  have answered := told.of_port port
  rw [completed_of_not_arm arm, portSettle_of_not_stuck]
  · exact answered
  · simp only [portStuck, answered.1]

/-! ### A PROTECT that waits on its RESERVE (R44, R103) -/

/-- What the completion of a RESERVE puts before the PROTECT that waits on it. -/
structure Reserved (op : ProtectOp) (v n : Nat) (e : Entry) (x : CellImg) (s : State) : Prop where
  exec : s.port.exec = .protect op
  stage : op.stage = .reserve
  cell : cellOf (slotOf s op.slot) op.cell = some x
  entry : findEntry s op.slot op.gen = some e
  uncaused : e.withhold = none
  next : e.n = some n

variable {op : ProtectOp} {e : Entry} {n : Nat}

theorem told_reserve (hp : q.port = true) (h : q.job = .reserve op.slot op.cell op.gen v) (k : Reserved op v n e x s) :
    let E := doneReserve op.slot op.cell op.gen v s
    doneEffect q hour both s = E ∧ findEntry E op.slot op.gen = some { e with resvPending := false } ∧
      cellOf (slotOf E op.slot) op.cell = some { x with ceiling := max x.ceiling v } ∧ tellPort q E = takeValue op E := by
  intro E
  have entry : findEntry E op.slot op.gen = some { e with resvPending := false } := by
    change findEntry (setPending op.slot op.gen false (setSlot s op.slot _)) op.slot op.gen = _
    rw [findEntry_setPending, findEntry_setSlot, k.entry]
    rfl
  refine ⟨by simp only [doneEffect, h, E], entry, ?_, ?_⟩
  · change cellOf (slotOf (doneReserve op.slot op.cell op.gen v s) op.slot) op.cell = _
    rw [slotOf_doneReserve, cellOf_setCell, k.cell]
    rfl
  · rw [tellPort, if_pos hp]
    exact portCounterDone_protect k.exec k.stage ((causeOf_of_findEntry entry).trans k.uncaused)

theorem reserve_spent (hp : q.port = true) (h : q.job = .reserve op.slot op.cell op.gen v) (k : Reserved op v n e x s)
    (spent : x.wear = some 1000 ∨ n = 4294967295) : Answers s (completed q hour both s) .keySpent [] := by
  obtain ⟨effect, entry, cell, told⟩ := told_reserve (hour := hour) (both := both) hp h k
  refine answers_completed (by rw [h]; rfl) ?_
  rw [effect, told, takeValue_spent (n := n) entry cell k.next spent]
  exact answers_finish .keySpent [] rfl

theorem reserve_gives (hp : q.port = true) (h : q.job = .reserve op.slot op.cell op.gen v) (k : Reserved op v n e x s)
    (hw : x.wear ≠ some 1000) (hn : n ≠ 4294967295) (hc : n < max x.ceiling v) :
    ∃ cls, (completed q hour both s).port.exec = .protect { op with stage := .frame n cls } ∧
      (cellOf (slotOf (completed q hour both s) op.slot) op.cell).map classOf = some cls ∧
      (findEntry (completed q hour both s) op.slot op.gen).bind (·.n) = some (n + 1) ∧
      ((completed q hour both s).engine.job =
          some ⟨.port, .frameProtect e.key (be64 (systemTitle s) ++ be32 n) op.header op.payload, false⟩ ∨
        (completed q hour both s).engine.portLine =
          some (.frameProtect e.key (be64 (systemTitle s) ++ be32 n) op.header op.payload)) := by
  obtain ⟨effect, entry, cell, told⟩ := told_reserve (hour := hour) (both := both) hp h k
  have gives := takeValue_gives entry cell k.next hw hn hc
  obtain ⟨cls, exec, shown, next, asked⟩ := giveValue_spec (key := e.key) (n := n) entry cell
  obtain ⟨cache, port, -, engine, slots⟩ := tellContext_keeps q (tellPort q (doneEffect q hour both s))
  rw [effect, told, gives] at cache port engine slots
  have same : completed q hour both s =
      tellContext q (giveValue op e.key n (doneReserve op.slot op.cell op.gen v s)) := by
    rw [completed_of_not_arm (by rw [h]; rfl), effect, told, gives, portSettle_of_not_stuck]
    rw [portStuck, port, exec]
    rfl
  rw [same]
  refine ⟨cls, port ▸ exec, ?_, ?_, ?_⟩
  · rw [slotOf_of_slots slots]
    exact shown
  · rw [findEntry_congr (congrArg (·.entries) cache)]
    exact next
  · rw [engine]
    exact asked

/-! ### A write-through UNPROTECT (R86, R111) -/

theorem highWater_answers {op : UnprotectOp} (hp : q.port = true) (h : q.job = .highWater i c gen v)
    (hx : s.port.exec = .unprotect op) (hs : op.stage = .high) (hq : (slotOf s op.slot).quarantined = false) :
    (causeOf s op.slot op.trial.gen = none ∨ causeOf s op.slot op.trial.gen = some .retired →
      Answers s (completed q hour both s) .ok (unprotectBody op)) ∧
    ∀ w, causeOf s op.slot op.trial.gen = some w → w ≠ .retired → Answers s (completed q hour both s) (causeCode w) [] := by
  have effect : doneEffect q hour both s = doneHigh i c gen v s := by simp only [doneEffect, h]
  have told : tellPort q (doneHigh i c gen v s) = unprotectHighEnd op (doneHigh i c gen v s) := by
    rw [tellPort, if_pos hp]
    exact portCounterDone_unprotect hx hs
  have cause : causeOf (doneHigh i c gen v s) op.slot op.trial.gen = causeOf s op.slot op.trial.gen := by
    unfold doneHigh
    dsimp only
    rw [causeOf_updEntry]
    · rfl
    · intro e; split <;> exact ⟨rfl, rfl⟩
    · intro e; split <;> rfl
  have mark : (slotOf (doneHigh i c gen v s) op.slot).quarantined = false := by
    by_cases hi : op.slot = i
    · rw [hi, slotOf_doneHigh, setCell_quarantined, ← hi]
      exact hq
    · rw [show slotOf (doneHigh i c gen v s) op.slot = slotOf s op.slot from slotOf_setSlot_other hi]
      exact hq
  have ans {k : Code} {b : List Byte} (e : unprotectHighEnd op (doneHigh i c gen v s) = finish k b (doneHigh i c gen v s)) :
      Answers s (completed q hour both s) k b := by
    refine answers_completed (by rw [h]; rfl) ?_
    rw [effect, told, e]
    exact answers_finish k b rfl
  refine ⟨fun hc => ?_, fun w hc hw => ans (unprotectHighEnd_cause (cause.trans hc) hw)⟩
  rcases hc with hc | hc
  · exact ans (unprotectHighEnd_none (cause.trans hc) mark)
  · exact ans (unprotectHighEnd_retired (cause.trans hc))

/-! ### An ACTIVATE command (R158) -/

/-- The overrun marker of the port. -/
def OverrunIs (b : Bool) (s : State) : Prop := s.port.overrun = b

theorem OverrunIs.of_port {b : Bool} (h : OverrunIs b s) (hp : t.port = s.port) : OverrunIs b t := by
  rw [OverrunIs, hp]
  exact h

theorem makePlace_port (h : makePlace s = some t) : t.port = s.port := by
  unfold makePlace at h
  repeat' split at h
  · cases h; rfl
  · cases h
  · obtain ⟨u, hu, rfl⟩ := Option.map_eq_some_iff.1 h
    obtain ⟨q, rfl⟩ := requestCounter_queue hu
    rfl
  · cases h; rfl

theorem askCache_port (r : Requester) (i : Fin 32) (c : CellId) (g : Nat) (s : State) :
    (askCache r i c g s).2.port = s.port := by
  unfold askCache
  repeat' split
  all_goals first | rfl | skip
  unfold beginFill
  split
  · rename_i made
    have kept := makePlace_port made
    rw [placeFilling, place_port]
    exact kept
  · rfl

theorem portKeeps_overrun (b : Bool) : PortKeeps (OverrunIs b) where
  finish _ _ h := h
  withdraw h := h.of_port setLine_port
  trials _ _ :=
    { finish := fun _ _ h => h
      release := fun h => h
      exec := fun _ h => h
      place := fun _ h => h.of_port place_port
      ask := fun _ h => h.of_port (askCache_port _ _ _ _ _) }

theorem verifKeeps_overrun (b : Bool) : VerifKeeps (OverrunIs b) where
  renewal _ _ h := h
  released {u} h := h.of_port (verifReleased_port u)

theorem overrun_genLeaves (i : Fin 32) (c : CellId) (g : Nat) (s : State) :
    (genLeaves i c g s).port.overrun = s.port.overrun := by
  have port := portKeeps_overrun s.port.overrun
  unfold genLeaves
  refine removeCounterJobs_keeps (K := OverrunIs s.port.overrun) (fun _ _ h => h) (fun _ h => h) ?_
  exact causes_keeps (verifKeeps_overrun _) rfl True (fun _ {_} _ h => portRefused_keeps port h) (fun _ => trivial)
    (fun _ _ _ _ => trivial) (fun {u e} _ h => h.of_port (dropFillRequest_port e u))
    (fun h => portReact_keeps port h)

theorem overrun_activation : (activation i gen hour c x s).port.overrun = s.port.overrun := by
  have stamped : (stampedState i hour c x s).port.overrun = s.port.overrun := by
    unfold stampedState activatePrevious
    split
    · rfl
    · dsimp only
      split
      · rfl
      · exact overrun_genLeaves _ _ _ _
  change (raiseVerifyOnly i c gen (stampedState i hour c x s)).port.overrun = _
  rcases raiseVerifyOnly_cases i c gen (stampedState i hour c x s) with e | e <;> rw [e] <;> exact stamped

theorem activate_answers (hp : q.port = true) (h : q.job = .activate i gen)
    (hx : genWith (slotOf s i) .staged = some (c, x)) : Answers s (completed q hour both s) .ok
      (u8 i.val :: be16 gen ++ be16 ((genNumber (slotOf s i) .current).getD 0) ++
        [yesNo ((genNumber (slotOf s i) .current).isSome && !(x.params.graceHours == 0 && x.params.graceCount == 0))]) := by
  have told : Answers s (tellPort q (doneEffect q hour both s)) .ok (activateBody i gen (genNumber (slotOf s i) .current)
      (keepsPrevious x (slotOf s i))) := by
    rw [tellPort_unanswered (activate_untold h hx), doneEffect_activate h hx, if_pos hp]
    exact answers_finish .ok _ overrun_activation
  have kept : keepsPrevious x (slotOf s i) = ((genNumber (slotOf s i) .current).isSome &&
      !(x.params.graceHours == 0 && x.params.graceCount == 0)) := by
    rw [keepsPrevious, genNumber, Option.isSome_map]
    rfl
  have answered := answers_completed (by rw [h]; rfl) told
  rw [kept] at answered
  exact answered

end Sys2Proof.Machine
end

section
/-! PROOFS. A completed job changes its image and nothing else of its slot (R12): the rules of all jobs together. -/

namespace Sys2Proof.Machine

variable {r : Running} {q : QJob} {s t : State}

/-! ### STAGE and ACTIVATE by their cases -/

theorem jobDone_stage {i : Fin 32} {target : Binding} {g : GenRecord} {f : Nat} {hour : Nat} {both : Bool}
    (h : q.job = .stage i target g f) :
    let t := completed q hour both s
    (slotOf t i).graceProgress = 0 ∧
    (both = true → (slotOf t i).cellA = some (stagedImg g f) ∧
      SlotBecomes t i { slotOf s i with
        floor := g.params.generation, cellA := some (stagedImg g f), cellB := none, quarantined := false } ∧
      (q.port = false → NoCounterJob t i .a ∧ NoCounterJob t i .b)) ∧
    (both = false → ∀ c, StagesInto { slotOf s i with quarantined := false } c →
      cellOf (slotOf t i) c = some (stagedImg g f) ∧
      SlotBecomes t i { setCell (slotOf s i) c (some (stagedImg g f)) with
        floor := g.params.generation, quarantined := false } ∧
      ∀ x, cellOf (slotOf s i) c = some x → (q.port = false → GenLeft t i c x.params.generation) ∧
        (roleIn (slotOf s i) c = some .overlap →
          Notice.overlapEnded i x.params.generation .superseded ∈ t.notices)) := by
  intro t
  refine ⟨?_, ?_, ?_⟩
  · change (slotOf (portSettle (completeJob q hour both s)) i).graceProgress = 0
    rw [graceProgress_completed (by rw [h]; rfl)]
    simp only [doneEffect, h, graceProgress_doneStage]
  · rintro rfl
    obtain ⟨cell, slot⟩ := stage_both_completed (s := s) (hour := hour) h
    exact ⟨cell, slot, stage_both_left h⟩
  · rintro rfl c hc
    obtain ⟨cell, slot⟩ := stage_completed (s := s) (hour := hour) h hc
    exact ⟨cell, slot, fun x hx => stage_left h hc hx⟩

theorem noGrace_iff {p : GenParams} : noGrace p = true ↔ p.graceHours = 0 ∧ p.graceCount = 0 := by
  simp [noGrace]

/-- What the entries' roles need of the state before (R92). -/
def RolesMoved (q : QJob) (s t : State) (i : Fin 32) (c : CellId) (x : CellImg) (previous : Option Nat) : Prop :=
  OneEntryEach s → s.device ≠ .faulted → (q.port = true → ∃ op, s.port.exec = .activate op) → RolesMove s t i c x previous

/-- The slot as an activation stamps the generation in cell `c`. -/
def stampedSlot (c : CellId) (x : CellImg) (stamp hour : Nat) (img : SlotImg) : SlotImg :=
  setCell img c (some { x with activation := some ⟨stamp, hour⟩ })

theorem activated_stamps {img : SlotImg} {c : CellId} {x : CellImg} (hx : genWith img .staged = some (c, x)) (hour : Nat) :
    ∃ jmg stamp, activated hour c (keepsPrevious x img) img =
      { setCell jmg c (some (stamped stamp hour x)) with graceProgress := 0 } := by
  cases hy : genWith img .current with
  | none => exact ⟨_, _, activated_first hx hy⟩
  | some z =>
    obtain ⟨p, y⟩ := z
    obtain ⟨_, a, hz, ha⟩ := activation_of_role (genWith_role hy) nofun
    cases (genWith_cell hy).2.symm.trans hz
    cases grace : noGrace x.params with
    | false => exact ⟨_, _, activated_kept hx hy ha grace⟩
    | true => exact ⟨_, _, activated_gone hx hy ha grace⟩

theorem jobDone_activate {i : Fin 32} {c : CellId} {x : CellImg} {hour : Nat} {both : Bool}
    (h : q.job = .activate i x.params.generation) (hx : genWith (slotOf s i) .staged = some (c, x)) :
    let t := completed q hour both s
    (slotOf t i).graceProgress = 0 ∧ (cellOf (slotOf t i) c).map (·.wear) = some (some 0) ∧
    (genWith (slotOf s i) .current = none → SlotBecomes t i (stampedSlot c x 1 hour (slotOf s i)) ∧
      Notice.activated i x.params.generation none false ∈ t.notices ∧ RolesMoved q s t i c x none) ∧
    ∀ p y a, genWith (slotOf s i) .current = some (p, y) → y.activation = some a →
      (0 < x.params.graceHours ∨ 0 < x.params.graceCount →
        SlotBecomes t i (stampedSlot c x (a.stamp + 1) hour (slotOf s i)) ∧
        Notice.activated i x.params.generation (some y.params.generation) true ∈ t.notices ∧
        (y.params.generation ≠ x.params.generation → RolesMoved q s t i c x (some y.params.generation))) ∧
      (x.params.graceHours = 0 → x.params.graceCount = 0 →
        SlotBecomes t i (stampedSlot c x (a.stamp + 1) hour (setCell (slotOf s i) p none)) ∧
        Notice.activated i x.params.generation (some y.params.generation) false ∈ t.notices ∧
        (y.params.generation ≠ x.params.generation → HoldersInOrder s → RolesMoved q s t i c x none) ∧
        GenLeft t i p y.params.generation) := by
  intro t
  have notice := notice_activate (hour := hour) (both := both) h hx
  refine ⟨graceProgress_activate h hx, ?_, fun hn => ?_, fun p y a hy ha => ⟨fun hg => ?_, fun hh hc => ?_⟩⟩
  · obtain ⟨img, stamp, stamps⟩ := activated_stamps hx hour
    exact wear_activate h hx stamps
  · have kept : keepsPrevious x (slotOf s i) = false := by simp [keepsPrevious, hn]
    rw [hn, kept] at notice
    exact ⟨slotBecomes_activate h hx (activated_first hx hn), notice, fun _ hd _ => rolesMove_first h hx hn hd⟩
  · have grace : noGrace x.params = false := by
      rw [Bool.eq_false_iff, ne_eq, noGrace_iff]
      omega
    have kept : keepsPrevious x (slotOf s i) = true := by simp [keepsPrevious, hy, grace]
    rw [hy, kept] at notice
    exact ⟨slotBecomes_activate h hx (activated_kept hx hy ha grace), notice,
      fun hne _ hd hport => rolesMove_kept h hx hy ha grace hd hne hport⟩
  · have grace : noGrace x.params = true := noGrace_iff.2 ⟨hh, hc⟩
    have kept : keepsPrevious x (slotOf s i) = false := by simp [keepsPrevious, grace]
    rw [hy, kept] at notice
    exact ⟨slotBecomes_activate h hx (activated_gone hx hy ha grace), notice,
      fun hne orders one hd _ => rolesMove_gone h hx hy ha grace hd hne one orders, activate_left h hx hy grace⟩

/-- What the completion of a job does, in the order of `JobDone`. -/
theorem jobDone_completed (r : Running) (q : QJob) (s : State) : JobDone r q s (completed q r.hour r.bothCells s) where
  suspend _ h := suspend_completed h
  resume _ h := resume_completed h
  stage _ _ _ _ h := jobDone_stage h
  activate _ _ _ h hx := jobDone_activate h hx
  overlapEnd i c x cause h hx := by
    obtain ⟨left, notice⟩ := overlapEnd_left (hour := r.hour) (both := r.bothCells) h hx
    refine ⟨?_, overlapEnd_completed h hx, notice, left⟩
    change (slotOf (portSettle (completeJob q r.hour r.bothCells s)) i).graceProgress = 0
    rw [graceProgress_completed (by rw [h]; rfl)]
    simp only [doneEffect, h, graceProgress_doneOverlapEnd hx]
  revoke _ _ h := by
    obtain ⟨progress, act, ovl⟩ := revoke_marks (s := s) (hour := r.hour) (both := r.bothCells) h
    exact ⟨revoke_completed h, progress, act, ovl, revoke_left h⟩
  header _ _ _ _ h := ⟨header_completed h, fun hm through one hp hd e he hs dirty => by
    subst through
    exact header_flushes h hm one hp hd he hs dirty⟩
  reserve _ _ _ _ _ h hx := ⟨reserve_completed h hx, fun hp hd _ he => reserve_flag h hp hd he⟩
  highWater _ _ _ _ _ h hx := ⟨highWater_completed h hx, fun hp hd _ he => highWater_flags h hp hd he⟩
  hour h := hour_completed h
  emptied _ h := emptied_completed h
  enrol _ _ _ _ h := ⟨_, resolves_resolveEnrol _ _ _, enrol_completed h⟩
  bundleFloor _ _ _ _ h := bundleFloor_completed h
  arm record h := by
    obtain ⟨b, monitor⟩ := monitor_completed_arm (s := s) (hour := r.hour) (both := r.bothCells) h
    rw [monitor]
    refine ⟨rfl, rfl, fun lost => ?_, fun lost => ?_⟩ <;> simp [doneArm, nextArm, lost]
  noArm h := monitor_completed (by
    rw [Bool.eq_false_iff, ne_eq, isArm_iff]
    rintro ⟨record, hj⟩
    exact h record hj)
  otherSlots _ h := otherSlots_completed h
  otherEntries _ ha hb := otherEntries_completed ha hb

/-! ### From the last write on -/

theorem holdersInOrder_lastWritten {w : ArrayWrite} (h : HoldersInOrder s) : HoldersInOrder (lastWritten w s) :=
  ⟨h.granted, h.fills, h.roles, h.pins, h.waits⟩

/-- What holds of the state as the last write has matched holds of the state before it. -/
theorem JobDone.of_lastWritten {w : ArrayWrite} (h : JobDone r q (lastWritten w s) t) : JobDone r q s t where
  suspend := h.suspend
  resume := h.resume
  stage := h.stage
  activate i c x hj hx := by
    obtain ⟨progress, wear, first, later⟩ := h.activate i c x hj hx
    refine ⟨progress, wear, first, fun p y a hy ha => ?_⟩
    obtain ⟨kept, gone⟩ := later p y a hy ha
    refine ⟨kept, fun hh hc => ?_⟩
    obtain ⟨slot, notice, roles, left⟩ := gone hh hc
    exact ⟨slot, notice, fun hne orders => roles hne (holdersInOrder_lastWritten orders), left⟩
  overlapEnd := h.overlapEnd
  revoke := h.revoke
  header := h.header
  reserve := h.reserve
  highWater := h.highWater
  hour := h.hour
  emptied := h.emptied
  enrol := h.enrol
  bundleFloor := h.bundleFloor
  arm := h.arm
  noArm := h.noArm
  otherSlots := h.otherSlots
  otherEntries := h.otherEntries

theorem putWrite_identity (whole : Bool) (a : StoreArray) (w : ArrayWrite) : (putWrite whole a w).identity = a.identity := by
  cases w <;> first | rfl | (simp only [putWrite]; split <;> rfl)

theorem systemTitle_lastWritten (w : ArrayWrite) (s : State) : systemTitle (lastWritten w s) = systemTitle s := by
  rw [systemTitle, lastWritten, putWrite_identity, systemTitle]

theorem not_verifies {i : Fin 2} (h : ∀ v, s.renewal.verif = some v → v.ctx ≠ i) : ¬Verifies s i :=
  fun ⟨v, hv, hi⟩ => h v hv hi

/-- Settles O56, by the job that completes: its rule in `JobDone`, its context, and the command that waits on it. -/
theorem completedJobsChangeTheirImage : Obligations.CompletedJobsChangeTheirImage := by
  unfold Obligations.CompletedJobsChangeTheirImage
  intro r w q s hr hj hw ht
  refine ⟨_, exec_lastMatched hr hj hw ht, (jobDone_completed r q (lastWritten w s)).of_lastWritten, ?_, ?_, ?_, ?_⟩
  · intro i j more hc hd hs hjobs hv
    refine ⟨fun hm => ?_, fun hm arm => ?_⟩
    · subst hm
      have done := ctx_completed_last (q := q) (s := lastWritten w s) (hour := r.hour) (both := r.bothCells) hc hd hs hjobs
        (not_verifies hv)
      exact ⟨(congrArg (·.state) done.ctx), (congrArg (·.result) done.ctx), done.notice⟩
    · have plain : isArm q.job = false := by
        rw [Bool.eq_false_iff, ne_eq, isArm_iff]
        rintro ⟨record, h⟩
        exact arm record h
      exact ctx_completed_more (s := lastWritten w s) plain hc hd hs hjobs (not_verifies hv) hm
  · rintro op slot c gen v x e n hp hjob hx hs rfl rfl rfl hcell he hwh hn
    have reserved : Reserved op v n e x (lastWritten w s) := ⟨hx, hs, hcell, he, hwh, hn⟩
    refine ⟨fun spent => reserve_spent hp hjob reserved spent, fun h1000 hmax hlt => ?_⟩
    have gives := reserve_gives (hour := r.hour) (both := r.bothCells) hp hjob reserved h1000 hmax hlt
    rw [systemTitle_lastWritten] at gives
    exact gives
  · intro op slot c gen v hp hjob hx hs hq
    exact highWater_answers (s := lastWritten w s) hp hjob hx hs hq
  · intro op slot gen c x hp hjob _ _ hg
    exact activate_answers (s := lastWritten w s) hp hjob hg

end Sys2Proof.Machine
end

section
/-! PROOFS. The clamps of an INSTALL and the bounds of the wear figure (R40, R48, R53 to R55). -/

namespace Sys2Proof.Machine

/-! ### Clamps (Tables 2-1 and 2-2) -/

/-- The stored step is a power of two from 2^8 to 2^16: the greatest that the value reaches, but for the two ends of the range. -/
theorem clampStep_power (v : Nat) :
    ∃ k, 8 ≤ k ∧ k ≤ 16 ∧ clampStep v = 2 ^ k ∧ (k = 8 ∨ 2 ^ k ≤ v) ∧ (k = 16 ∨ v < 2 ^ (k + 1)) := by
  unfold clampStep
  split_ifs
  · exact ⟨8, by omega⟩
  · exact ⟨9, by omega⟩
  · exact ⟨10, by omega⟩
  · exact ⟨11, by omega⟩
  · exact ⟨12, by omega⟩
  · exact ⟨13, by omega⟩
  · exact ⟨14, by omega⟩
  · exact ⟨15, by omega⟩
  · exact ⟨16, by omega⟩

theorem clampUse_eq (v : Nat) : clampUse v = if v ≤ 4000000000 then v else 4000000000 := Nat.min_def

theorem clampLife_eq (v : Nat) :
    clampLife v = if v = 0 then 0 else if v ≤ 23 then 24 else if v ≤ 87600 then v else 87600 := by
  unfold clampLife
  split_ifs <;> omega

theorem clampGrace_eq (v n : Nat) :
    clampGrace v n = if v = 0 ∧ n = 0 then 0 else if v = 0 then 720 else if v ≤ 720 then v else 720 := by
  unfold clampGrace
  split_ifs <;> omega

/-- The INSTALL body is illegal with the greatest counter start (R40, R139). -/
theorem parseInstall_greatestStart {b : List Byte} (h : fieldNat b 37 4 = 4294967295) : parseInstall b = none := by
  unfold parseInstall
  cases roleOfCode (u8 (fieldNat b 21 1)) with
  | none => rfl
  | some role =>
    cases parseRule (u8 (fieldNat b 24 1)) (fieldNat b 25 4) with
    | none => rfl
    | some rule => exact if_pos (by simp [h])

theorem parseBundle_of_body {b : List Byte} {k : BundleKind} (hk : kindOfCode (u8 (fieldNat b 0 1)) = some k)
    (hb : parseBody k b = none) : parseBundle b = none := by
  simp [parseBundle, hk, hb]

/-- Settles O59, clamp by clamp; the steps by the exponent that `clampStep_power` gives. -/
theorem installFieldsAreClamped : Obligations.InstallFieldsAreClamped := by
  refine ⟨fun v => ?_, clampUse_eq, clampLife_eq, clampGrace_eq, fun i key => ⟨rfl, rfl, rfl, rfl, rfl, rfl⟩,
    fun b kind start => ?_⟩
  · obtain ⟨k, low, high, step, reached, next⟩ := clampStep_power v
    refine ⟨⟨k, low, high, step⟩, ?_⟩
    rw [step]
    interval_cases k <;> omega
  · exact parseBundle_of_body (k := .install) (by rw [kind]; rfl) (parseInstall_greatestStart start)

/-! ### Wear (2.6) -/

/-- The rounding up reaches 1000 where more than 999 thousandths of a set limit are used (R54). -/
theorem wearTerm_full (amount limit : Nat) : 1000 ≤ wearTerm amount limit ↔ limit ≠ 0 ∧ 999 * limit < 1000 * amount := by
  unfold wearTerm
  split
  · rename_i h
    simp [h]
  · rename_i h
    rw [Nat.le_div_iff_mul_le (Nat.pos_of_ne_zero h)]
    omega

theorem wearTerm_unlimited (amount : Nat) : wearTerm amount 0 = 0 := rfl

theorem wearClass_spent (w : Nat) : wearClass w = .spent ↔ 1000 ≤ w := by
  unfold wearClass
  split_ifs <;> simp <;> omega

theorem wearFigure_le (p : GenParams) (use age : Nat) : wearFigure p use age ≤ 1000 := by
  unfold wearFigure
  split
  · exact le_rfl
  · exact Nat.min_le_left ..

/-- The figure reaches 1000 by exhaustion or by one of its two terms (R48). -/
theorem wearFigure_full (p : GenParams) (use age : Nat) : 1000 ≤ wearFigure p use age ↔
    use = 4294967295 ∨ 1000 ≤ wearTerm (use - p.counterStart) p.useLimit ∨ 1000 ≤ wearTerm age p.lifetime := by
  unfold wearFigure
  split
  · rename_i h
    exact iff_of_true le_rfl (.inl h)
  · rename_i h
    rw [le_min_iff, le_max_iff, and_iff_right le_rfl, or_iff_right h]

/-- Settles O60: each term of the figure by `wearTerm_full`. -/
theorem wearIsSpentAtItsLimits : Obligations.WearIsSpentAtItsLimits := by
  intro p use age
  refine ⟨wearFigure_le p use age, ?_, fun noUse noLife fresh => ?_⟩
  · rw [wearClass_spent, wearFigure_full, wearTerm_full, wearTerm_full]
  · rw [wearFigure, if_neg fresh, noUse, noLife, wearTerm_unlimited, wearTerm_unlimited]
    rfl

end Sys2Proof.Machine
end

section
/-! PROOFS. The Service Clock: who leaves it alone, and what an edge on STICK makes of it (R33 to R37). -/

namespace Sys2Proof.Machine

variable {s t : State}

/-! ### The commands that leave the clock alone -/

theorem clock_storeWriteReadBack {b : ReadBack} (e : exec (.storeWriteReadBack b) s = .next t) : t.clock = s.clock := by
  simp only [exec, execStoreWriteReadBack] at e
  split at e
  · cases e; rfl
  · split at e
    · cases e; rfl
    · split at e <;> cases e
      · obtain ⟨a, kept⟩ := kept_writeEnd
        exact (kept_portSettle kept).clock
      · rfl

theorem clock_tamperInputLevelChange {i : TamperInput} {l : Level} (e : exec (.tamperInputLevelChange i l) s = .next t) :
    t.clock = s.clock := by
  simp only [exec, execTamperInputLevelChange] at e
  split at e <;> cases e <;> rfl

theorem clock_pfailAssert (e : exec .pfailAssert s = .next t) : t.clock = s.clock := by
  have taken {u : State} (h : u.device ≠ .faulted) : (warningTaken u).clock = u.clock :=
    (kept_warningTaken h (kept_refl u)).clock
  simp only [exec, execPfailAssert] at e
  split at e
  · cases e; rfl
  · split at e <;> cases e
    case h_1 d | h_2 d =>
      split
      · rfl
      · exact taken (by simp [d])
    all_goals rfl

/-- No command but a reset and the two rows of the counted edge changes the clock (R33, R36). -/
theorem clock_exec {c : Instr} (hc : isReset c = false) (h1 : c ≠ .stickEdge) (h2 : c ≠ .hourBoundary)
    (e : exec c s = .next t) : t.clock = s.clock := by
  by_cases h3 : ∃ b, c = .storeWriteReadBack b
  · obtain ⟨b, rfl⟩ := h3
    exact clock_storeWriteReadBack e
  by_cases h4 : ∃ i l, c = .tamperInputLevelChange i l
  · obtain ⟨i, l, rfl⟩ := h4
    exact clock_tamperInputLevelChange e
  by_cases h5 : c = .pfailAssert
  · subst h5
    exact clock_pfailAssert e
  by_cases h6 : c = .pfailDeasserted
  · subst h6
    cases e; rfl
  exact (kept_exec c hc h1 h2 (fun b h => h3 ⟨b, h⟩) (fun i l h => h4 ⟨i, l, h⟩) h5 h6 e).clock

/-! ### The counted edge -/

theorem clock_hourBoundary (s : State) : (hourBoundary s).clock = ⟨0, s.clock.hour + 1⟩ := kept_hourBoundary.clock

theorem clock_hourEdge (s : State) : (hourEdge s).clock = ⟨0, s.clock.hour + 1⟩ ∨ (hourEdge s).clock = ⟨0, s.clock.hour⟩ := by
  unfold hourEdge
  split
  · exact .inl (clock_hourBoundary s)
  · exact .inr rfl

theorem hour_stickEdge (e : exec .stickEdge s = .next t) :
    t.clock.hour = s.clock.hour ∨ t.clock.hour = s.clock.hour + 1 := by
  simp only [exec, execStickEdge] at e
  split at e
  · split at e <;> cases e
    · exact .inl rfl
    · rcases clock_hourEdge s with h | h <;> rw [h]
      · exact .inr rfl
      · exact .inl rfl
  · cases e; exact .inl rfl

theorem hour_hourBoundary (e : exec .hourBoundary s = .next t) :
    t.clock.hour = s.clock.hour ∨ t.clock.hour = s.clock.hour + 1 := by
  simp only [exec, execHourBoundary] at e
  split at e <;> rw [← Host.Outcome.next.inj e]
  · exact .inr (congrArg (·.hour) (clock_hourBoundary s))
  · exact .inl rfl

/-- Settles O8: the two rows of the counted edge by their lemmas, every other command by `clock_exec`. -/
theorem serviceHourNeverFalls : Obligations.ServiceHourNeverFalls := by
  intro c s t e hc
  have hour : t.clock.hour = s.clock.hour ∨ t.clock.hour = s.clock.hour + 1 := by
    by_cases h1 : c = .stickEdge
    · subst h1; exact hour_stickEdge e
    by_cases h2 : c = .hourBoundary
    · subst h2; exact hour_hourBoundary e
    · exact .inl (congrArg (·.hour) (clock_exec hc h1 h2 e))
  exact ⟨by omega, by omega, fun h1 h2 => clock_exec hc h1 h2 e⟩

/-! ### The edges one by one (R33 to R35) -/

theorem counting_eq (hrun : running s = true) : counting s = servingOrHolding s := by
  rw [counting, hrun, Bool.true_and]

theorem exec_secondEdge (hrun : running s = true) (hserve : servingOrHolding s = true) (hsec : s.clock.seconds < 3599) :
    exec .stickEdge s = .next { s with clock := { s.clock with seconds := s.clock.seconds + 1 } } := by
  change execStickEdge s = _
  rw [execStickEdge, counting_eq hrun, if_pos hserve, if_pos hsec]

theorem exec_lostEdge (hrun : running s = true) (h : servingOrHolding s = false) : exec .stickEdge s = .next s := by
  change execStickEdge s = _
  rw [execStickEdge, counting_eq hrun, if_neg (by simp [h])]

theorem exec_greatestHourEdge (hrun : running s = true) (hserve : servingOrHolding s = true) (hsec : s.clock.seconds = 3599)
    (hh : s.clock.hour = 4294967295) : exec .stickEdge s = .next { s with clock := ⟨0, 4294967295⟩ } := by
  change execStickEdge s = _
  rw [execStickEdge, counting_eq hrun, if_pos hserve, if_neg (by omega), hourEdge, if_neg (by simp [hh]), ← hh]

/-- The row HOUR_BOUNDARY is the 3600th edge (log entry 16). -/
theorem exec_hourBoundary (hrun : running s = true) (hserve : servingOrHolding s = true) (hsec : s.clock.seconds = 3599)
    (hh : s.clock.hour < 4294967295) : exec .hourBoundary s = .next (hourBoundary s) := by
  change execHourBoundary s = _
  rw [execHourBoundary, if_pos (by simp [counting_eq hrun, hserve, hsec, hh])]

theorem exec_hourBoundary_greatest (hh : s.clock.hour = 4294967295) : exec .hourBoundary s = .next s := by
  change execHourBoundary s = _
  rw [execHourBoundary, if_neg (by simp [hh])]

/-- The HOUR job is queued, or the strip-pending mark holds it (R37). -/
theorem requestHour_pending (s : State) :
    (∃ q ∈ (requestHour s).writer.queue, q.job = .hour) ∨ (requestHour s).writer.stripPending = true := by
  unfold requestHour
  dsimp only
  split
  · split
    · rename_i h
      obtain ⟨q, hq, hj⟩ := List.any_eq_true.1 h
      exact .inl ⟨q, hq, by simpa using hj⟩
    · split
      · exact .inl ⟨plainJob .hour, List.mem_append_right _ (.head _), rfl⟩
      · exact .inr rfl
  · exact .inr rfl

theorem hourBoundary_pending (s : State) :
    (∃ q ∈ (hourBoundary s).writer.queue, q.job = .hour) ∨ (hourBoundary s).writer.stripPending = true := by
  rw [hourBoundary_eq]
  exact requestHour_pending _

theorem ageOf_activatedNow {x : CellImg} {a : Activation} (hx : x.activation = some a) (ha : a.hour = s.clock.hour) :
    ageOf s x = 0 := by
  simp only [ageOf, hx, ha, Nat.sub_self]

/-- Settles O26, edge by edge; the 3600th by what the event keeps (`Kept`, `Beside`) and the HOUR job it asks for. -/
theorem stickEdgesCountTheHour : Obligations.StickEdgesCountTheHour := by
  intro s hrun
  refine ⟨exec_secondEdge hrun, fun hserve hsec hh => ?_, fun hserve hh => ⟨fun hsec => ?_, ?_, ?_⟩, exec_lostEdge hrun⟩
  · have beside := beside_hourBoundary (beside_refl s)
    exact ⟨hourBoundary s, exec_hourEdge hrun hserve hsec hh, exec_hourBoundary hrun hserve hsec hh, clock_hourBoundary s,
      kept_hourBoundary.array, beside.device, beside.assocs, beside.slots, hourBoundary_pending s⟩
  · exact exec_greatestHourEdge hrun hserve hsec hh
  · exact exec_hourBoundary_greatest hh
  · exact fun x a hx ha => ageOf_activatedNow hx (ha.trans hh.symm)

end Sys2Proof.Machine
end

section
/-! PROOFS. What asking for a RESERVE does to the queue, and what joining a pending one does (R44, R45, R177). -/

namespace Sys2Proof.Machine

variable {s t : State} {i : Fin 32} {c : CellId} {gen v n : Nat} {port : Bool}

theorem isReserveFor_iff {q : QJob} : isReserveFor i c q = true ↔ ∃ g w, q.job = .reserve i c g w := by
  unfold isReserveFor
  split <;> rename_i h <;> simp [h]
  intro g w hj
  exact h _ _ _ _ hj

/-! ### A RESERVE is asked for -/

/-- A queue with its RESERVE of a cell raised to a requested value (R177). -/
def withReserve (i : Fin 32) (c : CellId) (v : Nat) (port : Bool) (l : List QJob) : List QJob :=
  l.map fun q => if isReserveFor i c q then coalesce v port false q else q

/-- The RESERVE that is coalesced into has the requested value or a greater one, and the new waiter (R177). -/
theorem withReserve_raised {l : List QJob} (h : ∃ j ∈ l, isReserveFor i c j = true) :
    ∃ j ∈ withReserve i c v port l, (port = true → j.port = true) ∧ ∃ g w, j.job = .reserve i c g w ∧ v ≤ w := by
  obtain ⟨j, hj, hr⟩ := h
  obtain ⟨g, w, job⟩ := isReserveFor_iff.1 hr
  refine ⟨coalesce v port false j, List.mem_map.2 ⟨j, hj, if_pos hr⟩, fun hp => ?_, g, max w v, ?_, Nat.le_max_right w v⟩
  · simp [coalesce, hp]
  · simp [coalesce, job, raiseValue]

theorem withReserve_coalesced {l : List QJob} (h : ∃ j ∈ s.writer.queue, isReserveFor i c j = true)
    (hl : l = withReserve i c v port s.writer.queue) : l.length = s.writer.queue.length ∧
      ∃ j ∈ l, (port = true → j.port = true) ∧ ∃ g w, j.job = .reserve i c g w ∧ v ≤ w :=
  hl ▸ ⟨List.length_map _, withReserve_raised h⟩

theorem requestReserve_coalesces (h : ∃ j ∈ s.writer.queue, isReserveFor i c j = true) :
    requestReserve i c gen v port s = some (setQueue (withReserve i c v port s.writer.queue) s) :=
  if_pos (List.any_eq_true.2 h)

/-- Without a RESERVE of the cell a new one joins a queue with room (R177). -/
theorem requestReserve_queues (h : ¬∃ j ∈ s.writer.queue, isReserveFor i c j = true) (room : s.writer.queue.length < 8)
    (hd : s.device ≠ .faulted) :
    requestReserve i c gen v port s = some (enqueue ⟨.reserve i c gen v, none, port, false⟩ s) := by
  rw [requestReserve, requestCounter, if_neg (mt List.any_eq_true.1 h), if_pos (by simp [hasRoom, room, hd])]

theorem requestReserve_waits (h : ¬∃ j ∈ s.writer.queue, isReserveFor i c j = true) (full : 8 ≤ s.writer.queue.length) :
    requestReserve i c gen v port s = none := by
  rw [requestReserve, requestCounter, if_neg (mt List.any_eq_true.1 h), if_neg (by simp [hasRoom, full])]

/-! ### A pending RESERVE is joined -/

/-- A job with the Port Executor as its waiter where it is the RESERVE of a cell. -/
def reserveJoined (i : Fin 32) (c : CellId) (q : QJob) : QJob := if isReserveFor i c q then { q with port := true } else q

theorem reserveJoined_job (q : QJob) : (reserveJoined i c q).job = q.job := by
  unfold reserveJoined
  split <;> rfl

theorem reserveJoined_port {q : QJob} (h : isReserveFor i c (reserveJoined i c q) = true) :
    (reserveJoined i c q).port = true := by
  have own : isReserveFor i c q = true := by
    rw [isReserveFor_iff, reserveJoined_job] at h
    exact isReserveFor_iff.2 h
  rw [reserveJoined, if_pos own]

theorem joinReserve_queue : (joinReserve i c s).writer.queue = s.writer.queue.map (reserveJoined i c) := rfl

/-- The job in progress after the joining is the joined one. -/
theorem joinReserve_inHand {r : Running} {j : QJob} (h : (joinReserve i c s).writer.job = some r)
    (hj : r.task = .queued j) : ∃ q, j = reserveJoined i c q := by
  obtain ⟨r', -, rfl⟩ := Option.map_eq_some_iff.1 h
  cases ht : r'.task with
  | queued q =>
    simp only [ht] at hj
    cases hj
    exact ⟨q, rfl⟩
  | flush | opening | item | closing => simp [ht] at hj

end Sys2Proof.Machine
end

section
/-! PROOFS. A PROTECT that finds its READY entry: it is spent, takes its value, or waits for a RESERVE (R43 to R45, R101 to R104), and
what the value taken makes of the wear (R49, R56, R57). -/

namespace Sys2Proof.Machine

variable {s t u : State} {op : ProtectOp} {e y : Entry} {x : CellImg} {n m : Nat}

/-! ### The state that the cache's hit leaves -/

/-- The state as a PROTECT has its entry in hand: pinned, at the most recent end, the command in the executor (R79, R102). -/
def entryTaken (op : ProtectOp) (e : Entry) (s : State) : State := setExec (.protect op) (takeHit .port e s)

theorem findEntry_entryTaken (h : findEntry s op.slot op.gen = some e) :
    findEntry (entryTaken op e s) op.slot op.gen = some (pin .port e) := by
  obtain ⟨slot, gen⟩ := findEntry_key h
  exact List.find?_cons_of_pos (by simp [pin, slot, gen])

theorem askCache_hit {i : Fin 32} {c : CellId} {g : Nat} (hq : (slotOf s i).quarantined = false)
    (hb : s.cache.bars[i] = none) (he : findEntry s i g = some e) (hf : e.filling = false) (hw : e.withhold = none)
    (q : Requester) : askCache q i c g s = (.hit (pin q e), takeHit q e s) := by
  simp [askCache, hq, hb, he, hf, hw]

theorem protectSlot_ok {i : Fin 32} {c : CellId} (hq : (slotOf s i).quarantined = false)
    (hs : (slotOf s i).suspended = false) (hx : genWith (slotOf s i) .current = some (c, x)) (hw : classOf x ≠ .spent) :
    protectSlot s i = .ok (c, x) := by
  simp [protectSlot, slotRefusal, hq, hs, hx, hw]

/-- A PROTECT request, the slot and cell of the current generation it comes to, and that generation's READY entry: form, lookup, slot
and cache pass (R79, R101, R102). -/
structure HitsReady (body : List Byte) (q : ProtectReq) (slot : Fin 32) (c : CellId) (x : CellImg) (e : Entry) (s : State) :
    Prop where
  handed : Handed .protect body s
  device : s.device ≠ .faulted
  form : parseProtect body = .ok q
  found : lookup s q.party .unicast = .ok slot
  sound : (slotOf s slot).quarantined = false
  awake : (slotOf s slot).suspended = false
  current : genWith (slotOf s slot) .current = some (c, x)
  unspent : classOf x ≠ .spent
  unbarred : s.cache.bars[slot] = none
  entry : findEntry s slot x.params.generation = some e
  ready : e.filling = false
  uncaused : e.withhold = none

/-- The operation that a PROTECT request becomes on its current generation (R102). -/
def protectOn (q : ProtectReq) (slot : Fin 32) (c : CellId) (x : CellImg) : ProtectOp :=
  ⟨slot, c, x.params.generation, q.header, q.payload, .fill⟩

variable {body : List Byte} {q : ProtectReq} {slot : Fin 32} {c : CellId}

theorem HitsReady.taken (h : HitsReady body q slot c x e s) :
    findEntry (entryTaken (protectOn q slot c x) e s) slot x.params.generation = some (pin .port e) :=
  findEntry_entryTaken (op := protectOn q slot c x) h.entry

theorem protectReady_of_next (he : findEntry s op.slot op.gen = some e) (hn : e.n = some n) :
    protectReady op s = takeValue op s := by
  simp [protectReady, he, hn]

/-- Such a PROTECT takes its value from the entry in hand (R103). -/
theorem HitsReady.exec (h : HitsReady body q slot c x e s) (hn : e.n = some n) :
    exec .protect s = .next (takeValue (protectOn q slot c x) (entryTaken (protectOn q slot c x) e s)) := by
  have run : protectBodyRun body s = takeValue (protectOn q slot c x) (entryTaken (protectOn q slot c x) e s) := by
    rw [protectBodyRun, h.form]
    simp only [runProtect, h.found, protectSlot_ok h.sound h.awake h.current h.unspent,
      askCache_hit h.sound h.unbarred h.entry h.ready h.uncaused]
    exact protectReady_of_next (op := protectOn q slot c x) (e := pin .port e) h.taken hn
  change execProtect s = _
  rw [execProtect, onHanded_of_handed h.handed, run, portSettle_of_not_faulted]
  rw [(beside_takeValue (beside_refl _)).device]
  exact h.device

theorem HitsReady.cell (h : HitsReady body q slot c x e s) : cellOf (slotOf s slot) c = some x := (genWith_cell h.current).2

theorem HitsReady.role (h : HitsReady body q slot c x e s) : roleIn (slotOf s slot) c = some .current := genWith_role h.current

/-- A current generation has been activated. -/
theorem HitsReady.activated (h : HitsReady body q slot c x e s) : x.activation.isSome = true := by
  obtain ⟨y, a, hy, ha⟩ := activation_of_role h.role nofun
  rw [h.cell] at hy
  cases hy
  rw [ha]
  rfl

theorem HitsReady.wear (h : HitsReady body q slot c x e s) : x.wear ≠ some 1000 := by
  intro full
  refine h.unspent ?_
  rw [classOf, full]
  rfl

/-! ### What every outcome leaves -/

/-- Array, clock, entries, contexts and what the array says of the slots are the same. -/
def Rests (s t : State) : Prop := t.array = s.array ∧ t.clock = s.clock ∧ t.assocs = s.assocs ∧ t.renewal = s.renewal ∧
  ∀ i, slotCore (slotOf t i) = slotCore (slotOf s i)

theorem rests_takeValue (op : ProtectOp) (s : State) : Rests s (takeValue op s) := by
  have kept := kept_takeValue (op := op) (kept_refl s)
  have beside := beside_takeValue (op := op) (beside_refl s)
  exact ⟨kept.array, kept.clock, beside.assocs, (told_takeValue op s).renewal, beside.slots⟩

/-- The entry of a slot and generation has this next value and this reservation-pending flag. -/
def NextIs (t : State) (slot : Fin 32) (gen m : Nat) (flag : Bool) : Prop :=
  (findEntry t slot gen).map (fun e => (e.n, e.resvPending)) = some (some m, flag)

theorem nextIs_of_entry {gen : Nat} (h : findEntry t slot gen = some y) (hn : y.n = some m) :
    NextIs t slot gen m y.resvPending := by
  rw [NextIs, h, Option.map_some, hn]

theorem NextIs.of_cache {gen : Nat} {flag : Bool} (h : NextIs s slot gen m flag) (hc : t.cache = s.cache) :
    NextIs t slot gen m flag := by
  rwa [NextIs, findEntry_congr (congrArg (·.entries) hc)]

theorem nextIs_setPending (h : findEntry s op.slot op.gen = some y) (hn : y.n = some m) :
    NextIs (setPending op.slot op.gen true s) op.slot op.gen m true := by
  rw [NextIs, findEntry_setPending, h, Option.map_some, Option.map_some, hn]

/-! ### Spent (R103) -/

/-- The answer to a command leaves next value and flag of an ACTIVE entry without a cause (R83). -/
theorem nextIs_finish {i : Fin 32} {g : Nat} {k : Code} {b : List Byte} (h : findEntry s i g = some y)
    (hr : y.role = some .active) (hw : y.withhold = none) (hn : y.n = some m) :
    NextIs (finish k b s) i g m y.resvPending := by
  obtain ⟨z, hz, rfl | rfl⟩ := findEntry_releasePins (s := portLetsGo s) (q := .port) h hw
  · exact nextIs_of_entry hz hn
  · have other : y.role ≠ some .acceptOnly := by rw [hr]; nofun
    rw [NextIs, show findEntry (finish k b s) i g = _ from hz]
    simp only [unpinned, if_neg other, Option.map_some, hn]

theorem jobs_finish (k : Code) (b : List Byte) (s : State) :
    (finish k b s).writer.queue.map (·.job) = s.writer.queue.map (·.job) := by
  change (s.writer.queue.map unwaited).map (·.job) = _
  rw [List.map_map]
  rfl

/-! ### The ceiling is reached (R44) -/

theorem takeValue_waits (he : findEntry s op.slot op.gen = some e) (hx : cellOf (slotOf s op.slot) op.cell = some x)
    (hn : e.n = some n) (hw : x.wear ≠ some 1000) (hm : n < 4294967295) (hc : x.ceiling ≤ n) :
    takeValue op s = protectReserve op e x s := by
  have hm' : n ≠ 4294967295 := by omega
  simp [takeValue, he, hx, hn, hw, hm', Nat.not_lt.2 hc]

/-- With a RESERVE pending the PROTECT waits on it, queued or in progress (R44). -/
theorem protectReserve_pending (he : findEntry s op.slot op.gen = some e) (hn : e.n = some n) (h : e.resvPending = true) :
    (protectReserve op e x s).port.exec = .protect { op with stage := .reserve } ∧
      NextIs (protectReserve op e x s) op.slot op.gen n true ∧
      (protectReserve op e x s).writer.queue.map (·.job) = s.writer.queue.map (·.job) ∧
      (∀ j ∈ (protectReserve op e x s).writer.queue, isReserveFor op.slot op.cell j = true → j.port = true) ∧
      ∀ r j, (protectReserve op e x s).writer.job = some r → r.task = .queued j →
        isReserveFor op.slot op.cell j = true → j.port = true := by
  have joins : protectReserve op e x s =
      joinReserve op.slot op.cell (setExec (.protect { op with stage := .reserve }) s) := if_pos h
  rw [joins]
  refine ⟨rfl, h ▸ (nextIs_of_entry he hn).of_cache rfl, ?_, fun j hj own => ?_, fun r j hr hj own => ?_⟩
  · rw [joinReserve_queue, List.map_map]
    exact List.map_congr_left fun j _ => reserveJoined_job j
  · obtain ⟨k, -, rfl⟩ := List.mem_map.1 hj
    exact reserveJoined_port own
  · obtain ⟨k, rfl⟩ := joinReserve_inHand hr hj
    exact reserveJoined_port own

/-- With none pending it waits on the RESERVE it places (R44). -/
theorem protectReserve_placed {l : List QJob} (he : findEntry s op.slot op.gen = some e) (hn : e.n = some n)
    (h : e.resvPending = false)
    (ask : requestReserve op.slot op.cell op.gen (nextCeiling x) true s = some (setQueue l s)) :
    (protectReserve op e x s).port.exec = .protect { op with stage := .reserve } ∧
      NextIs (protectReserve op e x s) op.slot op.gen n true ∧ (protectReserve op e x s).writer.queue = l := by
  have placed : protectReserve op e x s =
      setExec (.protect { op with stage := .reserve }) (setPending op.slot op.gen true (setQueue l s)) := by
    simp [protectReserve, h, ask]
  rw [placed]
  exact ⟨rfl, (nextIs_setPending (s := setQueue l s) he hn).of_cache rfl, rfl⟩

/-- Without room it waits for room, the flag clear (R44). -/
theorem protectReserve_full (he : findEntry s op.slot op.gen = some e) (hn : e.n = some n) (h : e.resvPending = false)
    (ask : requestReserve op.slot op.cell op.gen (nextCeiling x) true s = none) :
    (protectReserve op e x s).port.exec = .protect { op with stage := .room } ∧
      NextIs (protectReserve op e x s) op.slot op.gen n false ∧
      (protectReserve op e x s).writer.queue = s.writer.queue := by
  have waits : protectReserve op e x s = setExec (.protect { op with stage := .room }) s := by
    simp [protectReserve, h, ask]
  rw [waits]
  exact ⟨rfl, h ▸ (nextIs_of_entry he hn).of_cache rfl, rfl⟩

theorem protectReserve_engine : (protectReserve op e x s).engine = s.engine := by
  unfold protectReserve
  split
  · rfl
  · split
    · rename_i ask
      obtain ⟨q, rfl⟩ := requestCounter_queue ask
      rfl
    · rfl

/-! ### A value is taken (R43, R45) -/

/-- A value taken from this entry leaves few enough below the ceiling that a RESERVE is asked for early (R45). -/
def ReservesEarly (e : Entry) (x : CellImg) (n : Nat) : Prop :=
  e.role = some .active ∧ x.ceiling - (n + 1) ≤ x.params.counterStep / 4 ∧ x.ceiling < 4294967295 ∧ e.resvPending = false

theorem earlyReserve_late (he : findEntry s op.slot op.gen = some e) (hx : cellOf (slotOf s op.slot) op.cell = some x)
    (hn : e.n = some (n + 1)) (h : ¬ReservesEarly e x n) : earlyReserve op s = s := by
  simp only [earlyReserve, he, hx, hn]
  refine if_neg fun early => h ?_
  simpa [ReservesEarly, and_assoc] using early

theorem earlyReserve_early (he : findEntry s op.slot op.gen = some e) (hx : cellOf (slotOf s op.slot) op.cell = some x)
    (hn : e.n = some (n + 1)) (h : ReservesEarly e x n) : earlyReserve op s =
      ((requestReserve op.slot op.cell op.gen (nextCeiling x) false s).map (setPending op.slot op.gen true)).getD s := by
  obtain ⟨role, few, below, clear⟩ := h
  simp only [earlyReserve, he, hx, hn, role, few, below, clear]
  cases requestReserve op.slot op.cell op.gen (nextCeiling x) false s <;> simp

/-- The early reservation check changes an entry in its reservation-pending flag at most (R45). -/
theorem findEntry_earlyReserve (he : findEntry s op.slot op.gen = some e) :
    ∃ b, findEntry (earlyReserve op s) op.slot op.gen = some { e with resvPending := b } := by
  rcases earlyReserve_cases op s with h | ⟨q, h⟩ <;> rw [h]
  · exact ⟨e.resvPending, he⟩
  · exact ⟨true, by rw [findEntry_setPending, findEntry_setQueue, he]; rfl⟩

/-- The state as the next value has risen, before the early reservation check. -/
def valueUsed (op : ProtectOp) (n : Nat) (s : State) : State :=
  updEntry op.slot op.gen (fun e => { e with n := some (n + 1) }) s

theorem findEntry_valueUsed (he : findEntry s op.slot op.gen = some e) :
    findEntry (valueUsed op n s) op.slot op.gen = some { e with n := some (n + 1) } := by
  rw [valueUsed, findEntry_updEntry (keys_withN _), he]
  rfl

/-- Cache and writer of a value given out are those that the early reservation check leaves. -/
theorem giveValue_reserved (op : ProtectOp) (key : List Byte) (n : Nat) (s : State) :
    (giveValue op key n s).cache = (earlyReserve op (valueUsed op n s)).cache ∧
      (giveValue op key n s).writer = (earlyReserve op (valueUsed op n s)).writer := by
  rw [giveValue_eq, place_cache, place_writer]
  have worn := worn_recomputeWear op.slot op.cell (earlyReserve op (valueUsed op n s))
  exact ⟨worn.cache, worn.writer⟩

/-- Without an early reservation the flag stands and the queue too. -/
theorem giveValue_late (he : findEntry s op.slot op.gen = some e) (hx : cellOf (slotOf s op.slot) op.cell = some x)
    (late : ¬ReservesEarly e x n) (key : List Byte) :
    NextIs (giveValue op key n s) op.slot op.gen (n + 1) e.resvPending ∧
      (giveValue op key n s).writer.queue = s.writer.queue := by
  obtain ⟨cache, writer⟩ := giveValue_reserved op key n s
  have entry := findEntry_valueUsed (n := n) he
  rw [earlyReserve_late entry hx rfl late] at cache writer
  exact ⟨(nextIs_of_entry entry rfl).of_cache cache, congrArg (·.queue) writer⟩

/-- An early RESERVE that is placed sets the flag, and no command waits on it (R45). -/
theorem giveValue_early {l : List QJob} (he : findEntry s op.slot op.gen = some e)
    (hx : cellOf (slotOf s op.slot) op.cell = some x) (early : ReservesEarly e x n)
    (ask : requestReserve op.slot op.cell op.gen (nextCeiling x) false (valueUsed op n s) =
      some (setQueue l (valueUsed op n s))) (key : List Byte) :
    NextIs (giveValue op key n s) op.slot op.gen (n + 1) true ∧ (giveValue op key n s).writer.queue = l := by
  obtain ⟨cache, writer⟩ := giveValue_reserved op key n s
  have entry := findEntry_valueUsed (n := n) he
  rw [earlyReserve_early entry hx rfl early, ask] at cache writer
  exact ⟨(nextIs_setPending (s := setQueue l (valueUsed op n s)) entry rfl).of_cache cache, congrArg (·.queue) writer⟩

/-- An early RESERVE without room is not placed, and the flag stays clear (R45). -/
theorem giveValue_early_full (he : findEntry s op.slot op.gen = some e)
    (hx : cellOf (slotOf s op.slot) op.cell = some x) (early : ReservesEarly e x n)
    (ask : requestReserve op.slot op.cell op.gen (nextCeiling x) false (valueUsed op n s) = none) (key : List Byte) :
    NextIs (giveValue op key n s) op.slot op.gen (n + 1) false ∧
      (giveValue op key n s).writer.queue = s.writer.queue := by
  obtain ⟨cache, writer⟩ := giveValue_reserved op key n s
  have entry := findEntry_valueUsed (n := n) he
  rw [earlyReserve_early entry hx rfl early, ask] at cache writer
  obtain ⟨-, -, -, clear⟩ := early
  have next := nextIs_of_entry entry rfl
  simp only [clear] at next
  exact ⟨next.of_cache cache, congrArg (·.queue) writer⟩

/-! ### The wear of a value taken (R49, R56, R57) -/

/-- The figure of a current generation whose ACTIVE entry has this next value (R49). -/
theorem wearNow_of_active {i : Fin 32} {c : CellId} (hr : roleIn (slotOf s i) c = some .current)
    (he : findEntry s i x.params.generation = some y) (hf : y.filling = false) (ha : y.role = some .active)
    (hn : y.n = some m) : wearNow s i c x = wearFigure x.params m (ageOf s x) := by
  simp [wearNow, usePoint, hr, activeN, he, hf, ha, hn]

/-- The recomputation of a current generation notifies a change of class, and nothing else (R57). -/
theorem recomputeWear_notices {i : Fin 32} {c : CellId} (hx : cellOf (slotOf s i) c = some x)
    (ha : x.activation.isSome = true) (hr : roleIn (slotOf s i) c = some .current) :
    (recomputeWear i c s).notices =
      if wearClass (wearNow s i c x) = classOf x then s.notices
      else raiseIn (.wearChanged i x.params.generation (classOf x) (wearClass (wearNow s i c x)) (wearNow s i c x)) s.notices := by
  have role : roleIn (slotOf (setWear i c s) i) c = some .current := by rw [(worn_setWear i c s).role, hr]
  have notices : (setWear i c s).notices = s.notices := by rw [setWear_eq hx ha]; rfl
  simp only [recomputeWear, hx, ha, if_true, role]
  by_cases same : wearClass (wearNow s i c x) = classOf x
  · simp [same, notices]
  · simp [same, raise, notices]

/-- The figure that the recomputation after a value given out under an ACTIVE entry comes to (R49). -/
theorem wearNow_reserved (hr : roleIn (slotOf s op.slot) op.cell = some .current) (hg : op.gen = x.params.generation)
    (he : findEntry s op.slot op.gen = some e) (hf : e.filling = false) (ha : e.role = some .active) :
    wearNow (earlyReserve op (valueUsed op n s)) op.slot op.cell x = wearFigure x.params (n + 1) (ageOf s x) := by
  obtain ⟨b, entry⟩ := findEntry_earlyReserve (findEntry_valueUsed (n := n) he)
  have calm : Calm s (earlyReserve op (valueUsed op n s)) := calm_earlyReserve (calm_updEntry (calm_refl s))
  have clock : (earlyReserve op (valueUsed op n s)).clock = s.clock :=
    (kept_earlyReserve (kept_updEntry (keys_withN _) (kept_refl s))).clock
  have role : roleIn (slotOf (earlyReserve op (valueUsed op n s)) op.slot) op.cell = some .current := by
    rw [slotOf, calm.slots]
    exact hr
  rw [hg] at entry
  rw [wearNow_of_active role entry hf ha rfl]
  simp only [ageOf, clock]

/-- The class shown is that of the generation's figure. -/
theorem classOf_shown {z : Option CellImg} {cls : WearClass} {w : Nat} (hz : z.map classOf = some cls)
    (hw : z.bind (·.wear) = some w) : cls = wearClass w := by
  cases z with
  | none => cases hz
  | some y =>
    simp only [Option.map_some, Option.some.injEq, Option.bind_some] at hz hw
    rw [← hz, classOf, hw]
    rfl

/-- A value given out under an ACTIVE entry gives its generation the figure of the next value and the age, and notifies a change of
class (R56, R57). -/
theorem giveValue_wear (hx : cellOf (slotOf s op.slot) op.cell = some x) (hact : x.activation.isSome = true)
    (hr : roleIn (slotOf s op.slot) op.cell = some .current) (hg : op.gen = x.params.generation)
    (he : findEntry s op.slot op.gen = some e) (hf : e.filling = false) (ha : e.role = some .active) (key : List Byte) :
    (cellOf (slotOf (giveValue op key n s) op.slot) op.cell).bind (·.wear) =
        some (wearFigure x.params (n + 1) (ageOf s x)) ∧
      (giveValue op key n s).notices =
        if wearClass (wearFigure x.params (n + 1) (ageOf s x)) = classOf x then s.notices
        else raiseIn (.wearChanged op.slot x.params.generation (classOf x)
          (wearClass (wearFigure x.params (n + 1) (ageOf s x))) (wearFigure x.params (n + 1) (ageOf s x))) s.notices := by
  have calm : Calm s (earlyReserve op (valueUsed op n s)) := calm_earlyReserve (calm_updEntry (calm_refl s))
  have slot : slotOf (earlyReserve op (valueUsed op n s)) op.slot = slotOf s op.slot := by rw [slotOf, calm.slots, slotOf]
  have figure := wearNow_reserved (n := n) hr hg he hf ha
  rw [giveValue_eq, place_notices, slotOf, place_slots]
  change (cellOf (slotOf (recomputeWear op.slot op.cell (earlyReserve op (valueUsed op n s))) op.slot) op.cell).bind _ = _ ∧
    (recomputeWear op.slot op.cell (earlyReserve op (valueUsed op n s))).notices = _
  rw [← slot] at hx hr
  rw [slotOf_recomputeWear, setWear_eq hx hact, slotOf_setSlot, cellOf_setCell, recomputeWear_notices hx hact hr, figure,
    calm.notices]
  exact ⟨rfl, rfl⟩

/-! ### The two statements -/

/-- A value below the ceiling is given out (R103). -/
theorem HitsReady.gives (h : HitsReady body q slot c x e s) (hn : e.n = some n) (hm : n ≠ 4294967295) (hc : n < x.ceiling) :
    takeValue (protectOn q slot c x) (entryTaken (protectOn q slot c x) e s) =
      giveValue (protectOn q slot c x) e.key n (entryTaken (protectOn q slot c x) e s) :=
  takeValue_gives (op := protectOn q slot c x) (e := pin .port e) h.taken h.cell hn h.wear hm hc

theorem HitsReady.waits (h : HitsReady body q slot c x e s) (hn : e.n = some n) (hm : n < 4294967295) (hc : x.ceiling ≤ n) :
    takeValue (protectOn q slot c x) (entryTaken (protectOn q slot c x) e s) =
      protectReserve (protectOn q slot c x) (pin .port e) x (entryTaken (protectOn q slot c x) e s) :=
  takeValue_waits (op := protectOn q slot c x) (e := pin .port e) h.taken h.cell hn h.wear hm hc

/-- The figure and the notices of a value given out under an ACTIVE entry (R49, R56, R57). -/
theorem HitsReady.figure (h : HitsReady body q slot c x e s) (ha : e.role = some .active) (n : Nat) :
    let t := giveValue (protectOn q slot c x) e.key n (entryTaken (protectOn q slot c x) e s)
    let w := wearFigure x.params (n + 1) (ageOf s x)
    (cellOf (slotOf t slot) c).bind (·.wear) = some w ∧
      t.notices = if wearClass w = classOf x then s.notices
        else raiseIn (.wearChanged slot x.params.generation (classOf x) (wearClass w) w) s.notices :=
  giveValue_wear (op := protectOn q slot c x) (s := entryTaken (protectOn q slot c x) e s) h.cell h.activated h.role rfl
    (e := pin .port e) h.taken h.ready ha e.key

/-- Settles O36, by the figure of the value given out. -/
theorem wearClassChangesAreNotified : Obligations.WearClassChangesAreNotified := by
  intro body q slot c x e n s handed device form found sound awake current unspent unbarred entry ready uncaused role hn hc hm w
  have hits : HitsReady body q slot c x e s :=
    ⟨handed, device, form, found, sound, awake, current, unspent, unbarred, entry, ready, uncaused⟩
  obtain ⟨figure, notices⟩ := hits.figure role n
  refine ⟨_, (hits.exec hn).trans (congrArg _ (hits.gives hn (by omega) hc)), figure, fun changed => ?_, fun same => ?_⟩
  · rw [notices, if_neg changed]
    exact mem_raiseIn _ _
  · rw [notices, if_pos same]

/-- Settles O35: spent, a value below the ceiling with the early reservation check in its cases, and the ceiling in its own. -/
theorem protectTakesACounterValue : Obligations.ProtectTakesACounterValue := by
  intro body q slot c x e n s handed device form found sound awake current unspent unbarred entry ready uncaused hn
    gen doing next rests ceiling queuedNew coalesced another
  have hits : HitsReady body q slot c x e s :=
    ⟨handed, device, form, found, sound, awake, current, unspent, unbarred, entry, ready, uncaused⟩
  let op := protectOn q slot c x
  let u := entryTaken op e s
  have taken : findEntry u op.slot op.gen = some (pin .port e) := hits.taken
  have rest : Rests s (takeValue op u) := rests_takeValue op u
  refine ⟨fun spent => ?_, fun hm hc => ?_, fun hm hc => ?_⟩
  · have answer : takeValue op u = finish .keySpent [] u := takeValue_spent taken hits.cell hn (.inr spent)
    exact ⟨finish .keySpent [] u, (hits.exec hn).trans (congrArg _ answer), rfl, rfl, answer ▸ rest, jobs_finish _ _ u,
      fun role => nextIs_finish (i := op.slot) (g := op.gen) (y := pin .port e) taken role uncaused hn⟩
  · have gives : takeValue op u = giveValue op e.key n u := hits.gives hn hm hc
    obtain ⟨cls, exec, shown, -, asked⟩ := giveValue_spec (key := e.key) (n := n) taken hits.cell
    refine ⟨giveValue op e.key n u, cls, (hits.exec hn).trans (congrArg _ gives), exec, gives ▸ rest, shown,
      fun role => classOf_shown shown (hits.figure role n).1, asked, fun late => ?_, fun early other => ?_,
      fun early alone room => ?_, fun early alone full => ?_⟩
    · exact giveValue_late taken hits.cell late e.key
    · obtain ⟨nextIs, queue⟩ := giveValue_early taken hits.cell early (requestReserve_coalesces other) e.key
      exact ⟨nextIs, withReserve_coalesced other queue⟩
    · exact giveValue_early taken hits.cell early (requestReserve_queues alone room device) e.key
    · exact giveValue_early_full taken hits.cell early (requestReserve_waits alone full) e.key
  · have waits : takeValue op u = protectReserve op (pin .port e) x u := hits.waits hn hm hc
    refine ⟨protectReserve op (pin .port e) x u, (hits.exec hn).trans (congrArg _ waits), waits ▸ rest,
      protectReserve_engine, fun pending => ?_, fun clear other => ?_, fun clear alone room => ?_, fun clear alone full => ?_⟩
    · exact protectReserve_pending taken hn pending
    · obtain ⟨exec, nextIs, queue⟩ := protectReserve_placed taken hn clear (requestReserve_coalesces other)
      exact ⟨exec, nextIs, withReserve_coalesced other queue⟩
    · exact protectReserve_placed taken hn clear (requestReserve_queues alone room device)
    · exact protectReserve_full taken hn clear (requestReserve_waits alone full)

end Sys2Proof.Machine
end

section
/-! PROOFS. The loader resolves the conflicts of the association entries in index order: what it makes of one entry beside the
lower ones (R60, R63, Table 3-1). -/

namespace Sys2Proof.Machine

variable {before : List AssocImg} {e : AssocImg} {r : Role} {x : Fin 32}

/-! ### One entry beside the lower ones -/

/-- An entry as the loader settles it beside the lower entries (R60). -/
def settledAssoc (before : List AssocImg) (e : AssocImg) : AssocImg :=
  resolveSlots before (resolveOwn (resolveParty before e))

/-- An earlier role of the bindings holds what this role holds. -/
def heldEarlier (b : Roles (Option (Fin 32))) (r : Role) : Bool :=
  (allRoles.takeWhile (· != r)).any fun q => roleGet b q == roleGet b r

/-- Some entry of a list names the slot. -/
def namedIn (before : List AssocImg) (x : Fin 32) : Bool := before.any fun e => namesSlot e.bindings x

/-- Some entry of the list is ACTIVE with the identifier that this one has. -/
def HasTakenParty (before : List AssocImg) (e : AssocImg) : Prop := ∃ p, e.ident = some p ∧ carriesParty before p.1 = true

/-- The entry names a slot that a lower one names. -/
def NamesTakenSlot (before : List AssocImg) (e : AssocImg) : Prop := ∃ x, namesSlot e.bindings x = true ∧ namedIn before x = true

theorem resolveParty_cases (before : List AssocImg) (e : AssocImg) :
    (resolveParty before e = damagedAtLoad e ∧ e.state = .active ∧ HasTakenParty before e) ∨
      (resolveParty before e = e ∧ ¬(e.state = .active ∧ HasTakenParty before e)) := by
  unfold resolveParty HasTakenParty
  cases hi : e.ident with
  | none => exact .inr ⟨rfl, by simp⟩
  | some p =>
    by_cases h : e.state = .active ∧ carriesParty before p.1 = true
    · exact .inl ⟨by simp [h], h.1, p, rfl, h.2⟩
    · refine .inr ⟨by simpa using fun a b => absurd ⟨a, b⟩ h, ?_⟩
      rintro ⟨active, q, hq, taken⟩
      cases hq
      exact h ⟨active, taken⟩

@[simp] theorem bindings_resolveParty (before : List AssocImg) (e : AssocImg) :
    (resolveParty before e).bindings = e.bindings := by
  rcases resolveParty_cases before e with ⟨h, -⟩ | ⟨h, -⟩ <;> rw [h]
  rfl

/-- The later role of a pair that names one slot loses it, and no other does (R60). -/
theorem roleGet_resolveOwn (e : AssocImg) (r : Role) :
    roleGet (resolveOwn e).bindings r = if heldEarlier e.bindings r then none else roleGet e.bindings r := by
  obtain ⟨state, ident, ⟨u, b, k, a⟩, floor⟩ := e
  cases r <;> simp only [resolveOwn, heldEarlier, allRoles, roleGet, List.takeWhile]
  case unicast => rfl
  case broadcast => cases b <;> grind
  case kek => cases k <;> grind
  case authority => cases a <;> grind

/-- The first role that names a slot keeps it, so the entry names the same slots (R60). -/
theorem namesSlot_resolveOwn (e : AssocImg) (x : Fin 32) :
    namesSlot (resolveOwn e).bindings x = namesSlot e.bindings x := by
  rw [Bool.eq_iff_iff, namesSlot_iff, namesSlot_iff]
  constructor
  · rintro ⟨r, hr⟩
    rw [roleGet_resolveOwn] at hr
    split at hr
    · cases hr
    · exact ⟨r, hr⟩
  · rintro ⟨r, hr⟩
    have named : (allRoles.find? fun q => roleGet e.bindings q == some x).isSome = true :=
      List.find?_isSome.2 ⟨r, mem_allRoles r, by simp [hr]⟩
    obtain ⟨q, hq⟩ := Option.isSome_iff_exists.1 named
    obtain ⟨found, earlier, later, order, others⟩ := List.find?_eq_some_iff_append.1 hq
    have found : roleGet e.bindings q = some x := by simpa using found
    have before : allRoles.takeWhile (· != q) = earlier := by
      have other (p : Role) (hp : p ∈ earlier) : (p != q) = true := by
        simpa using fun same : p = q => by simpa [same, found] using others p hp
      simp [order, List.takeWhile_append_of_pos other]
    have first : heldEarlier e.bindings q = false := by
      simpa [heldEarlier, before, found] using others
    exact ⟨q, by simp [roleGet_resolveOwn, first, found]⟩

theorem sharesSlot_iff : sharesSlot before e r = true ↔ ∃ x, roleGet e.bindings r = some x ∧ namedIn before x = true := by
  simp [sharesSlot, namedIn, Option.any_eq_true]

theorem anyShares_iff : allRoles.any (sharesSlot before e) = true ↔ NamesTakenSlot before e := by
  simp only [List.any_eq_true, sharesSlot_iff, NamesTakenSlot, namesSlot_iff]
  constructor
  · rintro ⟨r, -, x, hx, hn⟩
    exact ⟨x, ⟨r, hx⟩, hn⟩
  · rintro ⟨x, ⟨r, hx⟩, hn⟩
    exact ⟨r, mem_allRoles r, x, hx, hn⟩

theorem roleGet_resolveSlots (before : List AssocImg) (e : AssocImg) (r : Role) :
    roleGet (resolveSlots before e).bindings r = if sharesSlot before e r then none else roleGet e.bindings r := by
  unfold resolveSlots
  split
  · exact roleGet_rolesOf _ r
  · rename_i unshared
    rw [if_neg fun shares => unshared (List.any_eq_true.2 ⟨r, mem_allRoles r, shares⟩)]

theorem resolveSlots_shares (h : NamesTakenSlot before e) : (resolveSlots before e).state = .damaged .load ∧
    (resolveSlots before e).ident = (damagedAtLoad e).ident := by
  rw [resolveSlots, if_pos (anyShares_iff.2 h)]
  exact ⟨rfl, rfl⟩

theorem resolveSlots_alone (h : ¬NamesTakenSlot before e) : resolveSlots before e = e := by
  rw [resolveSlots, if_neg fun any => h (anyShares_iff.1 any)]

/-! ### The settled entry -/

/-- The bindings of a settled entry: without those an earlier role holds too, and without the slots lower entries name (R60, R63). -/
theorem roleGet_settledAssoc (before : List AssocImg) (e : AssocImg) (r : Role) :
    roleGet (settledAssoc before e).bindings r =
      if heldEarlier e.bindings r then none
      else if (roleGet e.bindings r).any (namedIn before) then none
      else roleGet e.bindings r := by
  have shares (f : AssocImg) : sharesSlot before f r = (roleGet f.bindings r).any (namedIn before) := rfl
  rw [settledAssoc, roleGet_resolveSlots, shares, roleGet_resolveOwn, bindings_resolveParty]
  split
  · rfl
  · rfl

/-- What a settled entry names no lower entry names (R63). -/
theorem namedIn_of_settledAssoc (h : namesSlot (settledAssoc before e).bindings x = true) : namedIn before x = false := by
  obtain ⟨r, hr⟩ := namesSlot_iff.1 h
  rw [roleGet_settledAssoc] at hr
  repeat' split at hr
  · cases hr
  · cases hr
  · rename_i free
    simpa [hr] using free

/-- A conflict makes the entry DAMAGED: one of the identifier, while it is ACTIVE, or one of a slot (R60). -/
def Conflicts (before : List AssocImg) (e : AssocImg) : Prop :=
  e.state = .active ∧ HasTakenParty before e ∨ NamesTakenSlot before e

theorem floor_settledAssoc (before : List AssocImg) (e : AssocImg) : (settledAssoc before e).floor = e.floor := by
  have party : (resolveParty before e).floor = e.floor := by
    rcases resolveParty_cases before e with ⟨h, -⟩ | ⟨h, -⟩ <;> rw [h]
    rfl
  unfold settledAssoc resolveSlots
  split <;> exact party

theorem namesTakenSlot_own : NamesTakenSlot before (resolveOwn (resolveParty before e)) ↔ NamesTakenSlot before e := by
  simp only [NamesTakenSlot, namesSlot_resolveOwn, bindings_resolveParty]

theorem settledAssoc_of_conflict (h : Conflicts before e) :
    (settledAssoc before e).state = .damaged .load ∧ (settledAssoc before e).ident = (damagedAtLoad e).ident := by
  rcases resolveParty_cases before e with ⟨party, -⟩ | ⟨party, free⟩
  · by_cases slot : NamesTakenSlot before (resolveOwn (resolveParty before e))
    · obtain ⟨state, ident⟩ := resolveSlots_shares slot
      exact ⟨state, by rw [settledAssoc, ident, party]; simp [damagedAtLoad, resolveOwn]⟩
    · rw [settledAssoc, resolveSlots_alone slot, party]
      exact ⟨rfl, rfl⟩
  · have slot := namesTakenSlot_own.2 (h.resolve_left free)
    obtain ⟨state, ident⟩ := resolveSlots_shares slot
    exact ⟨state, by rw [settledAssoc, ident, party]; rfl⟩

theorem settledAssoc_of_no_conflict (h : ¬Conflicts before e) :
    (settledAssoc before e).state = e.state ∧ (settledAssoc before e).ident = e.ident := by
  obtain ⟨party, slot⟩ := not_or.1 h
  rcases resolveParty_cases before e with ⟨-, active, taken⟩ | ⟨same, -⟩
  · exact absurd ⟨active, taken⟩ party
  · rw [settledAssoc, resolveSlots_alone (mt namesTakenSlot_own.1 slot), same]
    exact ⟨rfl, rfl⟩

theorem settledAssoc_active_iff : (settledAssoc before e).state = .active ↔ e.state = .active ∧ ¬Conflicts before e := by
  by_cases h : Conflicts before e
  · simp [settledAssoc_of_conflict h, h]
  · simp [settledAssoc_of_no_conflict h, h]

/-! ### The whole list, in index order -/

theorem resolveAssocs_extends (before l : List AssocImg) : ∃ rest, resolveAssocs before l = before ++ rest := by
  induction l generalizing before with
  | nil => exact ⟨[], (List.append_nil before).symm⟩
  | cons e l ih =>
    obtain ⟨rest, whole⟩ := ih (before ++ [settledAssoc before e])
    exact ⟨settledAssoc before e :: rest, by rw [resolveAssocs]; simpa [settledAssoc] using whole⟩

theorem length_resolveAssocs (before l : List AssocImg) : (resolveAssocs before l).length = before.length + l.length := by
  induction l generalizing before with
  | nil => rfl
  | cons e l ih => rw [resolveAssocs, ih]; simp; omega

/-- Each entry is settled beside those before it in the result (R60). -/
theorem resolveAssocs_getElem? (before l : List AssocImg) (k : Nat) :
    (resolveAssocs before l)[before.length + k]? =
      l[k]?.map (settledAssoc ((resolveAssocs before l).take (before.length + k))) := by
  induction l generalizing before k with
  | nil => simp [resolveAssocs]
  | cons e l ih =>
    obtain ⟨rest, whole⟩ := resolveAssocs_extends (before ++ [settledAssoc before e]) l
    change (resolveAssocs (before ++ [settledAssoc before e]) l)[before.length + k]? = Option.map
      (settledAssoc ((resolveAssocs (before ++ [settledAssoc before e]) l).take (before.length + k))) (e :: l)[k]?
    cases k with
    | zero => rw [whole]; simp
    | succ k =>
      have next := ih (before ++ [settledAssoc before e]) k
      have place : (before ++ [settledAssoc before e]).length + k = before.length + (k + 1) := by simp; omega
      rwa [place] at next

/-- The entries below an index as the loader has settled them. -/
def lowerAssocs (a : StoreArray) (i : Fin 8) : List AssocImg :=
  (resolveAssocs [] (allAssocs.map (loadAssoc a))).take i.val

/-- The loader settles each stored entry beside the lower ones (R60). -/
theorem loadAssocs_getElem (a : StoreArray) (i : Fin 8) :
    (loadAssocs a)[i] = settledAssoc (lowerAssocs a i) (loadAssoc a i) := by
  have entry := resolveAssocs_getElem? [] (allAssocs.map (loadAssoc a)) i.val
  simp only [List.length_nil, Nat.zero_add] at entry
  have stored : (allAssocs.map (loadAssoc a))[i.val]? = some (loadAssoc a i) := by simp [allAssocs]
  rw [stored] at entry
  simp [loadAssocs, entry, lowerAssocs]

theorem any_lowerAssocs {a : StoreArray} {i : Fin 8} {p : AssocImg → Bool} :
    (lowerAssocs a i).any p = true ↔ ∃ j : Fin 8, j < i ∧ p (loadAssocs a)[j] = true := by
  have length : (resolveAssocs [] (allAssocs.map (loadAssoc a))).length = 8 := by
    rw [length_resolveAssocs]; rfl
  have get (j : Fin 8) : (resolveAssocs [] (allAssocs.map (loadAssoc a)))[j.val]? = some (loadAssocs a)[j] := by
    have lt : j.val < (resolveAssocs [] (allAssocs.map (loadAssoc a))).length := by rw [length]; exact j.isLt
    simp [loadAssocs, List.getElem?_eq_getElem lt]
  rw [lowerAssocs, List.any_eq_true]
  constructor
  · rintro ⟨e, he, hp⟩
    obtain ⟨k, hk, rfl⟩ := List.mem_take_iff_getElem.1 he
    have lt : k < i.val := by omega
    have at_k := get ⟨k, by omega⟩
    rw [List.getElem?_eq_getElem (by omega)] at at_k
    exact ⟨⟨k, by omega⟩, lt, Option.some.inj at_k ▸ hp⟩
  · rintro ⟨j, hj, hp⟩
    exact ⟨_, List.mem_of_getElem? ((List.getElem?_take_of_lt hj).trans (get j)), hp⟩

end Sys2Proof.Machine
end

section
/-! PROOFS. What the loader takes beside the slots: the association entries, the arm record in force and the interrupted tamper work
(R60, R63, Table 3-1, R160, R170, R190). -/

namespace Sys2Proof.Machine

variable {a : StoreArray} {t : State} {i j : Fin 8} {b : AssocBody} {x : Fin 32} {r : Role}

/-! ### One stored record -/

theorem loadAssoc_invalid (h : (a.assocs[i]).body = none) :
    loadAssoc a i = ⟨.damaged .load, none, rolesOf (headerSlot a i), twoValue (a.assocs[i]).floor⟩ := by
  simp only [loadAssoc, h]

theorem loadAssoc_empty (h : (a.assocs[i]).body = some b) (hb : b.active = false) :
    loadAssoc a i = .blank (twoValue (a.assocs[i]).floor) := by
  simp only [loadAssoc, h, hb, Bool.false_eq_true, if_false]

theorem loadAssoc_active (h : (a.assocs[i]).body = some b) (hb : b.active = true) :
    loadAssoc a i = ⟨if (twoValue (a.assocs[i]).floor).isNone then .damaged .load else .active, some (b.party, b.cls),
      b.bindings, twoValue (a.assocs[i]).floor⟩ := by
  simp only [loadAssoc, h, hb, if_true]

theorem floor_loadAssoc (a : StoreArray) (i : Fin 8) : (loadAssoc a i).floor = twoValue (a.assocs[i]).floor := by
  cases h : (a.assocs[i]).body with
  | none => rw [loadAssoc_invalid h]
  | some b =>
    cases hb : b.active with
    | false => rw [loadAssoc_empty h hb]; rfl
    | true => rw [loadAssoc_active h hb]

theorem loadAssoc_state_iff : (loadAssoc a i).state = .active ↔
    ∃ b, (a.assocs[i]).body = some b ∧ b.active = true ∧ twoValue (a.assocs[i]).floor ≠ none := by
  cases h : (a.assocs[i]).body with
  | none => simp [loadAssoc_invalid h]
  | some b =>
    cases hb : b.active with
    | false => simp [loadAssoc_empty h hb, AssocImg.blank, hb]
    | true => simp [loadAssoc_active h hb, hb]

/-- The slot that a role of a rebuilt entry names is the one whose header names the pair (R60). -/
theorem headerSlot_some (h : headerSlot a i r = some x) : ((a.slots[x]).header.bind (·.binding)) = some ⟨i, r⟩ := by
  simpa using List.find?_some h

theorem headerSlot_none (h : headerSlot a i r = none) (x : Fin 32) :
    ((a.slots[x]).header.bind (·.binding)) ≠ some ⟨i, r⟩ := by
  simpa using List.find?_eq_none.1 h x (List.mem_finRange x)

/-- No two roles of a rebuilt entry name one slot: a header names one pair. -/
theorem heldEarlier_headerSlot (h : headerSlot a i r = some x) : heldEarlier (rolesOf (headerSlot a i)) r = false := by
  rw [heldEarlier, List.any_eq_false]
  intro q hq same
  have other : q ≠ r := by simpa using List.mem_takeWhile_imp hq
  rw [roleGet_rolesOf, roleGet_rolesOf, h, beq_iff_eq] at same
  have pair := (headerSlot_some same).symm.trans (headerSlot_some h)
  exact other (congrArg (·.role) (Option.some.inj pair))

/-! ### The entries beside the lower ones -/

section Entries

variable (h : t.assocs = loadAssocs a)
include h

theorem assocOf_loaded (i : Fin 8) : assocOf t i = settledAssoc (lowerAssocs a i) (loadAssoc a i) := by
  rw [assocOf, h, loadAssocs_getElem]

theorem namedIn_lower : namedIn (lowerAssocs a i) x = true ↔ ∃ j : Fin 8, j < i ∧ namesSlot (assocOf t j).bindings x = true := by
  rw [namedIn, any_lowerAssocs, ← h]
  rfl

theorem carriesParty_lower {p : Id64} : carriesParty (lowerAssocs a i) p = true ↔
    ∃ j : Fin 8, j < i ∧ (assocOf t j).state = .active ∧ (assocOf t j).ident.map (·.1) = some p := by
  rw [carriesParty, any_lowerAssocs, ← h]
  simp [assocOf]

theorem loaded_floor (i : Fin 8) : (assocOf t i).floor = twoValue (a.assocs[i]).floor := by
  rw [assocOf_loaded h, floor_settledAssoc, floor_loadAssoc]

/-- An entry that is DAMAGED as its record gives it stays so with its identifier and class (R60, Table 3-1). -/
theorem loaded_damaged (hd : (loadAssoc a i).state = .damaged .load) :
    (assocOf t i).state = .damaged .load ∧ (assocOf t i).ident = (loadAssoc a i).ident := by
  rw [assocOf_loaded h]
  by_cases conflict : Conflicts (lowerAssocs a i) (loadAssoc a i)
  · obtain ⟨state, ident⟩ := settledAssoc_of_conflict conflict
    exact ⟨state, by simp [ident, damagedAtLoad, hd]⟩
  · obtain ⟨state, ident⟩ := settledAssoc_of_no_conflict conflict
    exact ⟨state.trans hd, ident⟩

theorem loaded_invalid (hb : (a.assocs[i]).body = none) :
    (assocOf t i).state = .damaged .load ∧ (assocOf t i).ident = none := by
  obtain ⟨state, ident⟩ := loaded_damaged (i := i) h (by rw [loadAssoc_invalid hb])
  exact ⟨state, by rw [ident, loadAssoc_invalid hb]⟩

/-- The bindings of an invalid record: those of the headers, without the slots that lower entries name (R60). -/
theorem loaded_headerSlot (hb : (a.assocs[i]).body = none) (r : Role) : roleGet (assocOf t i).bindings r =
    if (headerSlot a i r).any (namedIn (lowerAssocs a i)) then none else headerSlot a i r := by
  rw [assocOf_loaded h, roleGet_settledAssoc, loadAssoc_invalid hb, roleGet_rolesOf]
  cases hs : headerSlot a i r with
  | none => simp
  | some x => rw [heldEarlier_headerSlot hs, if_neg (by simp)]

theorem loaded_empty (hb : (a.assocs[i]).body = some b) (hs : b.active = false) :
    assocOf t i = .blank (twoValue (a.assocs[i]).floor) := by
  rw [assocOf_loaded h, loadAssoc_empty hb hs]
  have free (f : Option Nat) : ¬NamesTakenSlot (lowerAssocs a i) (.blank f) := by
    simp [NamesTakenSlot, namesSlot, allRoles, roleGet, AssocImg.blank, Roles.all]
  exact resolveSlots_alone (free _)

theorem hasTakenParty_lower (hb : (a.assocs[i]).body = some b) (hs : b.active = true) :
    HasTakenParty (lowerAssocs a i) (loadAssoc a i) ↔
      ∃ j : Fin 8, j < i ∧ (assocOf t j).state = .active ∧ (assocOf t j).ident.map (·.1) = some b.party := by
  rw [HasTakenParty, loadAssoc_active hb hs, ← carriesParty_lower h]
  simp

theorem namesTakenSlot_lower (hb : (a.assocs[i]).body = some b) (hs : b.active = true) :
    NamesTakenSlot (lowerAssocs a i) (loadAssoc a i) ↔
      ∃ (j : Fin 8) (x : Fin 32), j < i ∧ namesSlot b.bindings x = true ∧ namesSlot (assocOf t j).bindings x = true := by
  simp only [NamesTakenSlot, loadAssoc_active hb hs, namedIn_lower h]
  constructor
  · rintro ⟨x, named, j, lt, shared⟩
    exact ⟨j, x, lt, named, shared⟩
  · rintro ⟨j, x, lt, named, shared⟩
    exact ⟨x, named, j, lt, shared⟩

/-- Which entries are ACTIVE (R60, Table 3-1). -/
theorem loaded_active_iff : (assocOf t i).state = .active ↔ ∃ b, (a.assocs[i]).body = some b ∧ b.active = true ∧
    twoValue (a.assocs[i]).floor ≠ none ∧
    (∀ j : Fin 8, j < i → (assocOf t j).state = .active → (assocOf t j).ident.map (·.1) ≠ some b.party) ∧
    ∀ (j : Fin 8) (x : Fin 32), j < i → namesSlot b.bindings x = true → namesSlot (assocOf t j).bindings x = false := by
  have free {b : AssocBody} (hb : (a.assocs[i]).body = some b) (hs : b.active = true)
      (active : (loadAssoc a i).state = .active) : ¬Conflicts (lowerAssocs a i) (loadAssoc a i) ↔
      (∀ j : Fin 8, j < i → (assocOf t j).state = .active → (assocOf t j).ident.map (·.1) ≠ some b.party) ∧
      ∀ (j : Fin 8) (x : Fin 32), j < i → namesSlot b.bindings x = true →
        namesSlot (assocOf t j).bindings x = false := by
    rw [Conflicts, not_or, hasTakenParty_lower h hb hs, namesTakenSlot_lower h hb hs]
    simp only [active, true_and, not_exists, not_and, Bool.not_eq_true, ne_eq]
  rw [assocOf_loaded h, settledAssoc_active_iff]
  constructor
  · rintro ⟨active, alone⟩
    obtain ⟨b, hb, hs, floor⟩ := loadAssoc_state_iff.1 active
    exact ⟨b, hb, hs, floor, (free hb hs active).1 alone⟩
  · rintro ⟨b, hb, hs, floor, alone⟩
    have active := loadAssoc_state_iff.2 ⟨b, hb, hs, floor⟩
    exact ⟨active, (free hb hs active).2 alone⟩

/-- Identifier, class and state of an entry stored ACTIVE (R60, Table 3-1). -/
theorem loaded_stored (hb : (a.assocs[i]).body = some b) (hs : b.active = true) :
    (assocOf t i).ident =
      (if (assocOf t i).state = .active ∨ twoValue (a.assocs[i]).floor = none then some (b.party, b.cls) else none) ∧
    ((assocOf t i).state = .active ∨ (assocOf t i).state = .damaged .load) := by
  have record := loadAssoc_active hb hs
  cases floor : twoValue (a.assocs[i]).floor with
  | none =>
    obtain ⟨state, ident⟩ := loaded_damaged (i := i) h (by rw [record, floor]; rfl)
    exact ⟨by rw [if_pos (.inr rfl), ident, record], .inr state⟩
  | some v =>
    have active : (loadAssoc a i).state = .active := by rw [record, floor]; rfl
    by_cases conflict : Conflicts (lowerAssocs a i) (loadAssoc a i)
    · obtain ⟨state, ident⟩ := settledAssoc_of_conflict conflict
      rw [← assocOf_loaded h] at state ident
      exact ⟨by simp [state, ident, damagedAtLoad, active], .inr state⟩
    · obtain ⟨state, ident⟩ := settledAssoc_of_no_conflict conflict
      rw [← assocOf_loaded h] at state ident
      exact ⟨by rw [if_pos (.inl (state.trans active)), ident, record], .inl (state.trans active)⟩

theorem loaded_bindings (hb : (a.assocs[i]).body = some b) (hs : b.active = true) (r : Role) :
    roleGet (assocOf t i).bindings r =
      if (allRoles.takeWhile (· != r)).any (fun q => roleGet b.bindings q == roleGet b.bindings r) then none
      else if ∃ j : Fin 8, j < i ∧ (roleGet b.bindings r).any (namesSlot (assocOf t j).bindings) = true then none
      else roleGet b.bindings r := by
  have lower : (roleGet b.bindings r).any (namedIn (lowerAssocs a i)) = true ↔
      ∃ j : Fin 8, j < i ∧ (roleGet b.bindings r).any (namesSlot (assocOf t j).bindings) = true := by
    cases roleGet b.bindings r with
    | none => simp
    | some x => exact namedIn_lower h
  rw [assocOf_loaded h, roleGet_settledAssoc, loadAssoc_active hb hs, heldEarlier]
  simp only [lower]

/-- A slot is named by at most one entry (R63). -/
theorem loaded_slots (hij : i ≠ j) (hi : namesSlot (assocOf t i).bindings x = true) :
    namesSlot (assocOf t j).bindings x = false := by
  have below {k l : Fin 8} (lt : k < l) (hk : namesSlot (assocOf t k).bindings x = true)
      (hl : namesSlot (assocOf t l).bindings x = true) : False := by
    rw [assocOf_loaded h l] at hl
    have named := (namedIn_lower h).2 ⟨k, lt, hk⟩
    rw [namedIn_of_settledAssoc hl] at named
    cases named
  by_contra hj
  have hj := eq_true_of_ne_false hj
  rcases lt_or_gt_of_ne hij with lt | lt
  · exact below lt hi hj
  · exact below lt hj hi

/-- Two ACTIVE entries have different identifiers (R60). -/
theorem loaded_parties (hij : i ≠ j) (hi : (assocOf t i).state = .active) (hj : (assocOf t j).state = .active) :
    (assocOf t i).ident.map (·.1) ≠ (assocOf t j).ident.map (·.1) := by
  have below {k l : Fin 8} (lt : k < l) (hk : (assocOf t k).state = .active) (hl : (assocOf t l).state = .active) :
      (assocOf t k).ident.map (·.1) ≠ (assocOf t l).ident.map (·.1) := by
    obtain ⟨b, hb, hs, -, others, -⟩ := (loaded_active_iff h).1 hl
    obtain ⟨ident, -⟩ := loaded_stored h hb hs
    rw [ident, if_pos (.inl hl)]
    exact others k lt hk
  rcases lt_or_gt_of_ne hij with lt | lt
  · exact below lt hi hj
  · exact (below lt hj hi).symm

end Entries

/-! ### Tamper work (R190) -/

theorem count_filter_slot (items : List (Fin 32 × TamperAct)) (y : Fin 32 × TamperAct) (i : Fin 32) :
    (items.filter fun x => x.1 == i).count y = if y.1 = i then items.count y else 0 := by
  split
  · rename_i same
    exact List.count_filter (by simpa using same)
  · rename_i other
    exact List.count_eq_zero.2 fun mem => other (by simpa using (List.mem_filter.1 mem).2)

theorem inSlotOrder_perm (items : List (Fin 32 × TamperAct)) : (inSlotOrder items).Perm items := by
  rw [List.perm_iff_count]
  intro y
  calc (inSlotOrder items).count y
      = (allSlots.map fun i => if y.1 = i then items.count y else 0).sum := by
        rw [inSlotOrder, List.count_flatMap]
        exact congrArg List.sum (List.map_congr_left fun i _ => count_filter_slot items y i)
    _ = ∑ i : Fin 32, if y.1 = i then items.count y else 0 := (Fin.sum_univ_def _).symm
    _ = items.count y := by simp

theorem inSlotOrder_pairwise (items : List (Fin 32 × TamperAct)) :
    (inSlotOrder items).Pairwise fun x y => x.1 ≤ y.1 := by
  have slot {i : Fin 32} {x : Fin 32 × TamperAct} (mem : x ∈ items.filter fun x => x.1 == i) : x.1 = i := by
    simpa using (List.mem_filter.1 mem).2
  refine List.pairwise_flatMap.2 ⟨fun i _ => ?_, (List.pairwise_lt_finRange 32).imp fun lt x hx y hy => ?_⟩
  · refine List.pairwise_iff_forall_sublist.2 fun {x y} sub => le_of_eq ?_
    rw [slot (sub.subset (.head _)), slot (sub.subset (.tail _ (.head _)))]
  · rw [slot hx, slot hy]
    exact lt.le

theorem pendingWork_empty {s : State} {r : TamperRecord} (h : s.array.tamper = some r) (he : r.pendingSet = []) :
    pendingWork s = none := by simp [pendingWork, h, he]

theorem pendingWork_items {s : State} {r : TamperRecord} (h : s.array.tamper = some r) (he : r.pendingSet ≠ []) :
    pendingWork s = some (loaderWork r (inSlotOrder r.pendingSet)) := by simp [pendingWork, h, he]

theorem pendingWork_invalid {s : State} (h : s.array.tamper = none) :
    pendingWork s = some (loaderWork (rebuiltRecord (slotItems s)) (slotItems s)) := by simp only [pendingWork, h]

/-! ### The arm record (R160, R170) -/

theorem loadMonitor_lost (hx : a.armFirst = none) (hy : a.armSecond = none) :
    (loadMonitor a).armLost = true ∧ (loadMonitor a).arm = Inputs.all none := by
  simp [loadMonitor, hx, hy, Monitor.reset]

theorem loadMonitor_one {c : ArmCopy}
    (h : (a.armFirst = some c ∧ a.armSecond = none) ∨ (a.armFirst = none ∧ a.armSecond = some c)) :
    (loadMonitor a).arm = c.record ∧ (loadMonitor a).armLost = false := by
  rcases h with ⟨hx, hy⟩ | ⟨hx, hy⟩ <;> simp [loadMonitor, hx, hy, Monitor.reset]

theorem loadMonitor_two {c d : ArmCopy} (hc : a.armFirst = some c) (hd : a.armSecond = some d) :
    (loadMonitor a).armLost = false ∧
      (loadMonitor a).arm = if secondInForce c d then d.record else c.record := by
  simp only [loadMonitor, hc, hd]
  split <;> exact ⟨rfl, rfl⟩

/-! ### The whole -/

/-- A state with the loader's entries, arm record and tamper work has all that the loader takes beside the slots. -/
theorem loadedRest_of_parts (array : t.array = a) (assocs : t.assocs = loadAssocs a) (monitor : t.monitor = loadMonitor a)
    (work : t.writer.tamper = pendingWork t) : LoadedRest a t where
  floors := loaded_floor assocs
  invalid := fun i hb => loaded_invalid assocs hb
  fromHeaders := by
    intro i r hb named
    rw [loaded_headerSlot assocs hb r]
    cases slot : headerSlot a i r with
    | none => exact ⟨nofun, fun _ => .inl (headerSlot_none slot)⟩
    | some y =>
      have names : named y := headerSlot_some slot
      by_cases taken : namedIn (lowerAssocs a i) y = true
      · rw [if_pos (by exact taken)]
        exact ⟨nofun, fun _ => .inr ⟨y, names, (namedIn_lower assocs).1 taken⟩⟩
      · rw [if_neg (by exact taken)]
        refine ⟨fun x same => ?_, nofun⟩
        cases same
        exact names
  empty := fun i b hb hs => loaded_empty assocs hb hs
  noFloor := by
    intro i b hb hs floor
    have record := loadAssoc_active hb hs
    obtain ⟨state, ident⟩ := loaded_damaged assocs (i := i) (by rw [record, floor]; rfl)
    exact ⟨state, by rw [ident, record]⟩
  active := fun i => loaded_active_iff assocs
  stored := by
    intro i b hb hs
    obtain ⟨ident, state⟩ := loaded_stored assocs hb hs
    exact ⟨ident, state, loaded_bindings assocs hb hs⟩
  parties := fun i j hij hi hj => loaded_parties assocs hij hi hj
  slots := fun i j x hij hi => loaded_slots assocs hij hi
  armLost := fun hx hy => monitor ▸ loadMonitor_lost hx hy
  armOne := fun c hc => monitor ▸ loadMonitor_one hc
  armTwo := by
    intro c d hc hd
    obtain ⟨found, arm⟩ := loadMonitor_two hc hd
    rw [monitor]
    refine ⟨found, fun next => ?_, fun next follows => ?_, fun next follows => ?_⟩
    all_goals rw [arm, secondInForce, armNext, armNext]
    · rw [if_pos next, if_pos rfl]
    · rw [if_neg next, if_pos follows, if_neg nofun]
    · rw [if_neg next, if_neg follows]
      simp only [decide_eq_true_eq]
  noWork := fun r hr he => work.trans (pendingWork_empty (array ▸ hr) he)
  work := fun r hr he => ⟨_, inSlotOrder_perm _, inSlotOrder_pairwise _, work.trans (pendingWork_items (array ▸ hr) he)⟩
  rewrite := fun hr => ⟨_, work.trans (pendingWork_invalid (array ▸ hr)), rfl, rfl, rfl, rfl⟩

theorem loadedRest_runLoader {s : State} (h : s.array.identity ≠ none) : LoadedRest s.array (runLoader s) := by
  have valid : (clearVolatile s).array.identity.isNone = false := by
    cases named : s.array.identity with
    | none => exact absurd named h
    | some _ => simp [clearVolatile, named]
  have images : runLoader s = loadImages (clearVolatile s) := by
    simp only [runLoader, valid, Bool.false_eq_true, if_false]
  rw [images]
  exact loadedRest_of_parts rfl rfl rfl rfl

/-- Settles O11: the loader runs at the release of NRST and at a power-on reset with NRST released. -/
theorem loaderTakesEntriesArmAndTamperWork : Obligations.LoaderTakesEntriesArmAndTamperWork := by
  intro s identity
  refine ⟨fun supply held => ⟨_, ?_, loadedRest_runLoader (s := { s with pins := { s.pins with nrst := false } }) identity⟩,
    fun released => ⟨_, ?_, loadedRest_runLoader (s := { s with pins := { s.pins with supply := true } }) identity⟩⟩
  · simp only [exec, execNrstRelease, held, supply, if_true]
  · simp only [exec, execPowerOnReset, released, Bool.false_eq_true, if_false]

end Sys2Proof.Machine
end

section
/-! PROOFS. An INSTALL after its tag check: its target slot, then its signer's KEK (R66, R143, R144). -/

namespace Sys2Proof.Machine

variable {s u : State} {v w : Verif} {i : InstallBody} {index : Fin 8} {slot kek : Fin 32}

/-! ### Lookup (R65) -/

theorem lookup_unknown {party : Id64} {r : Role} (h : findParty s party = none) : lookup s party r = .error .unknownParty := by
  simp only [lookup, h]

theorem lookup_unbound {party : Id64} {r : Role} (hi : findParty s party = some index) (hs : boundSlot s index r = none) :
    lookup s party r = .error .roleNotBound := by
  simp only [lookup, hi, hs]

theorem lookup_bound {party : Id64} {r : Role} (hi : findParty s party = some index)
    (hs : boundSlot s index r = some slot) : lookup s party r = .ok slot := by
  simp only [lookup, hi, hs]

theorem usableGen_quarantined {x : CellId × Nat} (h : usableGen s slot = some x) : (slotOf s slot).quarantined = false := by
  cases hq : (slotOf s slot).quarantined with
  | false => rfl
  | true => simp [usableGen, slotRefusal, hq] at h

theorem askCache_barred {q : Requester} {c : CellId} {g : Nat} {b : TamperAct} (hq : (slotOf s slot).quarantined = false)
    (hb : s.cache.bars[slot] = some b) : askCache q slot c g s = (.refused (barCode b), s) := by
  simp only [askCache, hq, Bool.false_eq_true, if_false, hb]

theorem findEntry_takeHit {q : Requester} {g : Nat} {e : Entry} (h : findEntry s slot g = some e) :
    findEntry (takeHit q e s) slot g = some (pin q e) := by
  obtain ⟨hs, hg⟩ := findEntry_key h
  obtain ⟨ps, pg⟩ := pin_keys q e
  exact List.find?_cons_of_pos (by simp [ps, pg, hs, hg])

/-! ### The target (R143) -/

/-- The generation is not above the floor of its slot or above a staged one (R143). -/
def StaleFor (s : State) (slot : Fin 32) (generation : Nat) : Prop :=
  generation ≤ (slotOf s slot).floor ∨ ∃ k, genNumber (slotOf s slot) .staged = some k ∧ generation ≤ k

/-- The verification of an INSTALL with its target (R143). -/
def aimedAt (v : Verif) (slot : Fin 32) (index : Fin 8) (i : InstallBody) : Verif :=
  { v with target := some (slot, ⟨index, i.role⟩) }

theorem staleFor_iff {g : Nat} : (decide (g ≤ (slotOf s slot).floor) ||
    (genNumber (slotOf s slot) .staged).any (g ≤ ·)) = true ↔ StaleFor s slot g := by
  simp [StaleFor, Option.any_eq_true]

theorem checkInstall_unknown (h : findParty s i.target = none) : checkInstall v i s = failVerif .targetUnknown s := by
  simp only [checkInstall, lookup_unknown h]

theorem checkInstall_unbound (hi : findParty s i.target = some index) (hs : boundSlot s index i.role = none) :
    checkInstall v i s = failVerif .roleNotBound s := by
  simp only [checkInstall, lookup_unbound hi hs]

section Bound

variable (hi : findParty s i.target = some index) (hs : boundSlot s index i.role = some slot)
include hi hs

theorem checkInstall_exhausted (hf : (slotOf s slot).floor = 65535) :
    checkInstall v i s = failVerif .generationExhausted (recordTarget v.ctx slot i.generation s) := by
  simp only [checkInstall, lookup_bound hi hs, hi]
  exact if_pos hf

theorem checkInstall_stale (hf : (slotOf s slot).floor ≠ 65535) (hg : StaleFor s slot i.generation) :
    checkInstall v i s = failVerif .staleGeneration (recordTarget v.ctx slot i.generation s) := by
  simp only [checkInstall, lookup_bound hi hs, hi]
  exact (if_neg hf).trans (if_pos (staleFor_iff.2 hg))

theorem checkInstall_passes (hf : (slotOf s slot).floor ≠ 65535) (hg : ¬StaleFor s slot i.generation) :
    checkInstall v i s = installKek (aimedAt v slot index i) i (recordTarget v.ctx slot i.generation s) := by
  simp only [checkInstall, lookup_bound hi hs, hi]
  exact (if_neg hf).trans (if_neg fun stale => hg (staleFor_iff.1 stale))

end Bound

/-! ### The signer's KEK (R66, R144) -/

theorem installKek_unknown (h : findParty s v.bundle.signer = none) : installKek v i s = failVerif .signerUnknown s := by
  simp only [installKek, lookup_unknown h]

theorem installKek_unbound (hi : findParty s v.bundle.signer = some index) (hs : boundSlot s index .kek = none) :
    installKek v i s = failVerif .unwrapFailed s := by
  simp only [installKek, lookup_unbound hi hs]

/-- The verification as it asks for the entry of its signer's KEK generation (R144). -/
def atKek (v : Verif) (kek : Fin 32) (g : Nat) : Verif := { v with stage := .kekEntry, kek := some (kek, g) }

section Bound

variable (hi : findParty s v.bundle.signer = some index) (hs : boundSlot s index .kek = some kek)
include hi hs

theorem installKek_unusable (hu : usableGen s kek = none) : installKek v i s = failVerif .unwrapFailed s := by
  simp only [installKek, lookup_bound hi hs, hu]

theorem installKek_barred {c : CellId} {g : Nat} {b : TamperAct} (hu : usableGen s kek = some (c, g))
    (hb : s.cache.bars[kek] = some b) : installKek v i s = failVerif .unwrapFailed (setVerif (atKek v kek g) s) := by
  have refused := askCache_barred (s := setVerif (atKek v kek g) s) (q := .renewal) (c := c) (g := g)
    (usableGen_quarantined hu) hb
  rw [atKek] at refused ⊢
  simp only [installKek, lookup_bound hi hs, hu, refused]

/-- Under the READY entry of the KEK the key unwrap is asked for (R144). -/
theorem installKek_hit {c : CellId} {g : Nat} {e : Entry} (hu : usableGen s kek = some (c, g))
    (hb : s.cache.bars[kek] = none) (he : findEntry s kek g = some e) (hf : e.filling = false) (hw : e.withhold = none) :
    installKek v i s = place .renewal (.keyUnwrap e.key i.wrapped)
      (setVerif { atKek v kek g with stage := .keyUnwrap } (takeHit .renewal e (setVerif (atKek v kek g) s))) := by
  have hit := askCache_hit (s := setVerif (atKek v kek g) s) (c := c) (usableGen_quarantined hu) hb he hf hw .renewal
  have held := findEntry_takeHit (q := .renewal) (s := setVerif (atKek v kek g) s) he
  rw [atKek] at hit held ⊢
  simp only [installKek, lookup_bound hi hs, hu, hit, placeKeyUnwrap, held]
  simp [pin, hw]

/-- What the request of the key unwrap leaves (R98, R144). -/
theorem installKek_asks {c : CellId} {g : Nat} {e : Entry} (hu : usableGen s kek = some (c, g))
    (hb : s.cache.bars[kek] = none) (he : findEntry s kek g = some e) (hf : e.filling = false) (hw : e.withhold = none) :
    let t := installKek v i s
    let job : EngineJob := .keyUnwrap e.key i.wrapped
    t.renewal = { s.renewal with verif := some { v with stage := .keyUnwrap, kek := some (kek, g) } } ∧
      (t.engine.job = some ⟨.renewal, job, false⟩ ∨ t.engine.renewalLine = some job) ∧ t.slots = s.slots ∧
      t.array = s.array ∧ t.device = s.device := by
  intro t job
  have hit : t = place .renewal job _ := installKek_hit hi hs hu hb he hf hw
  have calm := calm_place (q := .renewal) (j := job) (calm_refl (setVerif { atKek v kek g with stage := .keyUnwrap }
    (takeHit .renewal e (setVerif (atKek v kek g) s))))
  have kept := kept_place (q := .renewal) (j := job) (kept_refl (setVerif { atKek v kek g with stage := .keyUnwrap }
    (takeHit .renewal e (setVerif (atKek v kek g) s))))
  rw [← hit] at calm kept
  exact ⟨calm.renewal, hit ▸ place_asks .renewal job _, calm.slots, kept.array, calm.device⟩

end Bound

/-! ### The end of the tag check -/

/-- The tag check of an INSTALL is in progress and will pass (R142). -/
structure InstallChecked (who : Requester) (key message : List Byte) (v : Verif) (i : InstallBody) (s : State) : Prop where
  runs : running s = true
  device : s.device ≠ .faulted
  job : s.engine.job = some ⟨who, .bundleTag key message (cmac key message), false⟩
  verif : s.renewal.verif = some v
  stage : v.stage = .tagCheck
  kept : (ctxOf s v.ctx).dropPending = false
  body : v.bundle.body = .install i

/-- BUNDLE_TAG_CHECK_END fails the context: its record has this outcome and such fields, and its end is notified (R126, R138). -/
def TagEndFails (v : Verif) (s : State) (c : Code) (p : RecFields → Prop) : Prop :=
  ∃ t r, exec (.bundleTagCheckEnd true) s = .next t ∧ (ctxOf t v.ctx).state = .failed ∧ (ctxOf t v.ctx).result = some r ∧
    r.outcome = c ∧ p r.fields ∧ t.renewal.verif = none ∧ NoticeKey.renewalFinished v.ctx ∈ t.notices.map noticeKey ∧
    t.slots = s.slots ∧ t.array = s.array

variable {who : Requester} {key message : List Byte}

/-- The passing tag check of an INSTALL leads to the check of its target (R142, R143). -/
theorem InstallChecked.exec (h : InstallChecked who key message v i s)
    (device : (checkInstall v i (engineFree s)).device ≠ .faulted) :
    exec (.bundleTagCheckEnd true) s = .next (checkInstall v i (engineFree s)) := by
  have kept : dropping (engineFree s) = false := (dropping_eq (s := engineFree s) h.verif).trans h.kept
  have go : renewalJobEnd false .tagCheck (fun v => tagEnd v true) (engineFree s) = checkInstall v i (engineFree s) := by
    simp [renewalJobEnd, h.verif, h.device, h.stage, kept, tagEnd, kindChecks, h.body]
  rw [exec_bundleTagCheckEnd h.runs h.job (beq_self_eq_true _), settled, go, portSettle_of_not_faulted device]

/-- What a failed check of an INSTALL leaves. -/
theorem InstallChecked.fails (h : InstallChecked who key message v i s) {c : Code} {p : RecFields → Prop}
    (run : checkInstall v i (engineFree s) = failVerif c u) (verif : u.renewal.verif = some w) (ctx : w.ctx = v.ctx)
    (slots : u.slots = s.slots) (array : u.array = s.array) (device : u.device = s.device)
    (fields : p { (ctxOf u v.ctx).fields with receipt := none }) : TagEndFails v s c p := by
  have aside := aside_failVerif c u
  have step := h.exec (by rw [run, aside.device, device]; exact h.device)
  rw [run] at step
  have fail := failVerif_eq verif c
  rw [ctx] at fail
  obtain ⟨failed, -, result⟩ := ctxOf_ctxFail v.ctx c (endVerif u)
  rw [ctxOf_endVerif] at result
  exact ⟨_, _, step, fail ▸ failed, fail ▸ result, rfl, fields, fail ▸ rfl,
    fail ▸ List.mem_map.2 ⟨_, notices_ctxFail v.ctx c (endVerif u), rfl⟩, aside.slots.trans slots,
    (kept_failVerif (kept_refl u)).array.trans array⟩

/-- The state as the record of an INSTALL takes its target (R138, R143). -/
def targetRecorded (v : Verif) (slot : Fin 32) (i : InstallBody) (s : State) : State :=
  recordTarget v.ctx slot i.generation (engineFree s)

theorem fields_targetRecorded (v : Verif) (slot : Fin 32) (i : InstallBody) (s : State) :
    (ctxOf (targetRecorded v slot i s) v.ctx).fields.slotGen = some (slot, i.generation) := by
  simp [targetRecorded, recordTarget]

/-- A check that fails from the target on: the record names slot and generation (R143). -/
theorem InstallChecked.failsNamed (h : InstallChecked who key message v i s) {c : Code}
    (run : checkInstall v i (engineFree s) = failVerif c (targetRecorded v slot i s)) :
    TagEndFails v s c fun f => f.slotGen = some (slot, i.generation) :=
  h.fails run h.verif rfl rfl rfl rfl (fields_targetRecorded v slot i s)

/-- Settles O49, by the checks in their order. -/
theorem installIsCheckedAtItsTarget : Obligations.InstallIsCheckedAtItsTarget := by
  intro who key message v i s runs device job verif stage kept body fails stale
  have h : InstallChecked who key message v i s := ⟨runs, device, job, verif, stage, kept, body⟩
  have plain {c : Code} (run : checkInstall v i (engineFree s) = failVerif c (engineFree s)) : fails c fun _ => True :=
    h.fails (p := fun _ => True) run verif rfl rfl rfl rfl trivial
  refine ⟨fun unknown => plain (checkInstall_unknown unknown), fun index hi => ⟨fun unbound =>
    plain (checkInstall_unbound hi unbound), ?_⟩⟩
  intro slot hs named
  refine ⟨fun full => h.failsNamed (checkInstall_exhausted hi hs full),
    fun room old => h.failsNamed (checkInstall_stale hi hs room old), fun room new => ?_⟩
  let aimed := aimedAt v slot index i
  let u := targetRecorded v slot i s
  have passes : checkInstall v i (engineFree s) = installKek aimed i u := checkInstall_passes hi hs room new
  refine ⟨fun unknown => h.failsNamed (passes.trans (installKek_unknown (v := aimed) (s := u) unknown)), fun signer hk =>
    ⟨fun unbound => h.failsNamed (passes.trans (installKek_unbound (v := aimed) (s := u) hk unbound)), fun kek hb =>
    ⟨fun refused => ?_, fun c g e usable unbarred entry ready uncaused => ?_⟩⟩⟩
  · cases usable : usableGen s kek with
    | none => exact h.failsNamed (passes.trans (installKek_unusable (v := aimed) (s := u) hk hb usable))
    | some x =>
      have barred : s.cache.bars[kek] ≠ none := refused.resolve_left (by rw [usable]; nofun)
      obtain ⟨b, bar⟩ := Option.ne_none_iff_exists'.1 barred
      exact h.fails (passes.trans (installKek_barred (v := aimed) (s := u) hk hb usable bar)) rfl rfl rfl rfl rfl
        (fields_targetRecorded v slot i s)
  · obtain ⟨renewal, engine, slots, array, held⟩ :=
      installKek_asks (v := aimed) (s := u) (i := i) hk hb usable unbarred entry ready uncaused
    rw [← passes] at renewal engine slots array held
    refine ⟨_, h.exec (by rw [held]; exact device), by rw [renewal]; rfl, ?_, engine, slots, array⟩
    rw [ctxOf_congr (s := u) (by rw [renewal])]
    exact fields_targetRecorded v slot i s

end Sys2Proof.Machine
end

section
/-! PROOFS. The refusals of PROTECT, UNPROTECT and ACTIVATE: form, lookup, slot, generation, and the cache last (R65, R79, R101, R107,
R155). -/

namespace Sys2Proof.Machine

variable {s : State} {body : List Byte} {slot : Fin 32} {gen : Nat} {c : Code}

/-! ### Slot and cache -/

theorem slotRefusal_quarantined {img : SlotImg} (h : img.quarantined = true) : slotRefusal img = some .slotQuarantined :=
  if_pos h

theorem slotRefusal_suspended {img : SlotImg} (hq : img.quarantined = false) (hs : img.suspended = true) :
    slotRefusal img = some .slotSuspended := by
  simp [slotRefusal, hq, hs]

theorem slotRefusal_none {img : SlotImg} (hq : img.quarantined = false) (hs : img.suspended = false) :
    slotRefusal img = none := by
  simp [slotRefusal, hq, hs]

/-- The cache refuses the entry of a slot and generation with this status: by the bar of the slot, or by the cause that the READY
entry carries (R79, R94, Table 4-2). -/
def CacheRefuses (s : State) (slot : Fin 32) (gen : Nat) (code : Code) : Prop :=
  (s.cache.bars[slot] = some .erase ∧ code = .slotErased) ∨ (s.cache.bars[slot] = some .suspend ∧ code = .slotSuspended) ∨
    (s.cache.bars[slot] = none ∧ ∃ e w, findEntry s slot gen = some e ∧ e.filling = false ∧ e.withhold = some w ∧
      w ≠ .retired ∧ code = causeCode w)

theorem askCache_refuses {q : Requester} {cell : CellId} (hq : (slotOf s slot).quarantined = false)
    (h : CacheRefuses s slot gen c) : askCache q slot cell gen s = (.refused c, s) := by
  rcases h with ⟨bar, rfl⟩ | ⟨bar, rfl⟩ | ⟨bar, e, w, he, ready, cause, -, rfl⟩
  · exact askCache_barred hq bar
  · exact askCache_barred hq bar
  · simp only [askCache, hq, bar, he, ready, cause, Bool.false_eq_true, if_false]

/-- The cache's refusals here are no passing over of a RETIRED trial (R108). -/
theorem CacheRefuses.ne_retired (h : CacheRefuses s slot gen c) : c ≠ .generationRetired := by
  rcases h with ⟨-, rfl⟩ | ⟨-, rfl⟩ | ⟨-, e, w, -, -, -, other, rfl⟩
  · nofun
  · nofun
  · cases w <;> simp [causeCode] at other ⊢

/-- A command that is answered as it runs is not left waiting (R194). -/
theorem onHanded_answers {cmd : Cmd} {run : List Byte → State → State} {b : List Byte} (h : Handed cmd body s)
    (answer : run body s = respond c b s) :
    onHanded cmd (fun body s => portSettle (run body s)) s = .next (respond c b s) := by
  rw [onHanded_of_handed h, answer]
  exact congrArg _ (portSettle_of_not_stuck rfl)

/-! ### PROTECT (R101, R102) -/

theorem runProtect_lookup {q : ProtectReq} (h : lookup s q.party .unicast = .error c) : runProtect q s = respond c [] s := by
  simp only [runProtect, h]

theorem runProtect_slot {q : ProtectReq} (h : lookup s q.party .unicast = .ok slot) (hs : protectSlot s slot = .error c) :
    runProtect q s = respond c [] s := by
  simp only [runProtect, h, hs]

theorem protectSlot_refused (h : slotRefusal (slotOf s slot) = some c) : protectSlot s slot = .error c := by
  simp only [protectSlot, h]

theorem protectSlot_noKey (h : slotRefusal (slotOf s slot) = none) (hg : genWith (slotOf s slot) .current = none) :
    protectSlot s slot = .error .noKey := by
  simp only [protectSlot, h, hg]

theorem protectSlot_spent {g : CellId × CellImg} (h : slotRefusal (slotOf s slot) = none)
    (hg : genWith (slotOf s slot) .current = some g) (hw : classOf g.2 = .spent) : protectSlot s slot = .error .keySpent := by
  simp only [protectSlot, h, hg, hw, if_true]

theorem runProtect_cache {q : ProtectReq} {g : CellId × CellImg} (h : lookup s q.party .unicast = .ok slot)
    (hs : protectSlot s slot = .ok g) (hq : (slotOf s slot).quarantined = false)
    (hc : CacheRefuses s slot g.2.params.generation c) : runProtect q s = respond c [] s := by
  simp only [runProtect, h, hs, askCache_refuses hq hc]

/-! ### UNPROTECT (R107, R108) -/

theorem runUnprotect_lookup {q : UnprotectReq} (h : lookup s q.party q.role = .error c) :
    runUnprotect q s = respond c [] s := by
  simp only [runUnprotect, h]

theorem runUnprotect_slot {q : UnprotectReq} (h : lookup s q.party q.role = .ok slot)
    (hs : slotRefusal (slotOf s slot) = some c) : runUnprotect q s = respond c [] s := by
  simp only [runUnprotect, h, hs]

theorem runUnprotect_noKey {q : UnprotectReq} (h : lookup s q.party q.role = .ok slot)
    (hs : slotRefusal (slotOf s slot) = none) (hg : genWith (slotOf s slot) .current = none) :
    runUnprotect q s = respond .noKey [] s := by
  simp only [runUnprotect, h, hs, hg]

theorem cellHolding_of_cell {img : SlotImg} {d : CellId} {x : CellImg} (h : cellOf img d = some x) :
    ∃ e, cellHolding img x.params.generation = some e := by
  unfold cellHolding
  cases d <;> rw [cellOf] at h <;> rw [h]
  · exact ⟨.a, by simp⟩
  · split
    · exact ⟨.a, rfl⟩
    · exact ⟨.b, by simp⟩

/-- The current generation is tried first (R108). -/
theorem trialList_current {img : SlotImg} {g : CellId × CellImg} (h : genWith img .current = some g) :
    ∃ rest, trialList img = ⟨g.2.params.generation, .current⟩ :: rest := by
  have number : genNumber img .current = some g.2.params.generation := genNumber_of_genWith h
  exact ⟨_, by rw [trialList, number]; rfl⟩

/-- Without a pin of the port its release leaves the entries (R83). -/
theorem releasePins_unpinned (h : ∀ e ∈ s.cache.entries, e.pinPort = false) :
    (releasePins .port s).cache.entries = s.cache.entries := by
  have stays (e : Entry) (he : e ∈ s.cache.entries) : releaseEntry .port e = some e := by
    simp [releaseEntry, pinnedBy, h e he]
  exact (List.filterMap_congr stays).trans List.filterMap_some

/-- The cache's refusal of the first trial ends the command (R108). -/
theorem runTrials_refused {op : UnprotectOp} {t : Trial} {rest : List Trial} {d : CellId}
    (unpinned : ∀ e ∈ s.cache.entries, e.pinPort = false) (hd : cellHolding (slotOf s op.slot) t.gen = some d)
    (hq : (slotOf s op.slot).quarantined = false) (hc : CacheRefuses s op.slot t.gen c) :
    runTrials op (t :: rest) s = finish c [] (releasePins .port s) := by
  have found : findEntry (releasePins .port s) op.slot t.gen = findEntry s op.slot t.gen :=
    findEntry_congr (releasePins_unpinned unpinned) _ _
  have still : CacheRefuses (releasePins .port s) op.slot t.gen c := by rw [CacheRefuses, found]; exact hc
  have refused := askCache_refuses (q := .port) (cell := d) (s := releasePins .port s) hq still
  have cell : cellHolding (slotOf (releasePins .port s) op.slot) t.gen = some d := hd
  have other := hc.ne_retired
  unfold runTrials
  simp only [cell, refused]

theorem runUnprotect_cache {q : UnprotectReq} {g : CellId × CellImg} (h : lookup s q.party q.role = .ok slot)
    (hs : slotRefusal (slotOf s slot) = none) (hg : genWith (slotOf s slot) .current = some g)
    (hq : (slotOf s slot).quarantined = false) (hc : CacheRefuses s slot g.2.params.generation c)
    (unpinned : ∀ e ∈ s.cache.entries, e.pinPort = false) :
    runUnprotect q s = finish c [] (releasePins .port s) := by
  obtain ⟨rest, trials⟩ := trialList_current hg
  obtain ⟨d, holds⟩ := cellHolding_of_cell (genWith_cell (x := g.2) (c := g.1) hg).2
  simp only [runUnprotect, h, hs, hg, trials]
  exact runTrials_refused unpinned holds hq hc

/-! ### ACTIVATE (R155, R156) -/

theorem runActivate_lookup {q : ActivateReq} (h : lookup s q.party q.role = .error c) : runActivate q s = respond c [] s := by
  simp only [runActivate, h]

theorem runActivate_slot {q : ActivateReq} (h : lookup s q.party q.role = .ok slot)
    (hs : slotRefusal (slotOf s slot) = some c) : runActivate q s = respond c [] s := by
  simp only [runActivate, h, hs]

theorem runActivate_notStaged {q : ActivateReq} (h : lookup s q.party q.role = .ok slot)
    (hs : slotRefusal (slotOf s slot) = none) (hg : genNumber (slotOf s slot) .staged ≠ some q.gen) :
    runActivate q s = respond .notStaged [] s := by
  cases staged : genWith (slotOf s slot) .staged with
  | none => simp only [runActivate, h, hs, staged]
  | some g =>
    rw [genNumber, staged] at hg
    simp only [runActivate, h, hs, staged]
    exact if_neg fun same => hg (congrArg some same)

theorem runActivate_cache {q : ActivateReq} (h : lookup s q.party q.role = .ok slot)
    (hs : slotRefusal (slotOf s slot) = none) (hg : genNumber (slotOf s slot) .staged = some q.gen)
    (hq : (slotOf s slot).quarantined = false) (hc : CacheRefuses s slot q.gen c) : runActivate q s = respond c [] s := by
  obtain ⟨g, staged, same⟩ := Option.map_eq_some_iff.1 hg
  have other := hc.ne_retired
  simp only [runActivate, h, hs, staged, same, if_true, askCache_refuses hq hc]

/-! ### The order of the refusals -/

/-- What an UNPROTECT leaves that the cache refuses at its first trial, where the port holds no pin. -/
theorem exec_unprotect_cache {q : UnprotectReq} {g : CellId × CellImg} (handed : Handed .unprotect body s)
    (form : parseUnprotect body = .ok q) (h : lookup s q.party q.role = .ok slot) (hs : slotRefusal (slotOf s slot) = none)
    (hg : genWith (slotOf s slot) .current = some g) (hq : (slotOf s slot).quarantined = false)
    (hc : CacheRefuses s slot g.2.params.generation c) (unpinned : ∀ e ∈ s.cache.entries, e.pinPort = false) :
    exec .unprotect s = .next (finish c [] (releasePins .port s)) ∧
      (finish c [] (releasePins .port s)).cache.entries = s.cache.entries := by
  have run : unprotectBodyRun body s = finish c [] (releasePins .port s) := by
    simp only [unprotectBodyRun, form, runUnprotect_cache h hs hg hq hc unpinned]
  constructor
  · change execUnprotect s = _
    rw [execUnprotect, onHanded_of_handed handed, run]
    exact congrArg _ (portSettle_of_not_stuck rfl)
  · have released := releasePins_unpinned unpinned
    refine (releasePins_unpinned (s := portLetsGo (releasePins .port s)) fun e he => ?_).trans released
    exact unpinned e (released ▸ he)

/-- Settles O38, command by command, each refusal in its place. -/
theorem frameCommandsAreRefusedInOrder : Obligations.FrameCommandsAreRefusedInOrder := by
  intro body s cacheRefuses
  refine ⟨fun c handed form => ?_, fun c handed form => ?_, fun c handed form => ?_, fun q handed form => ?_,
    fun q handed form => ?_, fun q handed form => ?_⟩
  · exact onHanded_answers handed (by simp only [protectBodyRun, form])
  · exact onHanded_answers handed (by simp only [unprotectBodyRun, form])
  · exact onHanded_answers handed (by simp only [activateBodyRun, form])
  · have answers {c : Code} (run : runProtect q s = respond c [] s) : exec .protect s = .next (respond c [] s) :=
      onHanded_answers handed (by simp only [protectBodyRun, form, run])
    refine ⟨fun c unknown => answers (runProtect_lookup unknown), fun slot found => ⟨fun quarantined =>
      answers (runProtect_slot found (protectSlot_refused (slotRefusal_quarantined quarantined))), fun sound => ⟨fun suspended =>
      answers (runProtect_slot found (protectSlot_refused (slotRefusal_suspended sound suspended))), fun awake => ?_⟩⟩⟩
    have free := slotRefusal_none sound awake
    refine ⟨fun empty => answers (runProtect_slot found (protectSlot_noKey free empty)), fun g current => ⟨fun spent =>
      answers (runProtect_slot found (protectSlot_spent free current spent)), fun unspent code refused => ?_⟩⟩
    exact answers (runProtect_cache found (protectSlot_ok sound awake current unspent) sound refused)
  · have answers {c : Code} (run : runUnprotect q s = respond c [] s) : exec .unprotect s = .next (respond c [] s) :=
      onHanded_answers handed (by simp only [unprotectBodyRun, form, run])
    refine ⟨fun c unknown => answers (runUnprotect_lookup unknown), fun slot found => ⟨fun quarantined =>
      answers (runUnprotect_slot found (slotRefusal_quarantined quarantined)), fun sound => ⟨fun suspended =>
      answers (runUnprotect_slot found (slotRefusal_suspended sound suspended)), fun awake => ?_⟩⟩⟩
    have free := slotRefusal_none sound awake
    refine ⟨fun empty => answers (runUnprotect_noKey found free empty), fun unpinned g code current refused => ?_⟩
    obtain ⟨step, entries⟩ := exec_unprotect_cache handed form found free current sound refused unpinned
    exact ⟨_, step, rfl, entries, rfl, rfl, rfl, rfl, rfl, rfl, rfl, rfl, rfl, jobs_finish code [] _⟩
  · have answers {c : Code} (run : runActivate q s = respond c [] s) : exec .activateCommand s = .next (respond c [] s) :=
      onHanded_answers handed (by simp only [activateBodyRun, form, run])
    refine ⟨fun c unknown => answers (runActivate_lookup unknown), fun slot found => ⟨fun quarantined =>
      answers (runActivate_slot found (slotRefusal_quarantined quarantined)), fun sound => ⟨fun suspended =>
      answers (runActivate_slot found (slotRefusal_suspended sound suspended)), fun awake => ?_⟩⟩⟩
    have free := slotRefusal_none sound awake
    exact ⟨fun other => answers (runActivate_notStaged found free other), fun staged code refused =>
      answers (runActivate_cache found free staged sound refused)⟩

end Sys2Proof.Machine
end

section
/-! PROOFS. The safe states: the state after reset is one, and every step from one leads to one (R33, R77, R85, R177, R182, R199). -/

namespace Sys2Proof.Machine

variable {s t : State}

/-! ### States with empty blocks -/

/-- The contexts of a reset have no jobs (R113). -/
theorem planLaw_reset : PlanLaw .reset where
  ctxs i := by
    have idle : Renewal.reset.ctxs[i] = .idle := Vector.getElem_replicate _
    rw [idle]
    exact noCounter_nil
  verif _ h := by cases h

/-- With an empty queue, flush list and cache, IDLE contexts and one notice at most of a kind and subject, all blocks obey their laws. -/
theorem blockLaws_empty (queue : s.writer.queue = []) (flush : s.writer.flush = []) (cache : s.cache = .reset)
    (renewal : s.renewal = .reset) (notices : NoticeLaw s.notices) : BlockLaws s where
  queue := ⟨by simp [queue], by simp [queue, counterKeys]⟩
  flush := by simp [flush]
  cache := cache ▸ ⟨Nat.zero_le _, List.nodup_nil⟩
  plans := renewal ▸ planLaw_reset
  notices := notices

theorem noticeLaw_nil : NoticeLaw [] := List.nodup_nil

/-- Settles O3: every block is empty and the seconds count is 0. -/
theorem resetStateIsSafe : Obligations.ResetStateIsSafe :=
  ⟨blockLaws_empty rfl rfl rfl rfl noticeLaw_nil, Nat.zero_lt_succ _⟩

theorem inv_clearVolatile (s : State) : Inv (clearVolatile s) :=
  ⟨blockLaws_empty rfl rfl rfl rfl noticeLaw_nil, Nat.zero_lt_succ _⟩

theorem inv_runLoader (s : State) : Inv (runLoader s) := by
  unfold runLoader
  dsimp only
  split
  · exact ⟨blockLaws_empty rfl rfl rfl rfl (noticeLaw_raiseIn noticeLaw_nil), Nat.zero_lt_succ _⟩
  · exact ⟨blockLaws_empty rfl rfl rfl rfl noticeLaw_nil, Nat.zero_lt_succ _⟩

/-! ### What keeps a state safe -/

/-- The laws speak of no other part than the seconds count, the queue, the flush list, the cache, the contexts and the notices. -/
theorem inv_outside {pending pins array device warning monitor} (h : Inv s) :
    Inv { s with
      pending := pending, pins := pins, array := array, device := device, warning := warning, monitor := monitor } :=
  have ⟨⟨queue, flush, cache, plans, notices⟩, seconds⟩ := h
  ⟨⟨queue, flush, cache, plans, notices⟩, seconds⟩

theorem inv_clock {k : Clock} (hk : k.seconds < 3600) (h : Inv s) : Inv { s with clock := k } :=
  have ⟨⟨queue, flush, cache, plans, notices⟩, _⟩ := h
  ⟨⟨queue, flush, cache, plans, notices⟩, hk⟩

theorem Kept.inv (k : Kept s t) (h : Inv s) : Inv t := ⟨k.laws h.blocks, k.clock ▸ h.seconds⟩

/-! ### The commands -/

/-- A reset leaves empty blocks; a release of NRST that is not held, or without supply, changes a line at most. -/
theorem inv_reset {c : Instr} (hc : isReset c = true) (e : exec c s = .next t) (h : Inv s) : Inv t := by
  cases c <;> first | (cases hc; done) | skip
  case powerOnReset =>
    simp only [exec, execPowerOnReset] at e
    cases e
    split
    · exact inv_clearVolatile _
    · exact inv_runLoader _
  case nrstReset => cases e; exact inv_clearVolatile _
  case powerLoss => cases e; exact inv_clearVolatile _
  case nrstRelease =>
    simp only [exec, execNrstRelease] at e
    split at e <;> cases e
    · split
      · exact inv_runLoader _
      · exact inv_outside h
    · exact h

/-- The event starts the seconds count anew (R33, R34). -/
theorem inv_hourBoundary (h : Inv s) : Inv (hourBoundary s) := kept_hourBoundary.inv (inv_clock (Nat.zero_lt_succ _) h)

/-- A counted edge keeps the seconds count below 3600 (R33). -/
theorem inv_stickEdge (e : exec .stickEdge s = .next t) (h : Inv s) : Inv t := by
  simp only [exec, execStickEdge] at e
  split at e
  · split at e <;> cases e
    · exact inv_clock (by dsimp only; omega) h
    · unfold hourEdge
      split
      · exact inv_hourBoundary h
      · exact inv_clock (Nat.zero_lt_succ _) h
  · cases e; exact h

theorem inv_hourBoundary_row (e : exec .hourBoundary s = .next t) (h : Inv s) : Inv t := by
  simp only [exec, execHourBoundary] at e
  split at e <;> rw [← Host.Outcome.next.inj e]
  · exact inv_hourBoundary h
  · exact h

theorem inv_storeWriteReadBack {b : ReadBack} (e : exec (.storeWriteReadBack b) s = .next t) (h : Inv s) : Inv t := by
  simp only [exec, execStoreWriteReadBack] at e
  split at e
  · cases e; exact h
  · split at e
    · cases e; exact h
    · split at e <;> cases e
      · obtain ⟨a, kept⟩ := kept_writeEnd
        exact (kept_portSettle kept).inv (inv_outside h)
      · exact h

theorem inv_tamperInputLevelChange {i : TamperInput} {l : Level} (e : exec (.tamperInputLevelChange i l) s = .next t)
    (h : Inv s) : Inv t := by
  simp only [exec, execTamperInputLevelChange] at e
  split at e <;> cases e <;> exact inv_outside h

theorem inv_pfailAssert (e : exec .pfailAssert s = .next t) (h : Inv s) : Inv t := by
  have taken {u : State} (hd : u.device ≠ .faulted) (hu : Inv u) : Inv (warningTaken u) :=
    (kept_warningTaken hd (kept_refl u)).inv hu
  simp only [exec, execPfailAssert] at e
  split at e
  · cases e; exact inv_outside h
  · split at e <;> cases e
    case h_1 d | h_2 d =>
      split
      · exact inv_outside h
      · exact taken (by simp [d]) (inv_outside h)
    all_goals exact inv_outside h

/-- Every command keeps the safe states. -/
theorem inv_exec {c : Instr} (e : exec c s = .next t) (h : Inv s) : Inv t := by
  cases hc : isReset c with
  | true => exact inv_reset hc e h
  | false =>
    cases c
    case stickEdge => exact inv_stickEdge e h
    case hourBoundary => exact inv_hourBoundary_row e h
    case storeWriteReadBack => exact inv_storeWriteReadBack e h
    case tamperInputLevelChange => exact inv_tamperInputLevelChange e h
    case pfailAssert => exact inv_pfailAssert e h
    case pfailDeasserted => cases e; exact inv_outside h
    all_goals exact (kept_exec _ hc nofun nofun nofun nofun nofun nofun e).inv h

/-- Settles O4: on an empty queue the timers count, else the front command runs; both keep the laws. -/
theorem everyStepKeepsTheSafeStates : Obligations.EveryStepKeepsTheSafeStates := by
  intro s t h e
  unfold step at e
  split at e
  · cases e
    exact (kept_tick (kept_refl s)).inv h
  · exact inv_exec e (inv_outside h)

end Sys2Proof.Machine
end

section
/-! PROOFS. A PROTECT whose generation has no entry begins a fill: its place is free, or that of the least recently taken entry that can
go (R79, R80, R84, R85). -/

namespace Sys2Proof.Machine

variable {s t u : State} {v : Entry} {before after : List Entry}

/-! ### A HIGHWATER is asked for (R85, R177) -/

theorem requestHigh_queues {i : Fin 32} {c : CellId} {g w : Nat} {port hold : Bool}
    (h : ∀ j ∈ s.writer.queue, isHighFor i c j = false) (room : s.writer.queue.length < 8) (hd : s.device ≠ .faulted) :
    requestHigh i c g w port hold s = some (enqueue ⟨.highWater i c g w, none, port, hold⟩ s) := by
  have none : s.writer.queue.any (isHighFor i c) ≠ true := by simpa using h
  rw [requestHigh, requestCounter, if_neg none, if_pos (by simp [hasRoom, room, hd])]

theorem requestHigh_waits {i : Fin 32} {c : CellId} {g w : Nat} {port hold : Bool}
    (h : ∀ j ∈ s.writer.queue, isHighFor i c j = false) (full : 8 ≤ s.writer.queue.length) :
    requestHigh i c g w port hold s = none := by
  have none : s.writer.queue.any (isHighFor i c) ≠ true := by simpa using h
  rw [requestHigh, requestCounter, if_neg none, if_neg (by simp [hasRoom, full])]

/-! ### The place of a fill (R80, R84, R85) -/

theorem evictable_iff {e : Entry} :
    evictable e = true ↔ e.filling = false ∧ e.pinPort = false ∧ e.pinRenewal = false ∧ e.withhold = none := by
  simp [evictable, pinned, and_assoc]

/-- The entry that can go and has none after it that can is the one evicted (R84). -/
theorem victim_eq (he : s.cache.entries = before ++ v :: after) (hv : evictable v = true)
    (last : ∀ e ∈ after, evictable e = false) : victim s = some v := by
  have none : after.reverse.find? evictable = none := List.find?_eq_none.2 (by simpa using last)
  simp [victim, he, List.find?_append, none, hv]

theorem makePlace_free (h : s.cache.entries.length < 6) : makePlace s = some s := if_pos h

/-- A clean victim leaves at once (R84). -/
theorem makePlace_clean (full : 6 ≤ s.cache.entries.length) (hv : victim s = some v) (clean : unclean v = false) :
    makePlace s = some (removeEntry v.slot v.gen s) := by
  simp [makePlace, Nat.not_lt.2 full, hv, clean]

/-- An unclean victim leaves as its HIGHWATER is asked for, where there is room for it (R85). -/
theorem makePlace_unclean (full : 6 ≤ s.cache.entries.length) (hv : victim s = some v) (dirty : unclean v = true) :
    makePlace s = (requestHigh v.slot v.cell v.gen v.h false false s).map (removeEntry v.slot v.gen) := by
  simp [makePlace, Nat.not_lt.2 full, hv, dirty]

/-! ### The command -/

/-- A PROTECT request that comes to a current generation without an entry or a fill that waits (R79, R101, R102). -/
structure MissesEntry (body : List Byte) (q : ProtectReq) (slot : Fin 32) (c : CellId) (x : CellImg) (s : State) : Prop where
  handed : Handed .protect body s
  device : s.device ≠ .faulted
  form : parseProtect body = .ok q
  found : lookup s q.party .unicast = .ok slot
  sound : (slotOf s slot).quarantined = false
  awake : (slotOf s slot).suspended = false
  current : genWith (slotOf s slot) .current = some (c, x)
  unspent : classOf x ≠ .spent
  unbarred : s.cache.bars[slot] = none
  absent : findEntry s slot x.params.generation = none
  unasked : ∀ w ∈ s.cache.waits, w.slot = slot → w.gen ≠ x.params.generation

variable {body : List Byte} {q : ProtectReq} {slot : Fin 32} {c : CellId} {x : CellImg}

theorem askCache_begins {i : Fin 32} {g : Nat} (hq : (slotOf s i).quarantined = false) (hb : s.cache.bars[i] = none)
    (he : findEntry s i g = none) (hw : ∀ w ∈ s.cache.waits, w.slot = i → w.gen ≠ g) (r : Requester) (c : CellId) :
    askCache r i c g s = (.wait, beginFill r i c g s) := by
  have unasked : s.cache.waits.any (isWait i g) = false := by simpa [isWait] using hw
  simp [askCache, hq, hb, he, unasked]

/-- The state as a PROTECT waits for its fill. -/
def fillAwaited (q : ProtectReq) (slot : Fin 32) (c : CellId) (x : CellImg) (s : State) : State :=
  setExec (.protect (protectOn q slot c x)) (beginFill .port slot c x.params.generation s)

theorem calm_fillAwaited (q : ProtectReq) (slot : Fin 32) (c : CellId) (x : CellImg) (s : State) :
    Calm s (fillAwaited q slot c x s) :=
  calm_setExec (calm_beginFill (calm_refl s))

theorem MissesEntry.exec (h : MissesEntry body q slot c x s) : exec .protect s = .next (fillAwaited q slot c x s) := by
  have run : protectBodyRun body s = fillAwaited q slot c x s := by
    rw [protectBodyRun, h.form]
    simp only [runProtect, h.found, protectSlot_ok h.sound h.awake h.current h.unspent,
      askCache_begins h.sound h.unbarred h.absent h.unasked]
    rfl
  change execProtect s = _
  rw [execProtect, onHanded_of_handed h.handed, run, portSettle_of_not_faulted]
  rw [(calm_fillAwaited q slot c x s).device]
  exact h.device

/-- The PROTECT waits for its fill; slots and array are the same. -/
theorem MissesEntry.rests (h : MissesEntry body q slot c x s) :
    (fillAwaited q slot c x s).port.exec = .protect (protectOn q slot c x) ∧
      (fillAwaited q slot c x s).slots = s.slots ∧ (fillAwaited q slot c x s).array = s.array := by
  have kept := kept_askCache (askCache_begins h.sound h.unbarred h.absent h.unasked .port c) (kept_refl s)
  exact ⟨rfl, (calm_fillAwaited q slot c x s).slots, kept.array⟩

/-- In a place made for it the FILLING entry stands at the most recent end, and its unwrap is asked for (R80). -/
theorem fillAwaited_placed (made : makePlace s = some u) (q : ProtectReq) (slot : Fin 32) (c : CellId) (x : CellImg) :
    let t := fillAwaited q slot c x s
    let job : EngineJob := .fill slot c x.params.generation
    (t.engine.job = some ⟨.port, job, false⟩ ∨ t.engine.portLine = some job) ∧
      t.cache.entries = fillingEntry .port slot c x.params.generation :: u.cache.entries ∧
      t.writer.queue = u.writer.queue := by
  have placed : fillAwaited q slot c x s = setExec (.protect (protectOn q slot c x))
      (placeFilling .port (fillingEntry .port slot c x.params.generation) u) := by
    simp only [fillAwaited, beginFill, made]
  rw [placed]
  refine ⟨place_asks .port _ _, ?_, ?_⟩
  · exact congrArg (·.entries) place_cache
  · exact congrArg (·.queue) place_writer

/-- Without a place the fill waits for room (R85). -/
theorem fillAwaited_waits (full : makePlace s = none) (q : ProtectReq) (slot : Fin 32) (c : CellId) (x : CellImg) :
    fillAwaited q slot c x s = setExec (.protect (protectOn q slot c x)) { s with cache := { s.cache with
      waits := s.cache.waits ++ [⟨slot, c, x.params.generation, true, false, .port⟩] } } := by
  simp only [fillAwaited, beginFill, full]
  rfl

/-- Settles O37: a free place, a clean victim, a victim whose HIGHWATER has room, and one that must wait for it. -/
theorem fillsEvictTheLeastRecentlyTaken : Obligations.FillsEvictTheLeastRecentlyTaken := by
  intro body q slot c x s handed device form found sound awake current unspent unbarred absent unasked filling asked begun
  have misses : MissesEntry body q slot c x s :=
    ⟨handed, device, form, found, sound, awake, current, unspent, unbarred, absent, unasked⟩
  have rests := misses.rests
  have placed {u : State} (made : makePlace s = some u) : ∃ t, exec .protect s = .next t ∧ begun t ∧
      t.cache.entries = filling :: u.cache.entries ∧ t.writer.queue = u.writer.queue := by
    obtain ⟨asks, entries, queue⟩ := fillAwaited_placed made q slot c x
    exact ⟨_, misses.exec, ⟨rests, asks⟩, entries, queue⟩
  refine ⟨fun free => placed (makePlace_free free), ?_⟩
  intro before v after entries full ready unpinned unheld uncaused last rest
  have goes : victim s = some v := by
    refine victim_eq entries (evictable_iff.2 ⟨ready, unpinned, unheld, uncaused⟩) fun e he => ?_
    rw [← Bool.not_eq_true, evictable_iff]
    rintro ⟨filling, port, renewal, cause⟩
    simpa [filling, port, renewal, cause] using last e he
  have left (u : State) (hu : u.cache = s.cache) : (removeEntry v.slot v.gen u).cache.entries = rest := by
    change u.cache.entries.filter _ = _
    rw [hu, entries]
    rfl
  refine ⟨fun clean unflushed => ?_, fun unclean free => ⟨fun room => ?_, fun noRoom => ?_⟩⟩
  · have made := makePlace_clean full goes (by simp [Machine.unclean, clean, unflushed])
    rw [← left s rfl]
    exact placed made
  · have made := makePlace_unclean full goes (by simpa [Machine.unclean] using unclean)
    rw [requestHigh_queues free room device] at made
    rw [← left (enqueue ⟨.highWater v.slot v.cell v.gen v.h, none, false, false⟩ s) rfl]
    exact placed made
  · have made := makePlace_unclean full goes (by simpa [Machine.unclean] using unclean)
    rw [requestHigh_waits free noRoom] at made
    have waits := fillAwaited_waits made q slot c x
    exact ⟨_, misses.exec, rests, by rw [waits]; rfl, by rw [waits]; rfl, by rw [waits]; rfl⟩

end Sys2Proof.Machine
end

section
/-! PROOFS. The end of a fill: the entry becomes READY with what the image and the jobs on their way give it, or the slot becomes
QUARANTINED (R9, R42, R81, R82). -/

namespace Sys2Proof.Machine

variable {s : State} {key : List Byte} {e : Entry} {x : CellImg} {who : Requester} {slot : Fin 32} {c : CellId} {gen : Nat}
  {orphan : Bool}

/-! ### The READY entry (R42, R81) -/

theorem le_foldl_max (l : List Nat) (n : Nat) : n ≤ l.foldl max n := by
  induction l generalizing n with
  | nil => exact le_rfl
  | cons a l ih => exact (Nat.le_max_left n a).trans (ih _)

/-- The h of a fresh entry is at or above the stored high-water (R51). -/
theorem le_startHigh (s : State) (slot : Fin 32) (c : CellId) (stored : Nat) : stored ≤ startHigh s slot c stored :=
  le_foldl_max _ _

/-- A passing fill gives the opened key and clear flags, and an h from the stored high-water on (R81). -/
theorem readyEntry_ready (s : State) (key : List Byte) (e : Entry) :
    (readyEntry s key e).filling = false ∧ (readyEntry s key e).key = key ∧ (readyEntry s key e).dirty = false ∧
      (readyEntry s key e).flushReq = false ∧
      (readyEntry s key e).h =
        startHigh s e.slot e.cell (((cellOf (slotOf s e.slot) e.cell).map (·.highWater)).getD 0) := by
  unfold readyEntry
  dsimp only
  split <;> exact ⟨rfl, rfl, rfl, rfl, rfl⟩

/-- The entry of a current generation takes its start point (R42). -/
theorem readyEntry_current (hr : roleIn (slotOf s e.slot) e.cell = some .current)
    (hx : cellOf (slotOf s e.slot) e.cell = some x) (key : List Byte) : (readyEntry s key e).n = some (startPoint x) := by
  simp only [readyEntry, hr, entryRole, activeEntry, hx, Option.map_some]

theorem findEntry_makeReady (he : findEntry s e.slot e.gen = some e) (key : List Byte) :
    findEntry (makeReady key e s) e.slot e.gen = some (readyEntry s key e) := by
  have ready := findEntry_updEntry (s := s) (i := e.slot) (g := e.gen) (readyEntry_keys s key)
  rw [he, Option.map_some] at ready
  unfold makeReady
  dsimp only
  split <;> exact ready

/-! ### The end of the job (R81, R82) -/

/-- A cell whose fill gives a key holds a valid body whose sealed key is that key's (Table 5-1). -/
theorem storedKey_some (h : storedKey s slot c = some key) :
    ∃ b, validBody (storedCell s slot c).body = some b ∧ Config.rootSeal.close key = b.sealedKey := by
  unfold storedKey at h
  split at h
  · cases h
  · rename_i b hb
    exact ⟨b, hb, (Config.rootSeal.recover_iff _ _).1 h⟩

/-- The fill of a FILLING entry ends by the key its cell gives. -/
theorem exec_fillEnd {k : Option (List Byte)} (hr : running s = true)
    (hg : s.engine.job = some ⟨who, .fill slot c gen, orphan⟩) (he : findEntry s slot gen = some e)
    (hf : e.filling = true) (hk : storedKey s slot c = k) :
    exec (.fillUnwrapEnd k.isSome) s = .next (portSettle (fillEnd e k (engineFree s))) := by
  have found : findEntry (engineFree s) slot gen = some e := he
  rw [exec_fillUnwrapEnd hr hg hk]
  simp only [found, hf, if_true]
  rfl

theorem fillEnd_pass (hw : e.withhold = none) : fillEnd e (some key) s =
    tellHolders e.pinPort e.pinRenewal portFilled renewalFilled (makeReady key e s) := by
  simp only [fillEnd, hw]

theorem fillEnd_fail (hw : e.withhold = none) : fillEnd e none s =
    tellHolders e.pinPort e.pinRenewal (portRefused .slotQuarantined) renewalRefused
      (quarantineSlot e.slot (removeEntry e.slot e.gen s)) := by
  simp only [fillEnd, hw]

/-- A quarantine marks its slot and raises its notice (R9), and neither goes as the entries are discarded. -/
theorem quarantineSlot_marks (slot : Fin 32) (s : State) : (slotOf (quarantineSlot slot s) slot).quarantined = true ∧
    NoticeKey.quarantined slot ∈ (quarantineSlot slot s).notices.map noticeKey := by
  have beside : Beside (raise (.quarantined slot) (setSlot s slot (quarantineImg (slotOf s slot)))) (quarantineSlot slot s) :=
    beside_causes (beside_refl _)
  refine ⟨beside.quarantined slot ?_, beside.keys _ (List.mem_map_of_mem (mem_raiseIn (.quarantined slot) _))⟩
  change (slotOf (setSlot s slot (quarantineImg (slotOf s slot))) slot).quarantined = true
  rw [slotOf_setSlot]
  rfl

/-- Settles O46: a pass by the READY entry it gives, a fail by the quarantine, and both by what the end of a fill keeps. -/
theorem fillEndMakesReadyOrQuarantines : Obligations.FillEndMakesReadyOrQuarantines := by
  intro who slot c gen orphan e s run job found filling uncaused cell
  obtain ⟨rfl, rfl⟩ := findEntry_key found
  subst cell
  refine ⟨fun key opens => ⟨storedKey_some opens, ?_⟩, fun closed => ?_⟩
  · let u := makeReady key e (engineFree s)
    have kept : Kept s u := kept_makeReady (kept_engineFree (kept_refl s))
    have beside : Beside s u := beside_makeReady (beside_engineFree (beside_refl s))
    obtain ⟨ready, opened, clean, unflushed, high⟩ := readyEntry_ready (engineFree s) key e
    refine ⟨u, readyEntry (engineFree s) key e, ?_, findEntry_makeReady (s := engineFree s) found key, ready, opened,
      clean, unflushed, fun x hx => ⟨?_, fun current => readyEntry_current (s := engineFree s) current hx key⟩,
      kept.array, beside.slots⟩
    · exact (exec_fillEnd run job found filling opens).trans (congrArg _ (congrArg _ (fillEnd_pass uncaused)))
    · have stored : cellOf (slotOf (engineFree s) e.slot) e.cell = some x := hx
      rw [high, stored]
      exact le_startHigh _ _ _ _
  · let u := quarantineSlot e.slot (removeEntry e.slot e.gen (engineFree s))
    have told : Beside u (portSettle (fillEnd e none (engineFree s))) := by
      rw [fillEnd_fail uncaused]
      exact beside_portSettle (beside_tellRefused (beside_refl u))
    have kept : Kept s (portSettle (fillEnd e none (engineFree s))) :=
      kept_portSettle (kept_fillEnd (kept_engineFree (kept_refl s)))
    have beside : Beside s (portSettle (fillEnd e none (engineFree s))) :=
      beside_portSettle (beside_fillEnd (beside_engineFree (beside_refl s)))
    obtain ⟨marked, raised⟩ := quarantineSlot_marks e.slot (removeEntry e.slot e.gen (engineFree s))
    exact ⟨_, exec_fillEnd run job found filling closed, told.quarantined _ marked, told.keys _ raised, kept.array,
      beside.slots⟩

end Sys2Proof.Machine
end

section
/-! PROOFS. Withhold causes where nobody waits on an entry: what a tamper event makes of each entry (R83, R91, R94). -/

namespace Sys2Proof.Machine

variable {s t : State} {w : Withhold} {p : Fin 32 → Nat → Bool} {e x : Entry}

/-! ### One entry -/

/-- What a cause makes of one entry, where it reaches it (R91, R94). -/
def afterCause (w : Withhold) (reached : Bool) (e : Entry) : Option Entry :=
  if !reached then some e
  else if heldOrFilling e then some (addCause w e)
  else if w = .suspended then some e
  else none

theorem entries_caused (w : Withhold) (p : Fin 32 → Nat → Bool) (s : State) :
    (caused w p s).cache.entries = s.cache.entries.filterMap fun e => afterCause w (p e.slot e.gen) e := rfl

theorem addCause_uncaused (h : e.withhold = none) (w : Withhold) : addCause w e = { e with withhold := some w } := by
  simp only [addCause, h]

/-- An entry keeps the cause that it carries where the new one does not rank above it (R91). -/
theorem addCause_outranked {old : Withhold} (h : e.withhold = some old) (rank : causeRank w ≤ causeRank old) :
    addCause w e = e := by
  simp only [addCause, h, if_neg (Nat.not_lt.2 rank)]

theorem addCause_outranks {old : Withhold} (h : e.withhold = some old) (rank : causeRank old < causeRank w) :
    addCause w e = { e with withhold := some w } := by
  simp only [addCause, h, if_pos rank]

/-- After ERASED an entry carries ERASED or QUARANTINED, the one cause above it (R91). -/
theorem addCause_erased (e : Entry) :
    ∃ w, addCause .erased e = { e with withhold := some w } ∧ (w = .erased ∨ w = .quarantined) := by
  cases hw : e.withhold with
  | none => exact ⟨.erased, addCause_uncaused hw _, .inl rfl⟩
  | some old =>
    cases old
    case quarantined => exact ⟨.quarantined, by rw [addCause_outranked hw (by decide), ← hw], .inr rfl⟩
    case erased => exact ⟨.erased, by rw [addCause_outranked hw le_rfl, ← hw], .inl rfl⟩
    all_goals exact ⟨.erased, addCause_outranks hw (by decide), .inl rfl⟩

/-- SUSPENDED ranks above no cause (R91). -/
theorem addCause_suspended_caused (h : e.withhold ≠ none) : addCause .suspended e = e := by
  obtain ⟨old, hold⟩ := Option.ne_none_iff_exists'.1 h
  exact addCause_outranked hold (by cases old <;> decide)

/-- What a tamper event with these items makes of one entry: ERASED reaches it, and then SUSPENDED (R94). -/
def afterEvent (items : List (Fin 32 × TamperAct)) (e : Entry) : Option Entry :=
  (afterCause .erased (hasItem items e.slot .erase) e).bind fun x =>
    afterCause .suspended (hasItem items x.slot .suspend) x

/-- A slot has one item at most (R163). -/
theorem slotItems_one {i : Fin 32} {a b : TamperAct} (ha : (i, a) ∈ slotItems s) (hb : (i, b) ∈ slotItems s) : a = b :=
  Option.some.inj ((mem_slotItems.1 ha).symm.trans (mem_slotItems.1 hb))

theorem afterEvent_erase (h : (e.slot, .erase) ∈ slotItems s) :
    afterEvent (slotItems s) e = if heldOrFilling e then some (addCause .erased e) else none := by
  have one : hasItem (slotItems s) e.slot .suspend = false :=
    hasItem_eq_false.2 fun other => nomatch slotItems_one h other
  cases held : heldOrFilling e <;> simp [afterEvent, afterCause, hasItem_iff.2 h, held, addCause_keys, one]

theorem afterEvent_other (h : (e.slot, .erase) ∉ slotItems s) :
    afterEvent (slotItems s) e = afterCause .suspended (hasItem (slotItems s) e.slot .suspend) e := by
  simp [afterEvent, afterCause, hasItem_eq_false.2 h]

/-- SUSPENDED reaches a held entry without a cause. -/
theorem afterEvent_suspend (h : (e.slot, .suspend) ∈ slotItems s) (held : heldOrFilling e = true) (hw : e.withhold = none) :
    afterEvent (slotItems s) e = some { e with withhold := some .suspended } := by
  have free : (e.slot, .erase) ∉ slotItems s := fun other => nomatch slotItems_one h other
  simp [afterEvent_other free, afterCause, hasItem_iff.2 h, held, addCause_uncaused hw]

/-- An entry beyond the reach of ERASED and SUSPENDED stays as it is. -/
theorem afterEvent_same (h : (e.slot, .erase) ∉ slotItems s)
    (other : (e.slot, .suspend) ∉ slotItems s ∨ ¬heldOrFilling e = true ∨ e.withhold ≠ none) :
    afterEvent (slotItems s) e = some e := by
  rw [afterEvent_other h, afterCause]
  rcases other with free | loose | caused
  · simp [hasItem_eq_false.2 free]
  · simp [loose]
  · simp [addCause_suspended_caused caused]

/-- The event keeps slot and generation of an entry. -/
theorem afterEvent_key {items : List (Fin 32 × TamperAct)} (h : afterEvent items e = some x) : entryKey x = entryKey e := by
  have step {w : Withhold} {b : Bool} {y z : Entry} (hz : afterCause w b y = some z) : entryKey z = entryKey y := by
    unfold afterCause at hz
    repeat' split at hz
    all_goals cases hz
    all_goals first | rfl | exact (addCause_keeps w y).1
  obtain ⟨y, hy, hx⟩ := Option.bind_eq_some_iff.1 h
  exact (step hx).trans (step hy)

/-! ### Nobody waits -/

/-- The Port Executor is free, or its frame job is granted and runs on (R98, R194). -/
def PortRuns (s : State) : Prop :=
  s.port.exec = .free ∨ portJobGranted s = true ∧
    ((∃ op n cls, s.port.exec = .protect op ∧ op.stage = .frame n cls) ∨ ∃ op, s.port.exec = .unprotect op ∧ op.stage = .frame)

/-- A cause leaves a command whose job is granted as it is (R105, R108). -/
theorem portReact_runs (h : PortRuns s) : portReact s = s := by
  unfold portReact
  rcases h with free | ⟨granted, ⟨op, n, cls, command, stage⟩ | ⟨op, command, stage⟩⟩
  · rw [free]
  · rw [command]
    dsimp only
    split
    · simp [protectCause, stage, granted]
    · rfl
  · rw [command]
    dsimp only
    split
    · simp [unprotectCause, stage, granted]
    · rfl

/-- No queued job of the event's keeps such a command waiting (R166). -/
theorem portVoided_runs (h : PortRuns s) : portVoided s = s := by
  unfold portVoided
  rcases h with free | ⟨-, ⟨op, n, cls, command, stage⟩ | ⟨op, command, stage⟩⟩
  · rw [free]
  · simp [command, stage]
  · simp [command, stage]

/-- A tamper event's void jobs go from the queue, and no such command is answered (R166). -/
theorem voidJobs_runs (h : PortRuns s) (items : List (Fin 32 × TamperAct)) :
    voidJobs items s = setQueue (s.writer.queue.filter fun q => !voided items q) s := by
  have runs : PortRuns (setQueue (s.writer.queue.filter fun q => !voided items q) s) := h
  unfold voidJobs
  dsimp only
  split
  · exact portVoided_runs runs
  · rfl

/-- No requester waits: no verification is in hand, no fill waits for room, both engine lines are empty, and the port runs on. -/
structure NobodyWaits (s : State) : Prop where
  port : PortRuns s
  verif : s.renewal.verif = none
  waits : s.cache.waits = []
  portLine : s.engine.portLine = none
  renewalLine : s.engine.renewalLine = none

theorem caused_port (w : Withhold) (p : Fin 32 → Nat → Bool) (s : State) : (caused w p s).port = s.port := rfl
theorem caused_engine (w : Withhold) (p : Fin 32 → Nat → Bool) (s : State) : (caused w p s).engine = s.engine := rfl

theorem nobodyWaits_caused (h : NobodyWaits s) : NobodyWaits (caused w p s) :=
  have ⟨port, verif, waits, portLine, renewalLine⟩ := h
  ⟨port, verif, (congrArg (List.filter _) waits).trans rfl, portLine, renewalLine⟩

theorem withdrawCaused_idle (h : NobodyWaits s) (e : Entry) : withdrawCaused s e = s := by
  have unasked : fillWaits s e = false := by
    rw [fillWaits, h.portLine, h.renewalLine]
    rfl
  unfold withdrawCaused
  rw [unasked, Bool.and_false]
  split <;> rfl

theorem renewalReact_idle (h : NobodyWaits s) : renewalReact s = s := by
  simp only [renewalReact, h.verif]

theorem tellHolders_nobody (port renewal : State → State) (s : State) : tellHolders false false port renewal s = s := by
  unfold tellHolders tellBoth
  split <;> rfl

/-- Where nobody waits, a cause reaches the entries and tells nobody. -/
theorem causes_untold (h : NobodyWaits s) : causes w p s = caused w p s := by
  have after := nobodyWaits_caused (w := w) (p := p) h
  have ended : endWaits w p (giveCause w (fun e => p e.slot e.gen) s) = caused w p s := by
    have none : (giveCause w (fun e => p e.slot e.gen) s).cache.waits = [] := h.waits
    unfold endWaits
    simp only [none, List.filter_nil, List.any_nil]
    rw [tellHolders_nobody]
    simp only [caused, none, List.filter_nil]
  have fold (l : List Entry) : l.foldl withdrawCaused (caused w p s) = caused w p s :=
    List.foldlRecOn (motive := fun u => u = caused w p s) l withdrawCaused rfl fun u hu e _ => by
      rw [hu, withdrawCaused_idle after]
  unfold causes
  dsimp only
  rw [ended, fold, portReact_runs after.port, renewalReact_idle after]

/-! ### The event -/

/-- Port, engine, cache entries, waiting fills and the verification in hand are the same. -/
structure SameHolders (s t : State) : Prop where
  port : t.port = s.port
  engine : t.engine = s.engine
  entries : t.cache.entries = s.cache.entries
  waits : t.cache.waits = s.cache.waits
  verif : t.renewal.verif = s.renewal.verif

theorem sameHolders_refl (s : State) : SameHolders s s := ⟨rfl, rfl, rfl, rfl, rfl⟩

theorem SameHolders.trans {u : State} (h : SameHolders s t) (k : SameHolders t u) : SameHolders s u :=
  ⟨k.port.trans h.port, k.engine.trans h.engine, k.entries.trans h.entries, k.waits.trans h.waits, k.verif.trans h.verif⟩

theorem SameHolders.nobodyWaits (k : SameHolders s t) (h : NobodyWaits s) : NobodyWaits t where
  port := by
    rw [PortRuns, portJobGranted, k.port, k.engine]
    exact h.port
  verif := k.verif.trans h.verif
  waits := k.waits.trans h.waits
  portLine := by rw [k.engine, h.portLine]
  renewalLine := by rw [k.engine, h.renewalLine]

theorem sameHolders_ctxFail (i : Fin 2) (c : Code) (s : State) : SameHolders s (ctxFail i c s) := ⟨rfl, rfl, rfl, rfl, rfl⟩

theorem sameHolders_failStoring (i : Fin 2) (c : Code) (s : State) : SameHolders s (failStoring i c s) :=
  have left : SameHolders s (leaveStoring i (unlinkJobs i (removeCtxJobs i s))) := ⟨rfl, rfl, rfl, rfl, rfl⟩
  left.trans (sameHolders_ctxFail i c _)

/-- Without a verification in hand a context ends beside the holders of entries (R130, R131). -/
theorem sameHolders_endCtx {c : Code} {work : Bool} {i : Fin 2} (h : s.renewal.verif = none) :
    SameHolders s (endCtx c work s i) := by
  have closed : SameHolders s (leaveQueue i s) := ⟨rfl, rfl, rfl, rfl, rfl⟩
  rcases ctx_cases work s i with ended | (intake | storing) | verifying
  · rw [endCtx_ended ended]
    exact sameHolders_refl s
  · obtain state | state := intake <;> simp only [endCtx, state]
    · exact sameHolders_ctxFail i c s
    · exact closed.trans (sameHolders_ctxFail i c _)
  · obtain ⟨state, rfl⟩ := storing
    simp only [endCtx, state]
    exact sameHolders_failStoring i c s
  · rw [endCtx_no_verif verifying h]
    exact sameHolders_refl s

theorem sameHolders_eventContexts (origin : Origin) (h : s.renewal.verif = none) :
    SameHolders s (tamperCtxs (eventBarred origin s)) := by
  have barred : SameHolders s (eventBarred origin s) := ⟨rfl, rfl, rfl, rfl, rfl⟩
  have first := barred.trans (sameHolders_endCtx (c := .tamper) (work := true) (i := 0) (barred.verif.trans h))
  rw [tamperCtxs_eq]
  exact first.trans (sameHolders_endCtx (first.verif.trans h))

/-- Where nobody waits, a tamper event leaves port and engine, and makes of each entry what `afterEvent` says (R94). -/
theorem tamperEvent_untold (origin : Origin) (h : NobodyWaits s) : (tamperEvent origin s).port = s.port ∧
    (tamperEvent origin s).engine = s.engine ∧
    (tamperEvent origin s).cache.entries = s.cache.entries.filterMap (afterEvent (slotItems s)) := by
  have contexts := sameHolders_eventContexts origin h.verif
  have waits := contexts.nobodyWaits h
  have erased := nobodyWaits_caused (w := .erased) (p := fun i _ => hasItem (slotItems s) i .erase) waits
  have met : eventMet origin s = caused .suspended (fun i _ => hasItem (slotItems s) i .suspend)
      (caused .erased (fun i _ => hasItem (slotItems s) i .erase) (tamperCtxs (eventBarred origin s))) := by
    rw [eventMet, causes_untold waits, causes_untold erased]
  have runs := (nobodyWaits_caused (w := .suspended) (p := fun i _ => hasItem (slotItems s) i .suspend) erased).port
  rw [tamperEvent_eq, met, voidJobs_runs runs]
  refine ⟨?_, ?_, ?_⟩
  · rw [setQueue_port, caused_port, caused_port, contexts.port]
  · rw [setQueue_engine, caused_engine, caused_engine, contexts.engine]
  · rw [setQueue_cache, entries_caused, entries_caused, contexts.entries, List.filterMap_filterMap]
    rfl

end Sys2Proof.Machine
end

section
/-! PROOFS. The causes of a tamper event on the entries, and the release of a PROTECT's pins as it is answered (R83, R91, R94, R105). -/

namespace Sys2Proof.Machine

variable {s : State} {e x : Entry} {op : ProtectOp} {n : Nat} {cls : WearClass}

/-! ### The release of the Port Executor's pins (R83) -/

theorem unpinned_port (e : Entry) : (unpinned .port e).pinPort = false ∧ (unpinned .port e).pinRenewal = e.pinRenewal := by
  unfold unpinned
  dsimp only
  split <;> exact ⟨rfl, rfl⟩

theorem releaseEntry_unpins (h : releaseEntry .port e = some x) : x.pinPort = false := by
  unfold releaseEntry at h
  dsimp only at h
  split at h
  · rename_i free
    cases h
    simpa [pinnedBy] using free
  · repeat' split at h
    all_goals cases h
    all_goals rfl

/-- An entry that the Renewal Engine pins too stays with its cause (R83). -/
theorem releaseEntry_shared (port : e.pinPort = true) (renewal : e.pinRenewal = true) :
    releaseEntry .port e = some (unpinned .port e) := by
  by_cases retained : e.role = some .acceptOnly <;>
    simp [releaseEntry, unpinned, pinnedBy, pinned, port, renewal, retained]

/-- The last pin of a READY entry goes: SUSPENDED ends with it (R83). -/
theorem releaseEntry_suspended (port : e.pinPort = true) (renewal : e.pinRenewal = false) (ready : e.filling = false)
    (cause : e.withhold = none ∨ e.withhold = some .suspended) :
    ∃ x, releaseEntry .port e = some x ∧ x.withhold = none := by
  by_cases retained : e.role = some .acceptOnly <;> rcases cause with cause | cause <;>
    simp [releaseEntry, pinnedBy, pinned, port, renewal, ready, retained, cause]

/-- With any other cause the entry is discarded as its last pin goes (R83, R91). -/
theorem releaseEntry_discarded {w : Withhold} (port : e.pinPort = true) (renewal : e.pinRenewal = false)
    (ready : e.filling = false) (cause : e.withhold = some w) (other : w ≠ .suspended) : releaseEntry .port e = none := by
  by_cases retained : e.role = some .acceptOnly <;> cases w <;>
    simp [releaseEntry, pinnedBy, pinned, port, renewal, ready, retained, cause] at other ⊢

/-! ### A PROTECT is answered (R104, R105) -/

variable {k : Code} {b : List Byte}

theorem mem_answered (h : x ∈ (finish k b s).cache.entries) : ∃ e ∈ s.cache.entries, releaseEntry .port e = some x :=
  List.mem_filterMap.1 h

theorem findEntry_answered {i : Fin 32} {g : Nat} (he : findEntry s i g = some e) (hx : releaseEntry .port e = some x) :
    findEntry (finish k b s) i g = some x :=
  find?_filterMap_key (fun _ _ h => (releaseEntry_key h).1) he hx

/-- A discarded entry is found no more, its slot and generation having no other (R77). -/
theorem findEntry_discarded (one : OneEntryEach s) (he : e ∈ s.cache.entries) (gone : releaseEntry .port e = none) :
    findEntry (finish k b s) e.slot e.gen = none := by
  cases found : findEntry (finish k b s) e.slot e.gen with
  | none => rfl
  | some x =>
    obtain ⟨y, hy, hx⟩ := mem_answered (findEntry_mem found)
    obtain ⟨slot, gen⟩ := findEntry_key found
    have same : y = e := eq_of_entryKey one hy he ((releaseEntry_key hx).1.symm.trans (Prod.ext slot gen))
    rw [same, gone] at hx
    cases hx

/-- The end of the frame job of a PROTECT answers it. -/
theorem exec_frameProtectEnd_answers {who : Requester} {key nonce header payload : List Byte} {orphan : Bool}
    (run : running s = true) (job : s.engine.job = some ⟨who, .frameProtect key nonce header payload, orphan⟩)
    (command : s.port.exec = .protect op) (stage : op.stage = .frame n cls) :
    ∃ k b, exec .frameProtectEnd s = .next (finish k b (engineFree s)) := by
  let frame := Config.frames.protect key nonce header payload
  have freed : (engineFree s).port.exec = .protect op := command
  have ended : endFrameProtect frame.1 frame.2 (engineFree s) = protectEnd op n cls frame.1 frame.2 (engineFree s) := by
    simp only [endFrameProtect, freed, stage]
  have answer : ∃ k b, protectEnd op n cls frame.1 frame.2 (engineFree s) = finish k b (engineFree s) := by
    unfold protectEnd
    split <;> exact ⟨_, _, rfl⟩
  obtain ⟨k, b, answer⟩ := answer
  refine ⟨k, b, ?_⟩
  rw [exec_frameProtectEnd run job, ended, answer]
  exact congrArg _ (portSettle_of_not_stuck rfl)

/-- Settles O31: the event by what it makes of each entry where nobody waits, the answer by the release of the port's pins. -/
theorem causesReachHeldEntriesAndDiscardOthers : Obligations.CausesReachHeldEntriesAndDiscardOthers := by
  intro s run one
  refine ⟨fun serves first settled mismatch matching port verif waits portLine renewalLine => ?_, ?_⟩
  · have granted : portJobGranted s = s.engine.job.any fun g => g.who == .port && !g.orphan := by
      unfold portJobGranted
      cases s.engine.job <;> rfl
    have nobody : NobodyWaits (firstMismatch s) := ⟨by rw [← granted] at port; exact port, verif, waits, portLine, renewalLine⟩
    obtain ⟨port, engine, entries⟩ := tamperEvent_untold .load nobody
    have items : slotItems (firstMismatch s) = slotItems s := rfl
    rw [items] at entries
    have stays {e x : Entry} (he : e ∈ s.cache.entries) (hx : afterEvent (slotItems s) e = some x) :
        x ∈ (tamperEvent .load (firstMismatch s)).cache.entries := entries ▸ List.mem_filterMap.2 ⟨e, he, hx⟩
    refine ⟨_, exec_firstMismatch run serves first settled mismatch matching, port, engine, fun x hx erase => ?_,
      fun e he => ⟨fun erase h => ?_, fun suspend h uncaused => ?_, fun free other => ?_⟩⟩
    · rw [entries] at hx
      obtain ⟨e, -, he⟩ := List.mem_filterMap.1 hx
      have slot : x.slot = e.slot := congrArg (·.1) (afterEvent_key he)
      rw [afterEvent_erase (slot ▸ erase)] at he
      obtain ⟨w, caused, cause⟩ := addCause_erased e
      split at he
      · rename_i h
        rw [caused] at he
        cases he
        exact ⟨heldOrFilling_iff.1 h, cause.imp (congrArg some) (congrArg some)⟩
      · cases he
    · obtain ⟨w, caused, -⟩ := addCause_erased e
      exact ⟨w, stays he (by rw [afterEvent_erase erase, if_pos (heldOrFilling_iff.2 h), caused])⟩
    · exact stays he (afterEvent_suspend suspend (heldOrFilling_iff.2 h) uncaused)
    · exact stays he (afterEvent_same free (by rw [heldOrFilling_iff]; exact other))
  · intro who key nonce header payload orphan op n cls job command stage
    obtain ⟨k, b, answered⟩ := exec_frameProtectEnd_answers run job command stage
    refine ⟨_, answered, fun x hx => ?_, fun e he port ready => ⟨fun renewal => ?_, fun renewal cause => ?_,
      fun w renewal cause other => ?_⟩⟩
    · obtain ⟨e, -, he⟩ := mem_answered hx
      exact releaseEntry_unpins he
    · obtain ⟨-, -, cause, -⟩ := unpinned_keeps .port e
      rw [findEntry_answered (s := engineFree s) (findEntry_of_mem one he) (releaseEntry_shared port renewal),
        Option.map_some, cause, (unpinned_port e).2, renewal]
    · obtain ⟨x, hx, cause⟩ := releaseEntry_suspended port renewal ready cause
      rw [findEntry_answered (s := engineFree s) (findEntry_of_mem one he) hx, Option.map_some, cause]
    · exact findEntry_discarded (s := engineFree s) one he (releaseEntry_discarded port renewal ready cause other)

end Sys2Proof.Machine
end

section
/-! PROOFS. The engine's grants (R98). -/

namespace Sys2Proof.Machine

variable {s : State} {j : EngineJob} {r : Requester}

theorem otherReq_otherReq (r : Requester) : otherReq (otherReq r) = r := by cases r <;> rfl

theorem eq_otherReq {q r : Requester} (h : q ≠ r) : q = otherReq r := by
  cases q <;> cases r <;> first | rfl | contradiction

/-- A busy engine grants no request. -/
theorem grantNext_busy {g : Granted} (busy : s.engine.job = some g) : grantNext s = s := by
  simp [grantNext, busy]

/-- A free engine grants the request of a requester that waits alone, or that did not have the last grant. -/
theorem grantNext_grants (free : s.engine.job = none) (waits : lineOf s r = some j)
    (turn : lineOf s (otherReq r) = none ∨ s.engine.last = otherReq r) : grantNext s = grantTo r j s := by
  by_cases last : s.engine.last = otherReq r
  · simp [grantNext, free, last, otherReq_otherReq, waits]
  · have own : s.engine.last = r := by rw [eq_otherReq last, otherReq_otherReq]
    have alone : lineOf s (otherReq r) = none := turn.resolve_right last
    simp [grantNext, free, own, alone, waits]

theorem grantNext_idle (port : s.engine.portLine = none) (renewal : s.engine.renewalLine = none) : grantNext s = s := by
  have empty (r : Requester) : lineOf s r = none := by cases r <;> assumption
  simp [grantNext, empty]

/-- Settles O45: a busy engine, each requester's turn, and no request. -/
theorem engineGrantAlternates : Obligations.EngineGrantAlternates := by
  intro s runs
  have step {t : State} (h : grantNext s = t) : exec .engineGrant s = .next t := by
    change Host.Outcome.next (if running s then grantNext s else s) = _
    rw [if_pos runs, h]
  refine ⟨fun g busy => step (grantNext_busy busy), fun free => ⟨fun j waits turn => ?_, fun j waits turn => ?_,
    fun port renewal => step (grantNext_idle port renewal)⟩⟩
  · exact step (grantNext_grants (r := .port) free waits turn)
  · exact step (grantNext_grants (r := .renewal) free waits turn)

end Sys2Proof.Machine
end

section
/-! PROOFS. A PROTECT is answered as its frame job ends (R97, R104, R105). -/

namespace Sys2Proof.Machine

variable {s : State} {op : ProtectOp} {n : Nat} {cls : WearClass} {cipher tag : List Byte}

/-- Without a cause and under RETIRED the answer is the frame (R104, R105). -/
theorem protectEnd_ok (h : causeOf s op.slot op.gen = none ∨ causeOf s op.slot op.gen = some .retired) :
    protectEnd op n cls cipher tag s = finish .ok (protectBody op n cls cipher tag) s := by
  rcases h with h | h <;> simp only [protectEnd, h]

theorem protectEnd_caused {w : Withhold} (h : causeOf s op.slot op.gen = some w) (other : w ≠ .retired) :
    protectEnd op n cls cipher tag s = finish (causeCode w) [] s := by
  cases w with
  | retired => contradiction
  | erased | suspended | quarantined => simp only [protectEnd, h]

/-- Settles O39: the frame is that of the job's inputs, and the cause of the entry decides the answer. -/
theorem frameProtectEndAnswersTheFrame : Obligations.FrameProtectEndAnswersTheFrame := by
  intro who key nonce header payload orphan op n cls s runs job command stage
  let frame := Config.frames.protect key nonce header payload
  have freed : (engineFree s).port.exec = .protect op := command
  have ended : exec .frameProtectEnd s = settled (protectEnd op n cls frame.1 frame.2 (engineFree s)) := by
    rw [exec_frameProtectEnd runs job]
    simp only [endFrameProtect, freed, stage, frame]
  have answers {c : Code} {b : List Byte} (h : protectEnd op n cls frame.1 frame.2 (engineFree s) = finish c b (engineFree s)) :
      exec .frameProtectEnd s = .next (finish c b (engineFree s)) := by
    rw [ended, h]
    exact congrArg _ (portSettle_of_not_stuck rfl)
  have length : frame.1.length = payload.length := Config.frames.cipher_length ..
  by_cases h : causeOf s op.slot op.gen = none ∨ causeOf s op.slot op.gen = some .retired
  · refine ⟨_, answers (protectEnd_ok h), rfl, rfl, fun _ => ⟨frame.1, frame.2, rfl, length, Config.frames.tag_length .., ?_⟩,
      fun w cause other => ?_, rfl, rfl, rfl⟩
    · rw [← length]
      rfl
    · rw [cause] at h
      simp [other] at h
  · obtain ⟨w, cause⟩ := Option.ne_none_iff_exists'.1 fun none => h (.inl none)
    have other : w ≠ .retired := fun same => h (.inr (same ▸ cause))
    refine ⟨_, answers (protectEnd_caused cause other), rfl, rfl, fun ok => absurd ok h, fun w' cause' _ => ?_, rfl, rfl, rfl⟩
    rw [cause] at cause'
    cases cause'
    rfl

end Sys2Proof.Machine
end

section
/-! PROOFS. The token check of an ACTIVATE command ends (R97, R156, R157). -/

namespace Sys2Proof.Machine

variable {s : State} {op : ActivateOp}

theorem tokenEnd_caused {w : Withhold} (h : causeOf s op.slot op.gen = some w) :
    tokenEnd op true s = finish (activateCause w) [] s := by
  simp [tokenEnd, h]

theorem tokenEnd_notStaged (h : causeOf s op.slot op.gen = none) (hg : genNumber (slotOf s op.slot) .staged ≠ some op.gen) :
    tokenEnd op true s = finish .notStaged [] s := by
  simp [tokenEnd, h, hg]

theorem tokenEnd_staged (h : causeOf s op.slot op.gen = none) (hg : genNumber (slotOf s op.slot) .staged = some op.gen) :
    tokenEnd op true s = if s.warning.taken then finish .powerFailing [] s else requestActivate op s := by
  simp [tokenEnd, h, hg]

theorem requestActivate_queues (room : s.writer.queue.length < 8) (device : s.device ≠ .faulted) :
    requestActivate op s = setExec (.activate { op with stage := .store }) (enqueue (activateJob op) s) :=
  if_pos (by simp [hasRoom, room, device])

/-- Settles O44: the outcome by the CMAC, the answers in their order. -/
theorem tokenCheckEndQueuesTheActivate : Obligations.TokenCheckEndQueuesTheActivate := by
  intro who key message tag orphan op s runs job command stage
  have ended {b : Bool} (h : (tag == cmac key message) = b) :
      exec (.tokenCheckEnd b) s = settled (tokenEnd op b (engineFree s)) := by
    have freed : (engineFree s).port.exec = .activate op := command
    rw [exec_tokenCheckEnd runs job h]
    simp only [endToken, freed, stage, if_true]
  have answers {b : Bool} {c : Code} (h : (tag == cmac key message) = b)
      (end_ : tokenEnd op b (engineFree s) = finish c [] (engineFree s)) :
      ∃ t, exec (.tokenCheckEnd b) s = .next t ∧ t.port.exec = .free ∧ t.port.retained = some ⟨c, s.port.overrun, []⟩ ∧
        t.slots = s.slots ∧ t.writer.queue.map (·.job) = s.writer.queue.map (·.job) := by
    refine ⟨finish c [] (engineFree s), ?_, rfl, rfl, rfl, jobs_finish c [] (engineFree s)⟩
    rw [ended h, end_]
    exact congrArg _ (portSettle_of_not_stuck rfl)
  refine ⟨fun differs => ?_, fun same => ?_⟩
  · have fails : (tag == cmac key message) = false := beq_false_of_ne differs
    exact ⟨(exec_end_other job (by rw [jobPasses, fails]; nofun)).2.2.1, answers fails rfl⟩
  · have passes : (tag == cmac key message) = true := beq_iff_eq.2 same
    refine ⟨(exec_end_other job (by rw [jobPasses, passes]; nofun)).2.2.1, fun w c cause code => ?_, fun free gone => ?_,
      fun free staged => ⟨fun warned => ?_, fun unwarned room device => ?_⟩⟩
    · have status : activateCause w = c := by
        simp only [List.mem_cons, Prod.mk.injEq, List.not_mem_nil, or_false] at code
        rcases code with ⟨rfl, rfl⟩ | ⟨rfl, rfl⟩ | ⟨rfl, rfl⟩ | ⟨rfl, rfl⟩ <;> rfl
      exact status ▸ answers passes (tokenEnd_caused (s := engineFree s) cause)
    · exact answers passes (tokenEnd_notStaged (s := engineFree s) free gone)
    · exact answers passes ((tokenEnd_staged (s := engineFree s) free staged).trans (if_pos warned))
    · have queues : tokenEnd op true (engineFree s) =
          setExec (.activate { op with stage := .store }) (enqueue (activateJob op) (engineFree s)) := by
        have taken : (engineFree s).warning.taken = false := unwarned
        rw [tokenEnd_staged (s := engineFree s) free staged, taken]
        exact requestActivate_queues (s := engineFree s) room device
      rw [ended passes, queues, settled, portSettle_of_not_faulted (by exact device)]
      rfl

end Sys2Proof.Machine
end

section
/-! PROOFS. A job of the verification in hand ends: the verification fails, or its receipt is asked for (R97, R142, R144 to R149). -/

namespace Sys2Proof.Machine

variable {s t : State} {v : Verif} {who : Requester} {key message tag : List Byte} {index : Fin 8}

/-! ### What follows the end of a job -/

/-- The verification in hand waits for the end of its job at a stage, and is neither stopped nor to be dropped (R129, R137). -/
structure JobAwaited (v : Verif) (stage : VerifStage) (s : State) : Prop where
  runs : running s = true
  device : s.device ≠ .faulted
  verif : s.renewal.verif = some v
  stage : v.stage = stage
  kept : (ctxOf s v.ctx).dropPending = false

/-- The verification goes on as its job ends (R142, R144). -/
theorem JobAwaited.goes {stage : VerifStage} (h : JobAwaited v stage s) (go : Verif → State → State) :
    renewalJobEnd false stage go (engineFree s) = go v (engineFree s) := by
  have kept : dropping (engineFree s) = false := (dropping_eq (s := engineFree s) h.verif).trans h.kept
  simp [renewalJobEnd, h.verif, h.device, h.stage, kept]

/-- The verification has failed with an outcome: its context is FAILED, the notice is raised, and slots and array stay (R126, R138). -/
structure VerifFailed (i : Fin 2) (c : Code) (s t : State) : Prop where
  state : (ctxOf t i).state = .failed
  outcome : (ctxOf t i).result.map (·.outcome) = some c
  verif : t.renewal.verif = none
  notice : NoticeKey.renewalFinished i ∈ t.notices.map noticeKey
  slots : t.slots = s.slots
  array : t.array = s.array
  device : t.device = s.device

theorem verifFailed_failVerif (h : s.renewal.verif = some v) (c : Code) : VerifFailed v.ctx c s (failVerif c s) := by
  have aside := aside_failVerif c s
  have array := (kept_failVerif (c := c) (kept_refl s)).array
  rw [failVerif_eq h] at aside array ⊢
  obtain ⟨failed, -, result⟩ := ctxOf_ctxFail v.ctx c (endVerif s)
  exact ⟨failed, by rw [result]; rfl, rfl, List.mem_map_of_mem (notices_ctxFail v.ctx c (endVerif s)), aside.slots, array,
    aside.device⟩

/-- The receipt of a verification is asked for under a key, its jobs planned (R149). -/
structure ReceiptAsked (v : Verif) (plan : List StoreJob) (key : List Byte) (s t : State) : Prop where
  verif : t.renewal.verif = some { v with stage := .receipt, plan := plan }
  engine : t.engine.job = some ⟨.renewal, .receipt key (receiptMessage s v.bundle), false⟩ ∨
    t.engine.renewalLine = some (.receipt key (receiptMessage s v.bundle))
  slots : t.slots = s.slots
  array : t.array = s.array
  device : t.device = s.device

theorem receiptAsked_placeInstallReceipt (v : Verif) (plan : List StoreJob) (key : List Byte) (s : State) :
    ReceiptAsked v plan key s (placeInstallReceipt v plan key s) :=
  ⟨congrArg (·.verif) place_renewal, place_asks .renewal _ _, place_slots, place_array, place_device⟩

/-- Under its READY entry without a cause the signing key gives the receipt (R149). -/
theorem placeReceipt_asks {e : Entry} (he : findEntry s v.authSlot v.signGen = some e) (uncaused : e.withhold = none)
    (plan : List StoreJob) : placeReceipt v plan s = placeInstallReceipt v plan e.key s := by
  simp [placeReceipt, placeInstallReceipt, he, uncaused]

/-! ### The key unwrap (R144, R145) -/

theorem JobAwaited.keyUnwrapEnd {kek wrapped : List Byte} {k : Option (List Byte)} (h : JobAwaited v .keyUnwrap s)
    (job : s.engine.job = some ⟨who, .keyUnwrap kek wrapped, false⟩) (opens : Config.keyWrap.recover kek wrapped = k)
    (device : (unwrapEnd v k (engineFree s)).device = s.device) :
    exec (.keyUnwrapEnd k.isSome) s = .next (unwrapEnd v k (engineFree s)) := by
  rw [exec_keyUnwrapEnd h.runs job opens, h.goes, settled, portSettle_of_not_faulted]
  rw [device]
  exact h.device

theorem unwrapEnd_opened {i : InstallBody} {slot : Fin 32} {b : Binding} (body : v.bundle.body = .install i)
    (target : v.target = some (slot, b)) :
    unwrapEnd v (some key) s = placeInstallReceipt v (installJobs slot b i key) key s := by
  simp only [unwrapEnd, body, target]

/-- Settles O50: a wrapped key that opens to none fails the context, and one that opens is what wrapping its key gives. -/
theorem keyUnwrapEndPlansTheStage : Obligations.KeyUnwrapEndPlansTheStage := by
  intro who kek wrapped v i slot b s runs device job verif stage body target kept
  have awaited : JobAwaited v .keyUnwrap s := ⟨runs, device, verif, stage, kept⟩
  refine ⟨fun closed => ?_, fun key opened => ?_⟩
  · have failed : VerifFailed v.ctx .unwrapFailed (engineFree s) (unwrapEnd v none (engineFree s)) :=
      verifFailed_failVerif (s := engineFree s) verif _
    exact ⟨_, awaited.keyUnwrapEnd job closed failed.device, failed.state, failed.outcome, failed.verif, failed.slots,
      failed.array⟩
  · have wraps : Config.keyWrap.wrap kek key = wrapped := (Config.keyWrap.recover_iff ..).1 opened
    have asked := receiptAsked_placeInstallReceipt v (installJobs slot b i key) key (engineFree s)
    rw [← unwrapEnd_opened body target] at asked
    exact ⟨_, awaited.keyUnwrapEnd job opened asked.device, wraps, wraps ▸ Config.keyWrap.wrap_length kek key, asked.verif,
      asked.engine, asked.slots, asked.array⟩

/-! ### The kind checks (R146, R147) -/

theorem slotsInScope_role (s : State) (index : Fin 8) (r : Role) :
    slotsInScope s index (· == r) = (boundSlot s index r).toList := by
  have only : allRoles.filter (· == r) = [r] := by cases r <;> rfl
  rw [slotsInScope, only]
  cases bound : boundSlot s index r <;> simp [bound]

theorem any_slotConflict {new : Roles (Option (Fin 32))} :
    allRoles.any (slotConflict s index new) = true ↔ ∃ r, slotConflict s index new r = true := by
  simp [mem_allRoles]

section Checks

variable {party : Id64} {cls : PartyClass} {new : Roles (Option (Fin 32))}

theorem enrolCheck_duplicate (h : duplicateParty s index party = true) :
    enrolCheck s index party cls new = some .duplicateParty := if_pos h

variable (free : duplicateParty s index party = false)
include free

theorem enrolCheck_bound (h : ∃ r, slotConflict s index new r = true) :
    enrolCheck s index party cls new = some .slotBound := by
  simp [enrolCheck, free, any_slotConflict.2 h]

/-- Without a conflict the unbound slots are checked, and the roles last (R146). -/
theorem enrolCheck_unbound (h : ∀ r, slotConflict s index new r = false) : enrolCheck s index party cls new =
    if slotNotEmpty s index new then some .slotNotEmpty else if rolesAllowed cls new then none else some .roleNotAllowed := by
  have none : allRoles.any (slotConflict s index new) = false := by simp [h]
  cases allowed : rolesAllowed cls new <;> simp [enrolCheck, free, none, allowed]

end Checks

/-! ### The plans (Table 7-3) -/

theorem kindChecks_arm {record : ArmRecord} (body : v.bundle.body = .arm record) :
    kindChecks v s = placeReceipt v [.armRecord record] s := by
  simp only [kindChecks, body]

theorem kindChecks_revoke_unknown {target : Id64} {role : Option Role} (body : v.bundle.body = .revoke target role)
    (unknown : findParty s target = none) : kindChecks v s = failVerif .targetUnknown s := by
  simp only [kindChecks, body, unknown]

theorem kindChecks_revoke {target : Id64} {role : Option Role} (body : v.bundle.body = .revoke target role)
    (found : findParty s target = some index) : kindChecks v s = placeReceipt v (revokeJobs s index role) s := by
  simp only [kindChecks, body, found]

theorem revokeJobs_role (s : State) (index : Fin 8) (r : Role) :
    revokeJobs s index (some r) = (boundSlot s index r).toList.map fun i => .revokeSlot i false := by
  rw [revokeJobs, slotsInScope_role]

theorem kindChecks_resume_unknown {target : Id64} {roles : Roles Bool} (body : v.bundle.body = .resume target roles)
    (unknown : findParty s target = none) : kindChecks v s = failVerif .targetUnknown s := by
  simp only [kindChecks, body, unknown]

theorem kindChecks_resume {target : Id64} {roles : Roles Bool} (body : v.bundle.body = .resume target roles)
    (found : findParty s target = some index) :
    kindChecks v s = placeReceipt v ((slotsInScope s index (roleGet roles)).map .resume) s := by
  simp only [kindChecks, body, found]

theorem kindChecks_enrol_refused {party : Id64} {cls : PartyClass} {choices : Roles RoleChoice} {c : Code}
    (body : v.bundle.body = .enrol index party cls choices)
    (refused : enrolCheck s index party cls (resolveEnrol s index choices) = some c) : kindChecks v s = failVerif c s := by
  simp only [kindChecks, body, refused]

theorem kindChecks_enrol {party : Id64} {cls : PartyClass} {choices : Roles RoleChoice}
    (body : v.bundle.body = .enrol index party cls choices)
    (passes : enrolCheck s index party cls (resolveEnrol s index choices) = none) :
    kindChecks v s = placeReceipt v (enrolJobs s index party cls choices) s := by
  simp only [kindChecks, body, passes]

/-! ### The tag check (R142) -/

/-- The tag check of a verification ends as its tag says. -/
theorem JobAwaited.tagCheckEnd {pass : Bool} (h : JobAwaited v .tagCheck s)
    (job : s.engine.job = some ⟨who, .bundleTag key message tag, false⟩) (passes : (tag == cmac key message) = pass)
    (run : tagEnd v pass (engineFree s) = t) (device : t.device = s.device) :
    exec (.bundleTagCheckEnd pass) s = .next t := by
  rw [exec_bundleTagCheckEnd h.runs job passes, h.goes, run, settled, portSettle_of_not_faulted]
  rw [device]
  exact h.device

/-- Settles O48: the tag, then the checks of each kind in their order, and the plan of Table 7-3. -/
theorem tagCheckEndGoesToTheKindChecks : Obligations.TagCheckEndGoesToTheKindChecks := by
  intro who key message tag v s runs device job verif stage kept fails plans
  have awaited : JobAwaited v .tagCheck s := ⟨runs, device, verif, stage, kept⟩
  have failing {pass : Bool} {c : Code} (passes : (tag == cmac key message) = pass)
      (run : tagEnd v pass (engineFree s) = failVerif c (engineFree s)) : fails pass c := by
    have failed : VerifFailed v.ctx c (engineFree s) (failVerif c (engineFree s)) :=
      verifFailed_failVerif (s := engineFree s) verif c
    exact ⟨_, awaited.tagCheckEnd job passes run failed.device, failed.state, failed.outcome, failed.verif, failed.notice,
      failed.slots, failed.array⟩
  refine ⟨fun differs => ?_, fun same => ?_⟩
  · have wrong : (tag == cmac key message) = false := beq_false_of_ne differs
    exact ⟨(exec_end_other job (by rw [jobPasses, wrong]; nofun)).2.2.2.2, failing wrong rfl⟩
  have right : (tag == cmac key message) = true := beq_iff_eq.2 same
  have refused {c : Code} (run : kindChecks v (engineFree s) = failVerif c (engineFree s)) : fails true c := failing right run
  have planned {jobs : List StoreJob} (run : kindChecks v (engineFree s) = placeReceipt v jobs (engineFree s)) :
      plans jobs := by
    intro e entry uncaused
    have asked := receiptAsked_placeInstallReceipt v jobs e.key (engineFree s)
    rw [← placeReceipt_asks (s := engineFree s) entry uncaused, ← run] at asked
    exact ⟨_, awaited.tagCheckEnd job right rfl asked.device, asked.verif, asked.engine, asked.slots, asked.array⟩
  refine ⟨(exec_end_other job (by rw [jobPasses, right]; nofun)).2.2.2.2, fun record body => planned (kindChecks_arm body),
    fun target role body => ⟨fun unknown => refused (kindChecks_revoke_unknown (s := engineFree s) body unknown),
      fun index found => ?_⟩,
    fun target roles body => ⟨fun unknown => refused (kindChecks_resume_unknown (s := engineFree s) body unknown),
      fun index found => planned (kindChecks_resume (s := engineFree s) body found)⟩, ?_⟩
  · have run := kindChecks_revoke (s := engineFree s) body found
    refine ⟨fun r scope => ?_, fun scope => ?_⟩
    · rw [scope, revokeJobs_role] at run
      exact planned run
    · rw [scope] at run
      exact planned run
  · intro index party cls choices body new free unbound
    have refuses {c : Code} (check : enrolCheck s index party cls new = some c) : fails true c :=
      refused (kindChecks_enrol_refused (s := engineFree s) body check)
    refine ⟨fun duplicate => refuses (enrolCheck_duplicate duplicate),
      fun free conflict => refuses (enrolCheck_bound free conflict),
      fun free unbound held => refuses ((enrolCheck_unbound free unbound).trans (if_pos held)),
      fun free unbound empty barred => refuses ?_, fun free unbound empty allowed => ?_⟩
    · rw [enrolCheck_unbound free unbound, empty, barred]
      rfl
    · have passes : enrolCheck s index party cls new = none := by
        rw [enrolCheck_unbound free unbound, empty, allowed]
        rfl
      exact planned (kindChecks_enrol (s := engineFree s) body passes)

end Sys2Proof.Machine
end

section
/-! PROOFS. An UNPROTECT tries the generations of its list: the live high-water of each, and the job that is asked for (R107, R108,
R110). -/

namespace Sys2Proof.Machine

variable {s u : State} {op : UnprotectOp} {e x : Entry} {d : CellId} {i : Fin 32} {g k : Nat} {trial : Trial}
  {rest : List Trial} {key : List Byte}

/-! ### Entries (R79, R83) -/

/-- The Port Executor's release leaves an entry that it does not pin (R83). -/
theorem findEntry_releasePins_unpinned (h : findEntry s i g = some e) (unpinned : e.pinPort = false) :
    findEntry (releasePins .port s) i g = some e :=
  find?_filterMap_key (fun _ _ h => (releaseEntry_key h).1) h (by simp [releaseEntry, pinnedBy, unpinned])

/-- A hit moves its own entry alone (R79). -/
theorem findEntry_takeHit_other {q : Requester} (he : findEntry s i g = some e) (other : k ≠ g)
    (hx : findEntry s i k = some x) : findEntry (takeHit q e s) i k = some x := by
  obtain ⟨slot, gen⟩ := findEntry_key he
  have left : findEntry (removeEntry e.slot e.gen s) i k = some x :=
    findEntry_removeEntry_other (fun same => other (same.2.trans gen)) hx
  refine Eq.trans (List.find?_cons_of_neg ?_) left
  simp [pin_keys, gen, other.symm]

/-! ### A trial -/

/-- A generation of a slot can be tried: a cell holds it, its slot is neither QUARANTINED nor barred, and its entry is READY without a
cause (R79, R108). -/
structure Tryable (s : State) (i : Fin 32) (g : Nat) (d : CellId) (e : Entry) : Prop where
  cell : cellHolding (slotOf s i) g = some d
  sound : (slotOf s i).quarantined = false
  unbarred : s.cache.bars[i] = none
  entry : findEntry s i g = some e
  ready : e.filling = false
  uncaused : e.withhold = none

theorem Tryable.released (h : Tryable s i g d e) (unpinned : e.pinPort = false) : Tryable (releasePins .port s) i g d e :=
  ⟨h.cell, h.sound, h.unbarred, findEntry_releasePins_unpinned h.entry unpinned, h.ready, h.uncaused⟩

/-- It can be tried on without the Port Executor's pin, with the same high-water (R83). -/
theorem Tryable.unpinned (h : Tryable s i g d e) :
    ∃ y, Tryable (releasePins .port s) i g d y ∧ y.pinPort = false ∧ y.h = e.h := by
  obtain ⟨y, left, carried⟩ := carried_releaseEntry (q := .port) h.ready h.uncaused
  have entry : findEntry (releasePins .port s) i g = some y :=
    find?_filterMap_key (fun _ _ h => (releaseEntry_key h).1) h.entry left
  exact ⟨y, ⟨h.cell, h.sound, h.unbarred, entry, carried.filling, carried.withhold⟩, releaseEntry_unpins left, carried.h⟩

theorem Tryable.taken (h : Tryable s i g d e) : Tryable (takeHit .port e s) i g d (pin .port e) :=
  ⟨h.cell, h.sound, h.unbarred, findEntry_takeHit h.entry, h.ready, h.uncaused⟩

theorem Tryable.taken_other {c : CellId} (h : Tryable s i g c e) (k_ne : k ≠ g) (hx : Tryable s i k d x) :
    Tryable (takeHit .port e s) i k d x :=
  ⟨hx.cell, hx.sound, hx.unbarred, findEntry_takeHit_other h.entry k_ne hx.entry, hx.ready, hx.uncaused⟩

/-- An UNPROTECT with a generation of its list in hand (R108). -/
def onTrial (op : UnprotectOp) (d : CellId) (trial : Trial) (rest : List Trial) : UnprotectOp :=
  { op with cell := d, trial := trial, rest := rest }

/-- The state as a trial has its entry in hand, and no other entry is pinned for the Port Executor (R79, R108). -/
def trialTaken (e : Entry) (s : State) : State := takeHit .port e (releasePins .port s)

section Ready

variable (h : Tryable (releasePins .port s) op.slot trial.gen d e)
include h

/-- A counter at or below the live high-water skips the generation (R108). -/
theorem runTrials_stale (stale : op.counter ≤ e.h) : runTrials op (trial :: rest) s =
    runTrials { onTrial op d trial rest with stale := true } rest (trialTaken e s) := by
  rw [runTrials]
  simp only [h.cell, askCache_hit h.sound h.unbarred h.entry h.ready h.uncaused]
  exact if_pos stale

/-- A counter above it asks for the frame job (R108). -/
theorem runTrials_above (above : e.h < op.counter) : runTrials op (trial :: rest) s =
    placeUnprotect (onTrial op d trial rest) e.key (trialTaken e s) := by
  rw [runTrials]
  simp only [h.cell, askCache_hit h.sound h.unbarred h.entry h.ready h.uncaused]
  exact if_neg (Nat.not_le.2 above)

end Ready

theorem runTrials_nil (op : UnprotectOp) (s : State) : runTrials op [] s = finish (noAcceptance op) [] s := by rw [runTrials]

/-- What the request of a frame unprotect job leaves: the command waits for it, and cache, slots and array are the same (R98, R108). -/
theorem placeUnprotect_asks (op : UnprotectOp) (key : List Byte) (s : State) :
    let t := placeUnprotect op key s
    let job : EngineJob := .frameUnprotect key (be64 op.party ++ be32 op.counter) op.header op.cipher op.tag
    t.port.exec = .unprotect { op with stage := .frame } ∧
      (t.engine.job = some ⟨.port, job, false⟩ ∨ t.engine.portLine = some job) ∧ t.cache = s.cache ∧ t.slots = s.slots ∧
      t.array = s.array :=
  ⟨congrArg (·.exec) place_port, place_asks .port _ _, place_cache, place_slots, place_array⟩

/-- A command whose frame job is asked for is not left waiting by the Store Writer's stop (R184). -/
theorem portSettle_placeUnprotect (op : UnprotectOp) (key : List Byte) (s : State) :
    portSettle (placeUnprotect op key s) = placeUnprotect op key s := by
  refine portSettle_of_not_stuck ?_
  simp only [portStuck, (placeUnprotect_asks op key s).1]
  rfl

/-! ### The command -/

/-- The operation that an UNPROTECT request becomes on the current generation of its slot (R108). -/
def unprotectOn (q : UnprotectReq) (slot : Fin 32) (c : CellId) (x : CellImg) : UnprotectOp :=
  ⟨q.party, slot, q.counter, q.header, q.cipher, q.tag, c, ⟨x.params.generation, .current⟩, [], false, false, [], .fill⟩

variable {body : List Byte} {q : UnprotectReq} {slot : Fin 32} {c : CellId} {y : CellImg}

/-- An UNPROTECT request and the current generation of the slot it comes to, whose entry is READY and not pinned by the Port Executor
(R107, R108). -/
structure FindsReady (body : List Byte) (q : UnprotectReq) (slot : Fin 32) (c : CellId) (y : CellImg) (e : Entry) (s : State) :
    Prop where
  handed : Handed .unprotect body s
  form : parseUnprotect body = .ok q
  found : lookup s q.party q.role = .ok slot
  awake : (slotOf s slot).suspended = false
  current : genWith (slotOf s slot) .current = some (c, y)
  entry : ∃ d, Tryable s slot y.params.generation d e
  unpinned : e.pinPort = false

theorem FindsReady.exec {t : State} (h : FindsReady body q slot c y e s)
    (run : runTrials (unprotectOn q slot c y) (trialList (slotOf s slot)) s = t) : exec .unprotect s = .next (portSettle t) := by
  obtain ⟨d, tryable⟩ := h.entry
  have trials : unprotectBodyRun body s = t := by
    simp only [unprotectBodyRun, h.form, runUnprotect, h.found, slotRefusal_none tryable.sound h.awake, h.current]
    exact run
  change execUnprotect s = _
  rw [execUnprotect, onHanded_of_handed h.handed, trials]

theorem trialList_alone {img : SlotImg} (current : genWith img .current = some (c, y)) (phase : phaseOf img ≠ .overlap) :
    trialList img = [⟨y.params.generation, .current⟩] := by
  simp [trialList, genNumber_of_genWith current, phase]

theorem trialList_overlap {img : SlotImg} (current : genWith img .current = some (c, y)) (phase : phaseOf img = .overlap)
    (old : genNumber img .overlap = some k) : trialList img = [⟨y.params.generation, .current⟩, ⟨k, .overlap⟩] := by
  simp [trialList, genNumber_of_genWith current, phase, old]

/-- UNPROTECT asks for the frame job of a trial under its entry's key: that entry is pinned, and the current generation's is not where
another is tried (R83, R108). -/
def AsksForTrial (s : State) (q : UnprotectReq) (slot : Fin 32) (current : Nat) (key : List Byte) (trial : Trial)
    (rest : List Trial) (skipped : Bool) : Prop :=
  ∃ t op, exec .unprotect s = .next t ∧ t.port.exec = .unprotect op ∧ op.stage = .frame ∧ op.slot = slot ∧
    op.trial = trial ∧ op.rest = rest ∧ op.stale = skipped ∧ op.tagFail = false ∧ op.counter = q.counter ∧
    (findEntry t slot trial.gen).map (·.pinPort) = some true ∧
    (trial.gen ≠ current → (findEntry t slot current).map (·.pinPort) = some false) ∧
    (let job : EngineJob := .frameUnprotect key (be64 q.party ++ be32 q.counter) q.header q.cipher q.tag
     t.engine.job = some ⟨.port, job, false⟩ ∨ t.engine.portLine = some job) ∧
    t.slots = s.slots ∧ t.array = s.array

theorem FindsReady.asks {skipped : Bool} (h : FindsReady body q slot c y e s)
    (run : runTrials (unprotectOn q slot c y) (trialList (slotOf s slot)) s = placeUnprotect
      (onTrial { unprotectOn q slot c y with stale := skipped } d trial rest) x.key (trialTaken x u))
    (entry : findEntry (releasePins .port u) slot trial.gen = some x)
    (other : trial.gen ≠ y.params.generation →
      (findEntry (trialTaken x u) slot y.params.generation).map (·.pinPort) = some false)
    (slots : u.slots = s.slots) (array : u.array = s.array) :
    AsksForTrial s q slot y.params.generation x.key trial rest skipped := by
  have step := h.exec run
  rw [portSettle_placeUnprotect] at step
  obtain ⟨exec, engine, cache, same, stored⟩ := placeUnprotect_asks
    (onTrial { unprotectOn q slot c y with stale := skipped } d trial rest) x.key (trialTaken x u)
  have entries := findEntry_congr (congrArg (·.entries) cache)
  refine ⟨_, _, step, exec, rfl, rfl, rfl, rfl, rfl, rfl, rfl, ?_, fun apart => ?_, engine, same.trans slots,
    stored.trans array⟩
  · rw [entries, trialTaken, findEntry_takeHit entry]
    rfl
  · rw [entries, other apart]

/-- The current generation is tried first, under its READY entry (R108). -/
theorem FindsReady.first (h : FindsReady body q slot c y e s)
    (trials : trialList (slotOf s slot) = ⟨y.params.generation, .current⟩ :: rest) (above : e.h < q.counter) :
    AsksForTrial s q slot y.params.generation e.key ⟨y.params.generation, .current⟩ rest false := by
  obtain ⟨d, tryable⟩ := h.entry
  have current := tryable.released h.unpinned
  refine h.asks (d := d) (u := s) ?_ current.entry (fun apart => absurd rfl apart) rfl rfl
  rw [trials]
  exact runTrials_above (op := unprotectOn q slot c y) (trial := ⟨y.params.generation, .current⟩) current above

/-- A counter that every generation of the list skips is answered COUNTER_STALE (R110). -/
def AnswersStale (s : State) : Prop := ∃ t, exec .unprotect s = .next t ∧ t.port.exec = .free ∧
  t.port.retained = some ⟨.counterStale, s.port.overrun, []⟩ ∧ t.slots = s.slots ∧ t.array = s.array ∧ t.engine = s.engine

theorem FindsReady.answersStale {w : UnprotectOp} (h : FindsReady body q slot c y e s)
    (run : runTrials (unprotectOn q slot c y) (trialList (slotOf s slot)) s = runTrials w [] u)
    (code : noAcceptance w = .counterStale) (port : u.port = s.port) (slots : u.slots = s.slots) (array : u.array = s.array)
    (engine : u.engine = s.engine) : AnswersStale s := by
  rw [runTrials_nil, code] at run
  have step := h.exec run
  rw [portSettle_of_not_stuck rfl] at step
  exact ⟨_, step, rfl, by rw [finish_retained, port], slots, array, engine⟩

theorem cellHolding_of_genNumber {img : SlotImg} {r : GenRole} (h : genNumber img r = some k) :
    ∃ d, cellHolding img k = some d := by
  obtain ⟨c, x, found, rfl⟩ := genNumber_some h
  exact cellHolding_of_cell (genWith_cell found).2

/-- The overlap generation can be tried where the current one has been skipped, its entry as it was (R83, R108). -/
theorem Tryable.second {c : CellId} (h : Tryable s i g c e) (free : e.pinPort = false) (hx : Tryable s i k d x)
    (unpinned : x.pinPort = false) :
    ∃ z, Tryable (releasePins .port (trialTaken e s)) i k d z ∧ z.h = x.h ∧ (k ≠ g → z = x) := by
  have current := h.released free
  by_cases same : k = g
  · subst same
    obtain rfl : x = e := Option.some.inj (hx.entry.symm.trans h.entry)
    obtain rfl : d = c := Option.some.inj (hx.cell.symm.trans h.cell)
    obtain ⟨z, tryable, -, high⟩ := current.taken.unpinned
    exact ⟨z, tryable, high, fun apart => absurd rfl apart⟩
  · exact ⟨x, (current.taken_other same (hx.released unpinned)).released unpinned, rfl, fun _ => rfl⟩

/-- Settles O40: the current generation of the list, then that of an OVERLAP, each by its live high-water. -/
theorem unprotectComparesWithTheHighWater : Obligations.UnprotectComparesWithTheHighWater := by
  intro body q slot c y e s handed device form found sound awake current unbarred entry ready uncaused unpinned stale tries
  obtain ⟨d, cell⟩ := cellHolding_of_genNumber (genNumber_of_genWith current)
  have tryable : Tryable s slot y.params.generation d e := ⟨cell, sound, unbarred, entry, ready, uncaused⟩
  have finds : FindsReady body q slot c y e s := ⟨handed, form, found, awake, current, ⟨d, tryable⟩, unpinned⟩
  have skips {rest : List Trial} (low : q.counter ≤ e.h) :
      runTrials (unprotectOn q slot c y) (⟨y.params.generation, .current⟩ :: rest) s =
        runTrials (onTrial { unprotectOn q slot c y with stale := true } d ⟨y.params.generation, .current⟩ rest) rest
          (trialTaken e s) :=
    runTrials_stale (op := unprotectOn q slot c y) (trial := ⟨y.params.generation, .current⟩) (tryable.released unpinned) low
  refine ⟨fun alone => ?_, fun k overlap old => ?_⟩
  · have trials := trialList_alone current alone
    refine ⟨fun low => ?_, finds.first trials⟩
    have run := skips (rest := []) low
    rw [← trials] at run
    exact finds.answersStale run rfl rfl rfl rfl rfl
  · have trials := trialList_overlap current overlap old
    refine ⟨finds.first trials, fun other low held free caused idle => ?_⟩
    obtain ⟨d', cell'⟩ := cellHolding_of_genNumber old
    obtain ⟨z, second, high, same⟩ := tryable.second unpinned ⟨cell', sound, unbarred, held, free, caused⟩ idle
    refine ⟨fun low' => ?_, fun above => ?_⟩
    · have run := (skips low).trans (runTrials_stale (trial := ⟨k, .overlap⟩) (rest := []) second (high ▸ low'))
      rw [← trials] at run
      exact finds.answersStale run rfl rfl rfl rfl rfl
    · have apart : k ≠ y.params.generation := by
        rintro rfl
        obtain rfl : other = e := Option.some.inj (held.symm.trans entry)
        omega
      obtain rfl := same apart
      obtain ⟨w, first, free, -⟩ := (tryable.released unpinned).taken.unpinned
      have run := (skips low).trans (runTrials_above (trial := ⟨k, .overlap⟩) (rest := []) second above)
      rw [← trials] at run
      refine finds.asks run second.entry (fun _ => ?_) rfl rfl
      · have left := findEntry_takeHit_other (q := .port) second.entry apart.symm first.entry
        exact (congrArg (Option.map (·.pinPort)) left).trans (congrArg some free)

end Sys2Proof.Machine
end

section
/-! PROOFS. The frame unprotect job of an UNPROTECT ends: an acceptance raises the high-water, a fail goes on to the next generation
(R86, R97, R109 to R111). -/

namespace Sys2Proof.Machine

variable {s t : State} {op : UnprotectOp} {e x : Entry} {i : Fin 32} {c : CellId} {g v : Nat} {plain : List Byte}

/-! ### The grace progress leaves the command and the cache (R28) -/

theorem queueMarked_port (i : Fin 32) (s : State) : (queueMarked s i).port = s.port := by
  unfold queueMarked
  repeat' split
  all_goals rfl

theorem queueMarks_port (i : Fin 32) (s : State) : (queueMarks s i).port = s.port := by
  unfold queueMarks
  split
  · simp only [queueMarked_port]
  · rfl

theorem graceAccept_port (i : Fin 32) (g : Nat) (s : State) : (graceAccept i g s).port = s.port := by
  unfold graceAccept
  dsimp only
  repeat' split
  all_goals first | rfl | exact queueMarks_port i _

/-- An acceptance leaves the cache, and no job leaves the queue by it. -/
theorem graceAccept_cache (i : Fin 32) (g : Nat) (s : State) :
    (graceAccept i g s).cache = s.cache ∧ ∀ q ∈ s.writer.queue, q ∈ (graceAccept i g s).writer.queue := by
  by_cases raises : ∃ c x, genWith (slotOf s i) .current = some (c, x) ∧ phaseOf (slotOf s i) = .overlap ∧
      x.params.generation = g ∧ (slotOf s i).graceProgress < x.params.graceCount
  · obtain ⟨c, x, current, overlap, rfl, below⟩ := raises
    have marked := (graceAccept_raises overlap current below).marked
    exact ⟨marked.cache, marked.queue⟩
  · rw [graceAccept_idle fun c x current ⟨overlap, own, below⟩ => raises ⟨c, x, current, overlap, own, below⟩]
    exact ⟨rfl, fun _ => id⟩

/-! ### The write-through HIGHWATER (R86, R87, R177) -/

/-- A HIGHWATER that is asked for by a command has its value or a greater one, and the command waits on it (R177). -/
theorem requestHigh_waited (h : requestHigh i c g v true false s = some t) :
    ∃ q ∈ t.writer.queue, q.port = true ∧ ∃ k w, q.job = .highWater i c k w ∧ v ≤ w := by
  unfold requestHigh requestCounter at h
  split at h
  · rename_i any
    cases h
    obtain ⟨q, hq, own⟩ := List.any_eq_true.1 any
    obtain ⟨k, w, job⟩ := isHighFor_iff.1 own
    exact ⟨coalesce v true false q, List.mem_map.2 ⟨q, hq, if_pos own⟩, Bool.or_true _, k, max w v,
      by simp [coalesce, job, raiseValue], Nat.le_max_right w v⟩
  · split at h <;> cases h
    exact ⟨_, List.mem_append_right _ (.head _), rfl, g, v, rfl, le_rfl⟩

/-- It is asked for where the queue has room or one of its cell (R177). -/
theorem requestHigh_places (device : s.device ≠ .faulted)
    (h : s.writer.queue.length < 8 ∨ ∃ q ∈ s.writer.queue, isHighFor i c q = true) :
    ∃ t, requestHigh i c g v true false s = some t := by
  unfold requestHigh requestCounter
  split
  · exact ⟨_, rfl⟩
  · rename_i alone
    have room : s.writer.queue.length < 8 := h.resolve_right (mt List.any_eq_true.2 alone)
    exact ⟨_, if_pos (by simp [hasRoom, room, device])⟩

/-- The entry whose high-water travels in a HIGHWATER is clean (R87). -/
theorem findEntry_waitThrough (op : UnprotectOp) (s : State) : findEntry (waitThrough op s) op.slot op.trial.gen =
    (findEntry s op.slot op.trial.gen).map fun e => { e with dirty := false } :=
  findEntry_updEntry (s := s) fun _ => ⟨rfl, rfl⟩

/-- The command waits on the HIGHWATER that it asks for, the entry clean (R86, R87). -/
theorem requestThrough_waits (he : findEntry s op.slot op.trial.gen = some e) (device : s.device ≠ .faulted)
    (h : s.writer.queue.length < 8 ∨ ∃ q ∈ s.writer.queue, isHighFor op.slot op.cell q = true) :
    (requestThrough op s).port.exec = .unprotect { op with stage := .high } ∧
      findEntry (requestThrough op s) op.slot op.trial.gen = some { e with dirty := false } ∧
      ∃ q ∈ (requestThrough op s).writer.queue, q.port = true ∧
        ∃ k w, q.job = .highWater op.slot op.cell k w ∧ op.counter ≤ w := by
  obtain ⟨t, asked⟩ := requestHigh_places (g := op.trial.gen) (v := op.counter) device h
  have through : requestThrough op s = waitThrough op t := by simp only [requestThrough, asked]
  have waited := requestHigh_waited asked
  obtain ⟨l, rfl⟩ := requestHigh_queue asked
  rw [through]
  refine ⟨rfl, ?_, waited⟩
  rw [findEntry_waitThrough, findEntry_setQueue, he]
  rfl

/-- Without room the command waits for it (R86). -/
theorem requestThrough_full (full : 8 ≤ s.writer.queue.length)
    (alone : ∀ q ∈ s.writer.queue, isHighFor op.slot op.cell q = false) :
    requestThrough op s = setExec (.unprotect { op with stage := .room }) s := by
  simp only [requestThrough, requestHigh_waits alone full]

/-- The entry's high-water and the retained response are those before. -/
theorem requestThrough_keeps (he : findEntry s op.slot op.trial.gen = some e) :
    (findEntry (requestThrough op s) op.slot op.trial.gen).map (·.h) = some e.h ∧
      (requestThrough op s).port.retained = s.port.retained := by
  unfold requestThrough
  split
  · rename_i t asked
    obtain ⟨l, rfl⟩ := requestHigh_queue asked
    refine ⟨?_, rfl⟩
    rw [findEntry_waitThrough, findEntry_setQueue, he]
    rfl
  · exact ⟨by rw [findEntry_setExec, he]; rfl, rfl⟩

/-! ### An acceptance (R86, R109) -/

/-- The state as an acceptance has raised the entry's high-water, dirty on a WRITE_BACK slot (R86, R109). -/
def highRaised (op : UnprotectOp) (dirty : Bool) (s : State) : State :=
  updEntry op.slot op.trial.gen (fun e => { e with dirty := e.dirty || dirty, h := op.counter }) s

theorem findEntry_highRaised (he : findEntry s op.slot op.trial.gen = some e) (dirty : Bool) :
    findEntry (highRaised op dirty s) op.slot op.trial.gen =
      some { e with dirty := e.dirty || dirty, h := op.counter } := by
  have raised : findEntry (highRaised op dirty s) op.slot op.trial.gen = (findEntry s op.slot op.trial.gen).map fun e =>
      { e with dirty := e.dirty || dirty, h := op.counter } := findEntry_updEntry (s := s) fun _ => ⟨rfl, rfl⟩
  rw [raised, he]
  rfl

theorem acceptFrame_retired (h : causeOf s op.slot op.trial.gen = some .retired) :
    acceptFrame op s = finish .ok (unprotectBody op) (graceAccept op.slot op.trial.gen s) := if_pos h

theorem acceptFrame_writeBack (h : causeOf s op.slot op.trial.gen = none) (mode : (slotOf s op.slot).mode = .writeBack) :
    acceptFrame op s =
      finish .ok (unprotectBody op) (graceAccept op.slot op.trial.gen (highRaised op true s)) := by
  simp [acceptFrame, h, mode, highRaised]

theorem acceptFrame_writeThrough (h : causeOf s op.slot op.trial.gen = none)
    (mode : (slotOf s op.slot).mode = .writeThrough) :
    acceptFrame op s = graceAccept op.slot op.trial.gen (requestThrough op (highRaised op false s)) := by
  simp [acceptFrame, h, mode, highRaised]

/-- The answer to a command leaves the high-water and the dirty flag of an entry without a cause (R83). -/
theorem findEntry_finish_high {k : Code} {b : List Byte} (he : findEntry s i g = some e) (uncaused : e.withhold = none) :
    (findEntry (finish k b s) i g).map (·.h) = some e.h ∧ (findEntry (finish k b s) i g).map (·.dirty) = some e.dirty := by
  obtain ⟨y, found, rfl | rfl⟩ := findEntry_finish (k := k) (b := b) he uncaused <;> rw [found]
  · exact ⟨rfl, rfl⟩
  · unfold unpinned
    dsimp only
    split <;> exact ⟨rfl, rfl⟩

/-- An acceptance on a WRITE_BACK slot is answered, the entry dirty with the counter as its high-water (R86, R109). -/
theorem acceptFrame_answers (he : findEntry s op.slot op.trial.gen = some e) (uncaused : e.withhold = none)
    (mode : (slotOf s op.slot).mode = .writeBack) : ∃ u, acceptFrame op s = finish .ok (unprotectBody op) u ∧
      u.port = s.port ∧ (findEntry (acceptFrame op s) op.slot op.trial.gen).map (·.h) = some op.counter ∧
      (findEntry (acceptFrame op s) op.slot op.trial.gen).map (·.dirty) = some true := by
  have cause : causeOf s op.slot op.trial.gen = none := (causeOf_of_findEntry he).trans uncaused
  have entry := findEntry_highRaised he true
  rw [← findEntry_congr (congrArg (·.entries) (graceAccept_cache op.slot op.trial.gen _).1)] at entry
  obtain ⟨high, dirty⟩ := findEntry_finish_high (k := .ok) (b := unprotectBody op) entry uncaused
  rw [← acceptFrame_writeBack cause mode] at high dirty
  exact ⟨_, acceptFrame_writeBack cause mode, graceAccept_port .., high, dirty.trans (congrArg some (Bool.or_true _))⟩

/-- On a WRITE_THROUGH slot it is not answered yet: the command waits on a HIGHWATER of at least the counter, the entry clean, or for
room (R86, R111). -/
theorem acceptFrame_waits (he : findEntry s op.slot op.trial.gen = some e) (uncaused : e.withhold = none)
    (mode : (slotOf s op.slot).mode = .writeThrough) (device : s.device ≠ .faulted) :
    let t := acceptFrame op s
    t.port.retained = s.port.retained ∧ (findEntry t op.slot op.trial.gen).map (·.h) = some op.counter ∧
      (s.writer.queue.length < 8 ∨ (∃ q ∈ s.writer.queue, isHighFor op.slot op.cell q = true) →
        t.port.exec = .unprotect { op with stage := .high } ∧
        (findEntry t op.slot op.trial.gen).map (·.dirty) = some false ∧
        ∃ q ∈ t.writer.queue, q.port = true ∧ ∃ g v, q.job = .highWater op.slot op.cell g v ∧ op.counter ≤ v) ∧
      (8 ≤ s.writer.queue.length → (∀ q ∈ s.writer.queue, isHighFor op.slot op.cell q = false) →
        t.port.exec = .unprotect { op with stage := .room }) := by
  have cause : causeOf s op.slot op.trial.gen = none := (causeOf_of_findEntry he).trans uncaused
  have entry := findEntry_highRaised he false
  dsimp only
  rw [acceptFrame_writeThrough cause mode]
  obtain ⟨cache, queue⟩ := graceAccept_cache op.slot op.trial.gen (requestThrough op (highRaised op false s))
  obtain ⟨high, retained⟩ := requestThrough_keeps entry
  rw [graceAccept_port, findEntry_congr (congrArg (·.entries) cache)]
  refine ⟨retained, high, fun room => ?_, fun full alone => ?_⟩
  · obtain ⟨exec, clean, q, hq, waited⟩ := requestThrough_waits entry device room
    exact ⟨exec, by rw [clean]; rfl, q, queue q hq, waited⟩
  · rw [requestThrough_full (s := highRaised op false s) full alone]
    rfl

/-! ### The end of the job (R108, R109) -/

theorem unprotectEnd_caused {w : Withhold} {k : Option (List Byte)} (h : causeOf s op.slot op.trial.gen = some w)
    (other : w ≠ .retired) : unprotectEnd op k s = finish (causeCode w) [] s := by
  cases w with
  | retired => contradiction
  | erased | suspended | quarantined => simp only [unprotectEnd, h, causeCode]

section Uncaused

variable (h : causeOf s op.slot op.trial.gen = none ∨ causeOf s op.slot op.trial.gen = some .retired)
include h

theorem unprotectEnd_accepts : unprotectEnd op (some plain) s = acceptFrame { op with plain := plain } s := by
  rcases h with h | h <;> simp only [unprotectEnd, h]

/-- A fail goes on to the rest of the list (R108). -/
theorem unprotectEnd_fails {l : List Trial} (rest : op.rest = l) :
    unprotectEnd op none s = runTrials { op with tagFail := true } l s := by
  subst rest
  rcases h with h | h <;> simp only [unprotectEnd, h]

end Uncaused

/-- To have a trial's entry in hand leaves the command, the slots and the array. -/
theorem trialTaken_keeps (e : Entry) (s : State) : (trialTaken e s).port = s.port ∧ (trialTaken e s).slots = s.slots ∧
    (trialTaken e s).array = s.array := ⟨rfl, rfl, rfl⟩

/-- A fail whose generation is the last of the list, or leads to stale ones alone, is answered TAG_MISMATCH (R110). -/
theorem noAcceptance_tagFail (h : op.tagFail = true) : noAcceptance op = .tagMismatch := if_pos h

/-- The frame unprotect job of the command in flight is in progress, under this entry (R108). -/
structure Unprotecting (who : Requester) (key nonce header cipher tag : List Byte) (orphan : Bool) (op : UnprotectOp)
    (e : Entry) (s : State) : Prop where
  runs : running s = true
  job : s.engine.job = some ⟨who, .frameUnprotect key nonce header cipher tag, orphan⟩
  command : s.port.exec = .unprotect op
  stage : op.stage = .frame
  entry : findEntry s op.slot op.trial.gen = some e

section Ends

variable {who : Requester} {key nonce header cipher tag : List Byte} {orphan : Bool} {k : Option (List Byte)}
  (h : Unprotecting who key nonce header cipher tag orphan op e s)
include h

theorem Unprotecting.cause : causeOf (engineFree s) op.slot op.trial.gen = e.withhold :=
  causeOf_of_findEntry (s := engineFree s) h.entry

theorem Unprotecting.ends (opens : Config.frames.recover key nonce header cipher tag = k)
    (run : unprotectEnd op k (engineFree s) = t) : exec (.frameUnprotectEnd k.isSome) s = .next (portSettle t) := by
  have freed : (engineFree s).port.exec = .unprotect op := h.command
  rw [exec_frameUnprotectEnd h.runs h.job opens]
  simp only [endFrameUnprotect, freed, h.stage, if_true, run]
  rfl

/-- An end that answers the command. -/
theorem Unprotecting.answers {code : Code} {b : List Byte} (opens : Config.frames.recover key nonce header cipher tag = k)
    (run : unprotectEnd op k (engineFree s) = finish code b t) :
    exec (.frameUnprotectEnd k.isSome) s = .next (finish code b t) :=
  (h.ends opens run).trans (congrArg _ (portSettle_of_not_stuck rfl))

section Fails

variable (closed : Config.frames.recover key nonce header cipher tag = none)
  (free : e.withhold = none ∨ e.withhold = some .retired)

include free in
theorem Unprotecting.fails {l : List Trial} (list : op.rest = l) :
    unprotectEnd op none (engineFree s) = runTrials { op with tagFail := true } l (engineFree s) :=
  unprotectEnd_fails (h.cause ▸ free) list

variable {trial : Trial} {next : Entry} (only : op.rest = [trial])
  (ready : Tryable (releasePins .port (engineFree s)) op.slot trial.gen c next)
include closed free only ready

/-- After a fail the job of the last generation of the list is asked for, under its READY entry (R108). -/
theorem Unprotecting.asksNext (above : next.h < op.counter) : ∃ t, exec (.frameUnprotectEnd false) s = .next t ∧
    t.port.exec = .unprotect { op with tagFail := true, cell := c, trial := trial, rest := [] } ∧
    (let job : EngineJob := .frameUnprotect next.key (be64 op.party ++ be32 op.counter) op.header op.cipher op.tag
     t.engine.job = some ⟨.port, job, false⟩ ∨ t.engine.portLine = some job) ∧
    t.slots = s.slots ∧ t.array = s.array := by
  have asks := (h.fails free only).trans (runTrials_above (op := { op with tagFail := true }) (trial := trial) ready above)
  have step := h.ends closed asks
  rw [portSettle_placeUnprotect] at step
  obtain ⟨exec, engine, -, slots, stored⟩ :=
    placeUnprotect_asks (onTrial { op with tagFail := true } c trial []) next.key (trialTaken next (engineFree s))
  refine ⟨_, step, exec.trans ?_, engine, slots, stored⟩
  rw [onTrial, ← h.stage]

/-- After a fail a stale last generation leaves TAG_MISMATCH (R110). -/
theorem Unprotecting.skipsNext (low : op.counter ≤ next.h) : ∃ t, exec (.frameUnprotectEnd false) s = .next t ∧
    t.port.exec = .free ∧ t.port.retained = some ⟨.tagMismatch, s.port.overrun, []⟩ ∧ t.slots = s.slots ∧
    t.array = s.array := by
  have skips := (h.fails free only).trans (runTrials_stale (op := { op with tagFail := true }) (trial := trial) ready low)
  rw [runTrials_nil, noAcceptance_tagFail rfl] at skips
  obtain ⟨port, slots, stored⟩ := trialTaken_keeps next (engineFree s)
  exact ⟨_, h.answers closed skips, rfl, by rw [finish_retained, port]; rfl, slots, stored⟩

end Fails

end Ends

/-- Settles O41: the cause first, then a pass by the counter mode of its slot, and a fail by what is left of the list. -/
theorem frameUnprotectEndRaisesTheHighWater : Obligations.FrameUnprotectEndRaisesTheHighWater := by
  intro who key nonce header cipher tag orphan op e s runs job command stage entry opened answer
  have h : Unprotecting who key nonce header cipher tag orphan op e s := ⟨runs, job, command, stage, entry⟩
  have array {k : Option (List Byte)} {t : State} (run : unprotectEnd op k (engineFree s) = t) : t.array = s.array :=
    run ▸ (kept_unprotectEnd (kept_engineFree (kept_refl s))).array
  refine ⟨fun pass other => (exec_end_other job other).2.1, fun plain opens => ?_, fun closed free => ?_,
    fun w caused other => ?_⟩
  · have protects := (Config.frames.recover_iff ..).1 opens
    have length := Config.frames.cipher_length key nonce header plain
    rw [protects] at length
    have accepts (free : e.withhold = none ∨ e.withhold = some .retired) :
        unprotectEnd op (some plain) (engineFree s) = acceptFrame { op with plain := plain } (engineFree s) :=
      unprotectEnd_accepts (h.cause ▸ free)
    refine ⟨protects, length.symm, fun uncaused mode => ?_, fun uncaused mode device => ?_, fun retired => ?_⟩
    · have run := accepts (.inl uncaused)
      obtain ⟨u, answered, port, high, dirty⟩ :=
        acceptFrame_answers (op := { op with plain := plain }) (s := engineFree s) entry uncaused mode
      have beside : Beside s (unprotectEnd op (some plain) (engineFree s)) :=
        beside_unprotectEnd (beside_engineFree (beside_refl s))
      rw [answered] at run high dirty
      rw [run] at beside
      exact ⟨_, h.answers opens run, rfl, congrArg (fun p : Port => some (Response.mk .ok p.overrun (answer plain))) port,
        high, dirty, array run, beside.slots⟩
    · have run := accepts (.inl uncaused)
      have faultless : (acceptFrame { op with plain := plain } (engineFree s)).device ≠ .faulted := by
        rw [(beside_acceptFrame (beside_engineFree (beside_refl s))).device]
        exact device
      have step := h.ends opens run
      rw [portSettle_of_not_faulted faultless] at step
      obtain ⟨retained, high, waits, full⟩ :=
        acceptFrame_waits (op := { op with plain := plain }) (s := engineFree s) entry uncaused mode device
      exact ⟨_, step, retained, high, array run, waits, full⟩
    · have run := (accepts (.inr retired)).trans
        (acceptFrame_retired (op := { op with plain := plain }) (h.cause.trans retired))
      exact ⟨_, h.answers opens run, rfl, congrArg (fun p : Port => some (Response.mk .ok p.overrun (answer plain)))
        (graceAccept_port ..), array run⟩
  · refine ⟨fun last => ?_, fun trial c next only cell sound unbarred found ready uncaused unpinned => ?_⟩
    · have run := h.fails free last
      rw [runTrials_nil, noAcceptance_tagFail rfl] at run
      exact ⟨_, h.answers closed run, rfl, rfl, rfl, rfl, fun uncaused =>
        (findEntry_finish_high (s := engineFree s) entry uncaused).1⟩
    · have tryable : Tryable (engineFree s) op.slot trial.gen c next := ⟨cell, sound, unbarred, found, ready, uncaused⟩
      have first := tryable.released unpinned
      exact ⟨h.asksNext closed free only first, h.skipsNext closed free only first⟩
  · have run : unprotectEnd op opened (engineFree s) = finish (causeCode w) [] (engineFree s) :=
      unprotectEnd_caused (h.cause.trans caused) other
    exact ⟨_, h.answers rfl run, rfl, rfl, rfl, rfl⟩

end Sys2Proof.Machine
end

section
/-! PROOFS. The RENEW commands on an intake context: which context a request names, OPEN, PART, CLOSE and RESULT (R115 to R120, R123,
R127, R131, R132, R197). -/

namespace Sys2Proof.Machine

variable {s : State} {body data : List Byte} {i : Fin 2} {c : Cmd} {code : Code} {seq total : Nat}
  {run : List Byte → Fin 2 → State → State}

/-! ### The context a request names (R115, R197) -/

theorem stateRefusal_of_serves (serves : s.device = .serving ∨ s.device = .holding .command) :
    stateRefusal s.device = none := by
  rcases serves with device | device <;> rw [device] <;> rfl

theorem stateRefusal_of_refuses (refuses : s.device = .loading ∧ code = .notLoaded ∨
    s.device = .holding .power ∧ code = .powerFailing ∨ s.device = .faulted ∧ code = .faulted) :
    stateRefusal s.device = some code := by
  rcases refuses with ⟨device, rfl⟩ | ⟨device, rfl⟩ | ⟨device, rfl⟩ <;> rw [device] <;> rfl

/-- A request handed over runs its command on the context that its body names. -/
theorem onHanded_runsContext (handed : Handed c body s) (serves : s.device = .serving ∨ s.device = .holding .command)
    (names : fieldNat body 0 1 = i.val) : onHanded c (fun b => onContext b (run b)) s = .next (run body i s) := by
  rw [onHanded_of_handed handed]
  simp only [onContext, stateRefusal_of_serves serves, names, i.isLt, dite_true]

theorem onHanded_badContext (serves : s.device = .serving ∨ s.device = .holding .command) (bad : 2 ≤ fieldNat body 0 1)
    (handed : Handed c body s) : onHanded c (fun b => onContext b (run b)) s = .next (respond .badValue [] s) := by
  rw [onHanded_of_handed handed]
  simp only [onContext, stateRefusal_of_serves serves, Nat.not_lt.2 bad, dite_false]

/-- The device state answers before the number of the context is looked at (log entry 2). -/
theorem onHanded_stateAnswers (refused : stateRefusal s.device = some code) (handed : Handed c body s) :
    onHanded c (fun b => onContext b (run b)) s = .next (respond code [] s) := by
  rw [onHanded_of_handed handed]
  simp only [onContext, refused]

/-! ### OPEN (R116) -/

theorem renewOpen_busy (busy : (ctxOf s i).state ≠ .idle) : renewOpen total i s = report .contextBusy i s :=
  if_pos (bne_iff_ne.2 busy)

theorem renewOpen_opens (idle : (ctxOf s i).state = .idle) (least : 48 ≤ total) (most : total ≤ 512) :
    renewOpen total i s = report .ok i (setCtx s i (openedCtx total)) := by
  simp [renewOpen, idle, Nat.not_lt.2 least, Nat.not_lt.2 most]

theorem renewOpen_badLength (idle : (ctxOf s i).state = .idle) (length : total < 48 ∨ 512 < total) :
    renewOpen total i s = report .badValue i s := by
  simp [renewOpen, idle, length]

/-- Settles O20: the state and length of the context, the number of the context, and the device state. -/
theorem renewOpenOpensAnIdleContext : Obligations.RenewOpenOpensAnIdleContext := by
  intro body s
  refine ⟨fun serves => ⟨fun i handed names => ?_, fun bad => ?_⟩, fun code refuses => ?_⟩
  · have runs {t : State} (h : renewOpen (fieldNat body 1 2) i s = t) : exec .renewOpen s = .next t :=
      h ▸ onHanded_runsContext handed serves names
    exact ⟨fun idle least most => runs (renewOpen_opens idle least most),
      fun idle length => runs (renewOpen_badLength idle length), fun busy => runs (renewOpen_busy busy)⟩
  · exact ⟨onHanded_badContext serves bad, onHanded_badContext serves bad, onHanded_badContext serves bad,
      onHanded_badContext serves bad, onHanded_badContext serves bad⟩
  · have refused := stateRefusal_of_refuses refuses
    exact ⟨onHanded_stateAnswers refused, onHanded_stateAnswers refused, onHanded_stateAnswers refused,
      onHanded_stateAnswers refused, onHanded_stateAnswers refused⟩

/-! ### PART (R117 to R120) -/

theorem renewPart_notGathering (other : (ctxOf s i).state ≠ .gathering) :
    renewPart seq data i s = report .contextNotGathering i s := if_pos (bne_iff_ne.2 other)

theorem renewPart_appends (gathers : (ctxOf s i).state = .gathering) (next : seq = (ctxOf s i).nextSeq)
    (left : 0 < remaining (ctxOf s i)) (length : data.length = min 64 (remaining (ctxOf s i))) :
    renewPart seq data i s = report .ok i (setCtx s i (appendPart data (ctxOf s i))) := by
  simp [renewPart, gathers, next, left, length]

/-- A part where no byte is left, or of another length than the rest allows, fails the context (R118). -/
theorem renewPart_fails (gathers : (ctxOf s i).state = .gathering) (next : seq = (ctxOf s i).nextSeq)
    (wrong : remaining (ctxOf s i) = 0 ∨ data.length ≠ min 64 (remaining (ctxOf s i))) :
    renewPart seq data i s = report .contextFailed i (ctxFail i .lengthMismatch s) := by
  have refused : ¬(0 < remaining (ctxOf s i) ∧ data.length = min 64 (remaining (ctxOf s i))) := fun ⟨left, length⟩ =>
    wrong.elim left.ne' fun other => other length
  simp [renewPart, gathers, next, refused]

theorem renewPart_duplicate (gathers : (ctxOf s i).state = .gathering) (last : seq + 1 = (ctxOf s i).nextSeq) :
    renewPart seq data i s = report .duplicate i (setCtx s i { ctxOf s i with timer := some 120 }) := by
  simp [renewPart, gathers, ← last]

theorem renewPart_outOfSequence (gathers : (ctxOf s i).state = .gathering) (next : seq ≠ (ctxOf s i).nextSeq)
    (last : seq + 1 ≠ (ctxOf s i).nextSeq) : renewPart seq data i s = report .outOfSequence i s := by
  simp [renewPart, gathers, next, last]

/-- Settles O21: the state of the context, then the sequence number, then the length of the part. -/
theorem renewPartGoesByItsSequence : Obligations.RenewPartGoesByItsSequence := by
  intro body i s handed serves names
  have runs {t : State} (h : renewPart (fieldNat body 1 1) (body.drop 2) i s = t) : exec .renewPart s = .next t :=
    h ▸ onHanded_runsContext handed serves names
  refine ⟨fun other => runs (renewPart_notGathering other), fun gathers next => ?_, fun gathers => ?_⟩
  · exact ⟨fun left length => runs (renewPart_appends gathers next left length),
      fun wrong => runs (renewPart_fails gathers next wrong)⟩
  · exact ⟨fun last => runs (renewPart_duplicate gathers last),
      fun next last => runs (renewPart_outOfSequence gathers next last)⟩

/-! ### CLOSE (R123) -/

theorem renewClose_notGathering (other : (ctxOf s i).state ≠ .gathering) :
    renewClose i s = report .contextNotGathering i s := if_pos (bne_iff_ne.2 other)

/-- A context with every byte becomes CLOSED and joins the tail of the verification queue (R123, R124). -/
theorem renewClose_closes (gathers : (ctxOf s i).state = .gathering)
    (complete : (ctxOf s i).total ≤ (ctxOf s i).buffer.length) :
    renewClose i s = report .ok i { setCtx s i { ctxOf s i with state := .closed, timer := none } with
      renewal := { (setCtx s i { ctxOf s i with state := .closed, timer := none }).renewal with
        queue := s.renewal.queue ++ [i] } } := by
  have none_left : remaining (ctxOf s i) = 0 := Nat.sub_eq_zero_of_le complete
  simp [renewClose, gathers, none_left]

theorem renewClose_fails (gathers : (ctxOf s i).state = .gathering)
    (missing : (ctxOf s i).buffer.length < (ctxOf s i).total) :
    renewClose i s = report .contextFailed i (ctxFail i .lengthMismatch s) := by
  have left : remaining (ctxOf s i) ≠ 0 := Nat.sub_ne_zero_of_lt missing
  simp [renewClose, gathers, left]

/-- Settles O22: the state of the context, then its bytes. -/
theorem renewCloseJudgesTheCount : Obligations.RenewCloseJudgesTheCount := by
  intro body i s handed serves names
  have runs {t : State} (h : renewClose i s = t) : exec .renewClose s = .next t :=
    h ▸ onHanded_runsContext (run := fun _ => renewClose) handed serves names
  exact ⟨fun other => runs (renewClose_notGathering other),
    fun gathers complete => runs (renewClose_closes gathers complete),
    fun gathers missing => runs (renewClose_fails gathers missing)⟩

/-! ### RESULT (R127) -/

theorem renewResult_collects (ended : (ctxOf s i).state = .done ∨ (ctxOf s i).state = .failed) :
    renewResult i s = respond .ok (resultBody s i) (ctxIdle i s) := by
  rcases ended with state | state <;> simp only [renewResult, state]

theorem renewResult_idle (idle : (ctxOf s i).state = .idle) : renewResult i s = respond .noResult [] s := by
  simp only [renewResult, idle]

theorem renewResult_progress (runs : (ctxOf s i).state = .gathering ∨ (ctxOf s i).state = .closed ∨
    (ctxOf s i).state = .verifying ∨ (ctxOf s i).state = .storing) :
    renewResult i s = respond .ok (resultBody s i) s := by
  rcases runs with state | state | state | state <;> simp only [renewResult, state]

/-- Settles O23: a finished context, an idle one, and one on its way. -/
theorem renewResultCollectsTheRecord : Obligations.RenewResultCollectsTheRecord := by
  intro body i s handed serves names
  have runs {t : State} (h : renewResult i s = t) : exec .renewResult s = .next t :=
    h ▸ onHanded_runsContext (run := fun _ => renewResult) handed serves names
  exact ⟨fun ended => runs (renewResult_collects ended), fun idle => runs (renewResult_idle idle),
    fun going => runs (renewResult_progress going)⟩

end Sys2Proof.Machine
end

section
/-! PROOFS. RENEW DROP by the state of its context, and the end of a verification that it drops (R128, R129). -/

namespace Sys2Proof.Machine

variable {s : State} {i : Fin 2} {v : Verif}

/-! ### The end of a verification leaves the Store Writer's queue -/

theorem withdrawFill_queue (slot : Fin 32) (c : CellId) (gen : Nat) (s : State) :
    (withdrawFill slot c gen s).writer.queue = s.writer.queue := by
  unfold withdrawFill
  split
  · rfl
  · split <;> rfl

theorem withdrawRenewal_queue (s : State) : (withdrawRenewal s).writer.queue = s.writer.queue := by
  unfold withdrawRenewal
  split
  · rfl
  · exact withdrawFill_queue ..
  · rfl

theorem orphanRenewal_queue (s : State) : (orphanRenewal s).writer.queue = s.writer.queue := by
  unfold orphanRenewal
  split <;> rfl

theorem verifReleased_queue (s : State) : (verifReleased s).writer.queue = s.writer.queue :=
  (orphanRenewal_queue (withdrawRenewal s)).trans (withdrawRenewal_queue s)

/-! ### DROP of a context under verification (R129) -/

/-- The context marked as drop-pending (R129). -/
def markDrop (i : Fin 2) (s : State) : State := setCtx s i { ctxOf s i with dropPending := true }

theorem dropVerifying_eq (i : Fin 2) (s : State) :
    dropVerifying i s = if workInHand s then markDrop i s else dropVerif (markDrop i s) := rfl

/-- Work in hand keeps the verification, and the context is drop-pending (R129). -/
theorem dropVerifying_waits (work : workInHand s = true) : dropVerifying i s = markDrop i s := by
  rw [dropVerifying_eq, if_pos work]

/-- With no work in hand the verification ends at once and its context is IDLE (R129). -/
theorem dropVerifying_ends (verif : s.renewal.verif = some v) (own : v.ctx = i) (free : workInHand s = false) :
    dropVerifying i s = ctxIdle i (endVerif (markDrop i s)) := by
  have marked : (markDrop i s).renewal.verif = some v := verif
  rw [dropVerifying_eq, free, if_neg Bool.false_ne_true, dropVerif_eq marked, own]

/-- A verification that ends without record or notice leaves the port, the Notice Set and the queue (R129). -/
theorem ctxIdle_endVerif_keeps (i : Fin 2) (s : State) :
    (ctxIdle i (endVerif s)).port = s.port ∧ (ctxIdle i (endVerif s)).notices = s.notices ∧
      (ctxIdle i (endVerif s)).writer.queue = s.writer.queue :=
  ⟨verifReleased_port s, (calm_verifReleased s).notices, verifReleased_queue s⟩

/-! ### DROP by the state of its context (R128) -/

theorem renewDrop_idle (idle : (ctxOf s i).state = .idle) : renewDrop i s = respond .ok [] s := by
  simp only [renewDrop, idle]

theorem renewDrop_clears
    (state : (ctxOf s i).state = .gathering ∨ (ctxOf s i).state = .done ∨ (ctxOf s i).state = .failed) :
    renewDrop i s = respond .ok [] (ctxIdle i s) := by
  rcases state with state | state | state <;> simp only [renewDrop, state]

theorem renewDrop_closed (closed : (ctxOf s i).state = .closed) :
    renewDrop i s = respond .ok [] (ctxIdle i (leaveQueue i s)) := by
  simp only [renewDrop, closed]

theorem renewDrop_storing (stores : (ctxOf s i).state = .storing) : renewDrop i s = respond .storeInProgress [] s := by
  simp only [renewDrop, stores]

theorem renewDrop_verifying (verifies : (ctxOf s i).state = .verifying) :
    renewDrop i s = respond .ok [] (dropVerifying i s) := by
  simp only [renewDrop, verifies]

/-- Settles O24: the state of the context, and for one under verification the work in hand. -/
theorem renewDropGoesByTheState : Obligations.RenewDropGoesByTheState := by
  intro body i s handed serves names
  have runs {t : State} (h : renewDrop i s = t) : exec .renewDrop s = .next t :=
    h ▸ onHanded_runsContext (run := fun _ => renewDrop) handed serves names
  refine ⟨fun idle => runs (renewDrop_idle idle), fun state => runs (renewDrop_clears state), fun closed => ?_,
    fun stores => runs (renewDrop_storing stores), fun v verifies verif own => ⟨fun work => ?_, fun free => ?_⟩⟩
  · exact ⟨_, runs (renewDrop_closed closed), ctxOf_setCtx, rfl, rfl, rfl⟩
  · exact runs ((renewDrop_verifying verifies).trans (congrArg (respond .ok []) (dropVerifying_waits work)))
  · obtain ⟨port, notices, queue⟩ := ctxIdle_endVerif_keeps i (markDrop i s)
    have ends := congrArg (respond .ok []) (dropVerifying_ends verif own free)
    exact ⟨_, runs ((renewDrop_verifying verifies).trans ends), ctxOf_setCtx, rfl, respond_port_congr port, notices, queue⟩

end Sys2Proof.Machine
end

section
/-! PROOFS. The inactivity timers: a second of the internal timebase, and the expiry (R121, R122, R125, R126). -/

namespace Sys2Proof.Machine

variable {s : State} {i : Fin 2}

/-! ### A second passes (R121; log entry 4) -/

theorem step_idle (idle : s.pending = []) : step s = .next (tick s) := by simp only [step, idle]

theorem tick_runs (runs : running s = true) :
    tick s = setCtx (setCtx s 0 (tickCtx (ctxOf s 0))) 1 (tickCtx (ctxOf s 1)) := if_pos runs

theorem tick_stopped (stopped : running s = false) : tick s = s := if_neg (by simp [stopped])

/-- A second reaches the timers of both contexts. -/
theorem ctxOf_tick (runs : running s = true) (i : Fin 2) : ctxOf (tick s) i = tickCtx (ctxOf s i) := by
  rw [tick_runs runs]
  obtain rfl | rfl : i = 0 ∨ i = 1 := by omega
  · rw [ctxOf_setCtx_other Fin.zero_ne_one, ctxOf_setCtx]
  · exact ctxOf_setCtx

/-- A second leaves everything but the contexts. -/
theorem tick_frame (runs : running s = true) :
    tick s = { s with renewal := { s.renewal with ctxs := (tick s).renewal.ctxs } } := by
  rw [tick_runs runs]
  rfl

/-- Settles O2: the timers count where the part runs, and nothing changes where it does not. -/
theorem idleStepCountsTheIntakeTimers : Obligations.IdleStepCountsTheIntakeTimers := by
  intro s idle
  rw [step_idle idle]
  exact ⟨fun runs => ⟨tick s, rfl, ctxOf_tick runs, tick_frame runs⟩, fun stopped => by rw [tick_stopped stopped]⟩

/-! ### The expiry (R122) -/

theorem timedOut_iff (x : Ctx) : timedOut x = true ↔ x.state = .gathering ∧ x.timer = some 0 := by
  simp [timedOut]

theorem exec_intakeTimerExpiry_expired (runs : running s = true) (expired : timedOut (ctxOf s i) = true) :
    exec (.intakeTimerExpiry i) s = .next (ctxFail i .timedOut s) := if_pos (by rw [runs, expired]; rfl)

theorem exec_intakeTimerExpiry_other (other : ¬timedOut (ctxOf s i) = true) :
    exec (.intakeTimerExpiry i) s = .next s := if_neg (by simp [other])

/-- Settles O25: the expiry fails a context exactly where its timer has run out while it gathers. -/
theorem timerExpiryFailsAGatheringContext : Obligations.TimerExpiryFailsAGatheringContext := by
  intro i s runs
  refine ⟨fun gathers zero => ?_, fun other => ?_⟩
  · exact exec_intakeTimerExpiry_expired runs ((timedOut_iff _).2 ⟨gathers, zero⟩)
  · refine exec_intakeTimerExpiry_other fun expired => ?_
    obtain ⟨gathers, zero⟩ := (timedOut_iff _).1 expired
    exact other.elim (fun state => state gathers) fun timer => timer zero

end Sys2Proof.Machine
end

section
/-! PROOFS. An ACTIVATE of the staged generation asks for its token check (R155, R156, R209). -/

namespace Sys2Proof.Machine

variable {s : State} {body : List Byte} {q : ActivateReq} {slot : Fin 32} {c : CellId} {x : CellImg} {e : Entry}

/-- An ACTIVATE request, the staged generation that it names and the READY VERIFY_ONLY entry of that: form, lookup, slot and cache pass
(R155, R156). -/
structure StagedInHand (body : List Byte) (q : ActivateReq) (slot : Fin 32) (c : CellId) (x : CellImg) (e : Entry) (s : State) :
    Prop where
  handed : Handed .activate body s
  device : s.device ≠ .faulted
  form : parseActivate body = .ok q
  found : lookup s q.party q.role = .ok slot
  sound : (slotOf s slot).quarantined = false
  awake : (slotOf s slot).suspended = false
  staged : genWith (slotOf s slot) .staged = some (c, x)
  named : x.params.generation = q.gen
  unbarred : s.cache.bars[slot] = none
  entry : findEntry s slot q.gen = some e
  ready : e.filling = false
  uncaused : e.withhold = none
  role : e.role = some .verifyOnly

/-- The ACTIVATE as its token check is asked for. -/
def tokenAwaited (q : ActivateReq) (slot : Fin 32) (c : CellId) : ActivateOp := ⟨slot, c, q.gen, q.token, .token⟩

/-- The state as an ACTIVATE asks for its token check under an entry (R156). -/
def tokenAsked (q : ActivateReq) (slot : Fin 32) (c : CellId) (e : Entry) (s : State) : State :=
  place .port (.token e.key (tokenMessage (systemTitle s) q.gen) q.token)
    (setExec (.activate (tokenAwaited q slot c)) (takeHit .port e s))

/-- Under the READY VERIFY_ONLY entry without a cause the token check is asked for (R156). -/
theorem activateReady_asks {op : ActivateOp} (he : findEntry s op.slot op.gen = some e) (uncaused : e.withhold = none)
    (role : e.role = some .verifyOnly) : activateReady op s =
      place .port (.token e.key (tokenMessage (systemTitle s) op.gen) op.token)
        (setExec (.activate { op with stage := .token }) s) := by
  simp only [activateReady, he, uncaused, role, if_true]

theorem StagedInHand.run (h : StagedInHand body q slot c x e s) : activateBodyRun body s = tokenAsked q slot c e s := by
  let op : ActivateOp := ⟨slot, c, q.gen, q.token, .fill⟩
  have hit := askCache_hit (c := c) h.sound h.unbarred h.entry h.ready h.uncaused .port
  have held : findEntry (setExec (.activate op) (takeHit .port e s)) op.slot op.gen = some (pin .port e) :=
    findEntry_takeHit h.entry
  have asks := activateReady_asks held h.uncaused h.role
  simp only [activateBodyRun, h.form, runActivate, h.found, slotRefusal_none h.sound h.awake, h.staged, h.named, hit, if_true]
  exact asks

theorem StagedInHand.exec (h : StagedInHand body q slot c x e s) :
    exec .activateCommand s = .next (tokenAsked q slot c e s) := by
  change execActivateCommand s = _
  rw [execActivateCommand, onHanded_of_handed h.handed, h.run, portSettle_of_not_faulted]
  rw [tokenAsked, place_device]
  exact h.device

/-- Settles O43: another staged generation or none is refused, and the entry of the named one gives the token check. -/
theorem activateAsksForTheTokenCheck : Obligations.ActivateAsksForTheTokenCheck := by
  intro body q slot s handed device form found sound awake
  refine ⟨fun other => ?_, fun c x e staged named unbarred entry ready uncaused role => ?_⟩
  · have unstaged : genNumber (slotOf s slot) .staged ≠ some q.gen := fun same => by
      obtain ⟨c, x, staged, named⟩ := genNumber_some same
      exact other _ staged named
    refine onHanded_answers handed ?_
    simp only [activateBodyRun, form, runActivate_notStaged found (slotRefusal_none sound awake) unstaged]
  · have h : StagedInHand body q slot c x e s :=
      ⟨handed, device, form, found, sound, awake, staged, named, unbarred, entry, ready, uncaused, role⟩
    exact ⟨_, h.exec, congrArg (·.exec) place_port, place_asks .port _ _, place_slots, place_array, place_writer⟩

end Sys2Proof.Machine
end

section
/-! PROOFS. The receipt makes its context STORING; queueing the jobs of the STORING contexts marks them and changes no list (R149 to
R151). -/

namespace Sys2Proof.Machine

variable {r s t : State}

/-! ### Jobs that join the queue (R151) -/

/-- Of each context the state, the jobs beside their marks, the fields and the success outcome are the same; so are the verification in
hand, the STORING contexts and the slot images. -/
structure OnlyMarked (r s : State) : Prop where
  state : ∀ i, (ctxOf s i).state = (ctxOf r i).state
  jobs : ∀ i, (ctxOf s i).jobs.map (·.1) = (ctxOf r i).jobs.map (·.1)
  fields : ∀ i, (ctxOf s i).fields = (ctxOf r i).fields
  success : ∀ i, (ctxOf s i).success = (ctxOf r i).success
  verif : s.renewal.verif = r.renewal.verif
  storing : s.renewal.storing = r.renewal.storing
  slots : s.slots = r.slots

theorem onlyMarked_refl (s : State) : OnlyMarked s s :=
  ⟨fun _ => rfl, fun _ => rfl, fun _ => rfl, fun _ => rfl, rfl, rfl, rfl⟩

theorem OnlyMarked.trans (h : OnlyMarked r s) (k : OnlyMarked s t) : OnlyMarked r t where
  state i := (k.state i).trans (h.state i)
  jobs i := (k.jobs i).trans (h.jobs i)
  fields i := (k.fields i).trans (h.fields i)
  success i := (k.success i).trans (h.success i)
  verif := k.verif.trans h.verif
  storing := k.storing.trans h.storing
  slots := k.slots.trans h.slots

/-- A context with the first job that is not yet queued marked. -/
def markedCtx (x : Ctx) : Ctx := { x with jobs := queueFirst x.jobs }

/-- The job that joins the queue is the first of some context that is not yet queued (R151). -/
theorem queueStoring_some (e : queueStoring s = some t) :
    ∃ i q, t = setCtx (enqueue q s) i (markedCtx (ctxOf s i)) := by
  unfold queueStoring at e
  repeat' split at e
  all_goals cases e
  exact ⟨_, _, rfl⟩

theorem onlyMarked_queueStoring (e : queueStoring s = some t) : OnlyMarked s t := by
  obtain ⟨i, q, rfl⟩ := queueStoring_some e
  have own : ctxOf (setCtx (enqueue q s) i (markedCtx (ctxOf s i))) i = markedCtx (ctxOf s i) := ctxOf_setCtx
  have read {α : Type} (f : Ctx → α) (same : f (markedCtx (ctxOf s i)) = f (ctxOf s i)) (j : Fin 2) :
      f (ctxOf (setCtx (enqueue q s) i (markedCtx (ctxOf s i))) j) = f (ctxOf s j) := by
    by_cases h : j = i
    · rw [h, own, same]
    · rw [ctxOf_setCtx_other h]
      rfl
  exact ⟨read (·.state) rfl, read (fun x => x.jobs.map (·.1)) (queueFirst_jobs _), read (·.fields) rfl,
    read (·.success) rfl, rfl, rfl, rfl⟩

theorem onlyMarked_queueAllStoring (n : Nat) (s : State) : OnlyMarked s (queueAllStoring n s) := by
  induction n generalizing s with
  | zero => exact onlyMarked_refl s
  | succ n ih =>
    unfold queueAllStoring
    split
    · split
      · exact onlyMarked_refl s
      · exact (onlyMarked_queueStoring ‹_›).trans (ih _)
    · exact onlyMarked_refl s

/-! ### The receipt (R149, R150) -/

variable {v : Verif} {receipt : List Byte}

/-- The jobs of a verification: BUNDLE_FLOOR before its plan (R150). -/
def storingJobs (v : Verif) : List StoreJob :=
  .bundleFloor v.signerIndex v.bundle.signer v.signerClass v.bundle.sequence :: v.plan

/-- A context as it becomes STORING with its receipt and its jobs (R150). -/
def storingCtx (v : Verif) (receipt : List Byte) (x : Ctx) : Ctx :=
  { x with
    state := .storing
    dropPending := false
    fields := { x.fields with receipt := some receipt }
    jobs := (storingJobs v).map fun j => (j, .notQueued)
    success := successOf v.bundle.body }

/-- The state as a context has become STORING, before its jobs join the queue. -/
def storingBegun (v : Verif) (receipt : List Byte) (s : State) : State :=
  let u := setCtx (endVerif s) v.ctx (storingCtx v receipt (ctxOf (endVerif s) v.ctx))
  { u with renewal := { u.renewal with storing := u.renewal.storing ++ [v.ctx] } }

theorem becomeStoring_eq (v : Verif) (receipt : List Byte) (s : State) :
    becomeStoring v receipt s = queueAllStoring 8 (storingBegun v receipt s) := rfl

theorem ctxOf_storingBegun : ctxOf (storingBegun v receipt s) v.ctx = storingCtx v receipt (ctxOf s v.ctx) := by
  have own : ctxOf (storingBegun v receipt s) v.ctx = storingCtx v receipt (ctxOf (endVerif s) v.ctx) :=
    ctxOf_setCtx (s := endVerif s)
  rw [own, ctxOf_endVerif]

theorem JobAwaited.receiptEnd {who : Requester} {key message : List Byte} (h : JobAwaited v .receipt s)
    (job : s.engine.job = some ⟨who, .receipt key message, false⟩) :
    exec .receiptEnd s = .next (becomeStoring v (cmac key message) (engineFree s)) := by
  rw [exec_receiptEnd h.runs job, h.goes, settled, portSettle_of_not_faulted]
  rw [(beside_becomeStoring (beside_refl (engineFree s))).device]
  exact h.device

/-- Settles O51: the context is STORING with its jobs, and what queues them marks them only. -/
theorem receiptEndMakesTheContextStoring : Obligations.ReceiptEndMakesTheContextStoring := by
  intro who key message v s runs device job verif stage kept
  have awaited : JobAwaited v .receipt s := ⟨runs, device, verif, stage, kept⟩
  let begun := storingBegun v (cmac key message) (engineFree s)
  have marked : OnlyMarked begun (becomeStoring v (cmac key message) (engineFree s)) := onlyMarked_queueAllStoring 8 begun
  have ctx : ctxOf begun v.ctx = storingCtx v (cmac key message) (ctxOf (engineFree s) v.ctx) := ctxOf_storingBegun
  have array := (kept_becomeStoring (r := engineFree s) (receipt := cmac key message) (fun laws => laws.plans.verif v verif)
    (kept_refl _)).array
  refine ⟨_, awaited.receiptEnd job, ?_, ?_, ?_, cmac_length .., ?_, marked.verif, ?_, array,
    marked.slots.trans (aside_endVerif (engineFree s)).slots⟩
  · rw [marked.state, ctx]
    rfl
  · rw [marked.jobs, ctx]
    simp [storingCtx, storingJobs, Function.comp_def]
  · rw [marked.fields, ctx]
    rfl
  · rw [marked.success, ctx]
    rfl
  · rw [marked.storing]
    exact List.mem_append_right _ (.head _)

end Sys2Proof.Machine
end

section
/-! PROOFS. The Renewal Engine takes the head of the verification queue: the checks of R139 to R142 in their order, then the AUTHORITY
entry of the signer (R79 to R85, R137). -/

namespace Sys2Proof.Machine

variable {s t u : State} {i : Fin 2} {b : Bundle} {v : Verif} {index : Fin 8} {slot : Fin 32} {c : CellId} {gen : Nat} {e : Entry}

/-! ### The cache's answers (R79, R80, R85) -/

/-- The entry of a fill in progress is pinned (R80). -/
theorem askCache_filling (hq : (slotOf s slot).quarantined = false) (hb : s.cache.bars[slot] = none)
    (he : findEntry s slot gen = some e) (hf : e.filling = true) (r : Requester) (c : CellId) :
    askCache r slot c gen s = (.wait, updEntry slot gen (pin r) s) := by
  simp [askCache, hq, hb, he, hf]

/-- A READY entry with a cause is refused by it (R79). -/
theorem askCache_caused {w : Withhold} (hq : (slotOf s slot).quarantined = false) (hb : s.cache.bars[slot] = none)
    (he : findEntry s slot gen = some e) (hf : e.filling = false) (hw : e.withhold = some w) (r : Requester) (c : CellId) :
    askCache r slot c gen s = (.refused (causeCode w), s) := by
  simp [askCache, hq, hb, he, hf, hw]

theorem findEntry_pinned (he : findEntry s slot gen = some e) (r : Requester) :
    findEntry (updEntry slot gen (pin r) s) slot gen = some (pin r e) := by
  rw [findEntry_updEntry (pin_keys r), he]
  rfl

/-- The waiting fills with a requester joined to those of a slot and generation (R85). -/
def joinedWaits (r : Requester) (slot : Fin 32) (gen : Nat) (ws : List WaitFill) : List WaitFill :=
  ws.map fun w => if isWait slot gen w then joinWait r w else w

/-- A fill that waits for room is joined (R85). -/
theorem askCache_joins (hq : (slotOf s slot).quarantined = false) (hb : s.cache.bars[slot] = none)
    (he : findEntry s slot gen = none) (hw : ∃ w ∈ s.cache.waits, w.slot = slot ∧ w.gen = gen) (r : Requester) (c : CellId) :
    askCache r slot c gen s =
      (.wait, { s with cache := { s.cache with waits := joinedWaits r slot gen s.cache.waits } }) := by
  have asked : s.cache.waits.any (isWait slot gen) = true := by simpa [isWait] using hw
  simp [askCache, hq, hb, he, asked, joinedWaits]

theorem joinedWaits_renewal {ws : List WaitFill} {w : WaitFill} (h : w ∈ joinedWaits .renewal slot gen ws)
    (hs : w.slot = slot) (hg : w.gen = gen) : w.renewal = true := by
  obtain ⟨x, -, rfl⟩ := List.mem_map.1 h
  by_cases own : isWait slot gen x = true
  · rw [if_pos own]
    rfl
  · rw [if_neg own] at hs hg
    exact absurd (by simp [isWait, hs, hg]) own

/-- In a place made for it the FILLING entry stands at the most recent end, and its unwrap is asked for (R80). -/
theorem beginFill_placed (made : makePlace s = some u) (r : Requester) (slot : Fin 32) (c : CellId) (gen : Nat) :
    let t := beginFill r slot c gen s
    (t.engine.job = some ⟨r, .fill slot c gen, false⟩ ∨ lineOf t r = some (.fill slot c gen)) ∧
      t.cache.entries = fillingEntry r slot c gen :: u.cache.entries ∧ t.writer.queue = u.writer.queue := by
  have placed : beginFill r slot c gen s = placeFilling r (fillingEntry r slot c gen) u := by
    simp only [beginFill, made]
  rw [placed]
  exact ⟨place_asks r _ _, congrArg (·.entries) place_cache, congrArg (·.queue) place_writer⟩

/-- Without a place the fill waits for room (R85). -/
theorem beginFill_waits (full : makePlace s = none) (r : Requester) (slot : Fin 32) (c : CellId) (gen : Nat) :
    beginFill r slot c gen s = { s with cache := { s.cache with
      waits := s.cache.waits ++ [⟨slot, c, gen, r == .port, r == .renewal, r⟩] } } := by
  simp only [beginFill, full]

/-- A HIGHWATER of its cell takes the value of another request: it needs no room (R177). -/
theorem requestHigh_coalesces {w : Nat} {port hold : Bool} (h : ∃ j ∈ s.writer.queue, isHighFor slot c j = true) :
    ∃ t, requestHigh slot c gen w port hold s = some t ∧ t.cache = s.cache ∧
      t.writer.queue.length = s.writer.queue.length :=
  ⟨_, if_pos (List.any_eq_true.2 h), rfl, List.length_map _⟩

/-! ### The checks up to the signing generation (R137, R139, R140) -/

/-- The state as the context of a verification has left the queue, its bundle about to be parsed (R137, R139). -/
def takenUp (i : Fin 2) (s : State) : State :=
  setCtx (leaveQueue i s) i { ctxOf s i with state := .verifying, fields := parseFields (ctxOf s i).buffer }

theorem takenUp_queue (i : Fin 2) (s : State) : i ∉ (takenUp i s).renewal.queue := by
  simp [takenUp, setCtx, leaveQueue]

/-- The verification of a bundle whose signer entry and signing generation are known (R140). -/
def verifOf (i : Fin 2) (b : Bundle) (index : Fin 8) (slot : Fin 32) (gen : Nat) (s : State) : Verif where
  ctx := i
  bundle := b
  signerIndex := index
  signerClass := ((assocOf s index).ident.map (·.2)).getD .commissioning
  authSlot := slot
  signGen := gen
  stage := .authEntry
  kek := none
  target := none
  plan := []

theorem beginVerification_malformed (h : parseBundle (ctxOf s i).buffer = none) :
    beginVerification i s = ctxFail i .malformed (takenUp i s) := by
  simp only [beginVerification, h, takenUp]

theorem beginVerification_parsed (h : parseBundle (ctxOf s i).buffer = some b) :
    beginVerification i s = verifySigner i b (takenUp i s) := by
  simp only [beginVerification, h, takenUp]

theorem verifySigner_unknown (h : findParty s b.signer = none) : verifySigner i b s = ctxFail i .signerUnknown s := by
  simp only [verifySigner, h]

section Signer

variable (hi : findParty s b.signer = some index)
include hi

theorem verifySigner_unbound (h : boundSlot s index .authority = none) :
    verifySigner i b s = ctxFail i .signerUnavailable s := by
  simp only [verifySigner, hi, h]

theorem verifySigner_unusable (hs : boundSlot s index .authority = some slot) (h : usableGen s slot = none) :
    verifySigner i b s = ctxFail i .signerUnavailable s := by
  simp only [verifySigner, hi, hs, h]

theorem verifySigner_signed (hs : boundSlot s index .authority = some slot) (h : usableGen s slot = some (c, gen)) :
    verifySigner i b s = verifyFrom (verifOf i b index slot gen s) c s := by
  simp only [verifySigner, hi, hs, h, verifOf]

end Signer

/-! ### Sequence, authority and the AUTHORITY entry (R141, R142) -/

/-- The sequence number is above the bundle floor of the signer and its class is authorised (R68, R141). -/
structure Admitted (v : Verif) (s : State) : Prop where
  fresh : ((assocOf s v.signerIndex).floor).getD 0 < v.bundle.sequence
  allowed : authorised s v.signerClass v.bundle.body = true

theorem verifyFrom_stale (h : v.bundle.sequence ≤ ((assocOf s v.signerIndex).floor).getD 0) :
    verifyFrom v c s = ctxFail v.ctx .staleBundle s := if_pos h

theorem verifyFrom_unauthorised (fresh : ((assocOf s v.signerIndex).floor).getD 0 < v.bundle.sequence)
    (h : authorised s v.signerClass v.bundle.body = false) : verifyFrom v c s = ctxFail v.ctx .notAuthorised s := by
  simp [verifyFrom, Nat.not_le.2 fresh, h]

/-- An admitted verification that the cache refuses the entry fails (R142). -/
theorem Admitted.refused (h : Admitted v s) {k : Code}
    (ask : askCache .renewal v.authSlot c v.signGen (setVerif v s) = (.refused k, u)) :
    verifyFrom v c s = failVerif .signerUnavailable u := by
  simp [verifyFrom, Nat.not_le.2 h.fresh, h.allowed, ask]

theorem Admitted.waits (h : Admitted v s) (ask : askCache .renewal v.authSlot c v.signGen (setVerif v s) = (.wait, u)) :
    verifyFrom v c s = u := by
  simp [verifyFrom, Nat.not_le.2 h.fresh, h.allowed, ask]

theorem Admitted.hits (h : Admitted v s) {x : Entry}
    (ask : askCache .renewal v.authSlot c v.signGen (setVerif v s) = (.hit x, u)) :
    verifyFrom v c s = placeTagCheck v u := by
  simp [verifyFrom, Nat.not_le.2 h.fresh, h.allowed, ask]

/-- Under the READY entry without a cause the tag check is asked for (R142). -/
theorem placeTagCheck_asks (he : findEntry s v.authSlot v.signGen = some e) (uncaused : e.withhold = none) :
    placeTagCheck v s =
      place .renewal (.bundleTag e.key v.bundle.covered v.bundle.tag) (setVerif { v with stage := .tagCheck } s) := by
  simp [placeTagCheck, he, uncaused]

/-! ### What CONTEXT_TAKEN leaves -/

theorem exec_contextTaken {rest : List (Fin 2)} (runs : running s = true) (serving : s.device = .serving)
    (free : s.renewal.verif = none) (head : s.renewal.queue = i :: rest) :
    exec .contextTaken s = .next (beginVerification i s) := by
  simp [exec, execContextTaken, head, runs, serving, free]

/-- The context has failed with an outcome, and has left the queue (R124, R126, R138). -/
structure TakenFails (i : Fin 2) (k : Code) (s t : State) : Prop where
  failed : VerifFailed i k s t
  left : i ∉ t.renewal.queue

/-- The state as a verification is in hand, before it asks for the AUTHORITY entry. -/
def verifInHand (v : Verif) (s : State) : State := setVerif v (takenUp v.ctx s)

/-- What a context that fails as it is taken leaves of the state (R125, R137). -/
theorem ctxFail_takenUp (i : Fin 2) (k : Code) (s : State) :
    ∃ r ns, ctxFail i k (takenUp i s) = { s with renewal := r, notices := ns } := ⟨_, _, rfl⟩

/-- A context that fails before its verification is in hand (R139 to R141). -/
theorem takenFails_ctxFail (free : s.renewal.verif = none) (k : Code) : TakenFails i k s (ctxFail i k (takenUp i s)) := by
  obtain ⟨state, -, result⟩ := ctxOf_ctxFail i k (takenUp i s)
  obtain ⟨r, ns, frame⟩ := ctxFail_takenUp i k s
  exact ⟨⟨state, by rw [result]; rfl, free, List.mem_map_of_mem (notices_ctxFail i k _), by rw [frame], by rw [frame],
    by rw [frame]⟩, takenUp_queue i s⟩

/-- A verification in hand fails as the cache refuses it the entry (R142). -/
theorem takenFails_failVerif (v : Verif) (k : Code) (s : State) :
    TakenFails v.ctx k s (failVerif k (verifInHand v s)) := by
  obtain ⟨state, outcome, verif, notice, slots, array, device⟩ := verifFailed_failVerif (s := verifInHand v s) rfl k
  refine ⟨⟨state, outcome, verif, notice, slots, array, device⟩, ?_⟩
  have same : (failVerif k (verifInHand v s)).renewal.queue = (takenUp v.ctx s).renewal.queue := by
    rw [failVerif_eq (s := verifInHand v s) rfl]
    exact congrArg (·.queue) (calm_verifReleased (verifInHand v s)).renewal
  rw [same]
  exact takenUp_queue v.ctx s

/-- The context is VERIFYING, its verification in hand; slots and array stay (R137). -/
structure TakenVerifies (v : Verif) (s t : State) : Prop where
  verif : t.renewal.verif = some v
  state : (ctxOf t v.ctx).state = .verifying
  slots : t.slots = s.slots
  array : t.array = s.array

/-- What the cache and the engine do for a verification leaves it in hand. -/
theorem takenVerifies_of_calm (calm : Calm (verifInHand v s) t) (array : t.array = s.array) : TakenVerifies v s t where
  verif := by rw [calm.renewal]; rfl
  state := by
    rw [ctxOf_congr (s := takenUp v.ctx s) (by rw [calm.renewal]; rfl)]
    simp [takenUp]
  slots := calm.slots
  array := array

/-- The cache's answer leaves the verification in hand. -/
theorem takenVerifies_askCache {a : Ask} {r : Requester} {slot : Fin 32} {gen : Nat}
    (ask : askCache r slot c gen (verifInHand v s) = (a, t)) : TakenVerifies v s t :=
  takenVerifies_of_calm (calm_askCache ask (calm_refl _)) (kept_askCache ask (kept_refl _)).array

/-! ### The command -/

/-- A fill of the Renewal Engine has begun: its unwrap is asked for, and its FILLING entry stands before these entries (R80). -/
def FillBegun (slot : Fin 32) (c : CellId) (gen : Nat) (entries : List Entry) (t : State) : Prop :=
  (t.engine.job = some ⟨.renewal, .fill slot c gen, false⟩ ∨ t.engine.renewalLine = some (.fill slot c gen)) ∧
    t.cache.entries = fillingEntry .renewal slot c gen :: entries

/-- The entries without a victim. -/
def withoutEntry (x : Entry) (es : List Entry) : List Entry := es.filter fun e => !isEntry x.slot x.gen e

/-- CONTEXT_TAKEN comes with an admitted verification to the cache: only the entry is left to be judged (R141, R142). -/
structure HeadAdmitted (v : Verif) (c : CellId) (s : State) : Prop where
  step : exec .contextTaken s = .next (verifyFrom v c (takenUp v.ctx s))
  admitted : Admitted v (takenUp v.ctx s)
  sound : (slotOf s v.authSlot).quarantined = false

section Cache

variable (h : HeadAdmitted v c s)
include h

/-- Where the cache refuses the entry, the signer is unavailable (R142). -/
theorem HeadAdmitted.refused {k : Code}
    (ask : askCache .renewal v.authSlot c v.signGen (verifInHand v s) = (.refused k, verifInHand v s)) :
    ∃ t, exec .contextTaken s = .next t ∧ TakenFails v.ctx .signerUnavailable s t :=
  ⟨_, h.step.trans (congrArg _ (h.admitted.refused ask)), takenFails_failVerif v .signerUnavailable s⟩

/-- Where the cache has the entry wait, the verification waits with it (R142). -/
theorem HeadAdmitted.waits (ask : askCache .renewal v.authSlot c v.signGen (verifInHand v s) = (.wait, t)) :
    exec .contextTaken s = .next t ∧ TakenVerifies v s t :=
  ⟨h.step.trans (congrArg _ (h.admitted.waits ask)), takenVerifies_askCache ask⟩

/-- Under the READY entry without a cause the tag check is asked for (R142). -/
theorem HeadAdmitted.hits (unbarred : s.cache.bars[v.authSlot] = none) (he : findEntry s v.authSlot v.signGen = some e)
    (ready : e.filling = false) (uncaused : e.withhold = none) :
    ∃ t, exec .contextTaken s = .next t ∧ TakenVerifies { v with stage := .tagCheck } s t ∧
      (let job : EngineJob := .bundleTag e.key v.bundle.covered v.bundle.tag
       t.engine.job = some ⟨.renewal, job, false⟩ ∨ t.engine.renewalLine = some job) := by
  let aimed : Verif := { v with stage := .tagCheck }
  have ask := askCache_hit (s := verifInHand v s) (c := c) h.sound unbarred he ready uncaused .renewal
  have held := findEntry_takeHit (q := .renewal) (s := verifInHand v s) he
  have asks := placeTagCheck_asks held uncaused
  have pinned : setVerif aimed (takeHit .renewal e (verifInHand v s)) = takeHit .renewal e (verifInHand aimed s) := rfl
  rw [pinned] at asks
  have step := h.step.trans (congrArg _ ((h.admitted.hits ask).trans asks))
  have calm : Calm (verifInHand aimed s) (takeHit .renewal e (verifInHand aimed s)) := calm_takeHit (calm_refl _)
  exact ⟨_, step, takenVerifies_of_calm (calm_place calm) place_array, place_asks .renewal _ _⟩

variable (unbarred : s.cache.bars[v.authSlot] = none) (absent : findEntry s v.authSlot v.signGen = none)
  (unasked : ∀ w ∈ s.cache.waits, w.slot = v.authSlot → w.gen ≠ v.signGen)
include unbarred absent unasked

/-- In a place made for it the fill begins (R80). -/
theorem HeadAdmitted.begins (made : makePlace (verifInHand v s) = some u) :
    ∃ t, exec .contextTaken s = .next t ∧ TakenVerifies v s t ∧ FillBegun v.authSlot c v.signGen u.cache.entries t ∧
      t.writer.queue = u.writer.queue := by
  obtain ⟨step, verifies⟩ := h.waits (askCache_begins (s := verifInHand v s) h.sound unbarred absent unasked .renewal c)
  obtain ⟨asks, entries, queue⟩ := beginFill_placed made .renewal v.authSlot c v.signGen
  exact ⟨_, step, verifies, ⟨asks, entries⟩, queue⟩

theorem HeadAdmitted.fillsFreePlace (free : s.cache.entries.length < 6) :
    ∃ t, exec .contextTaken s = .next t ∧ TakenVerifies v s t ∧ FillBegun v.authSlot c v.signGen s.cache.entries t ∧
      t.writer.queue = s.writer.queue :=
  h.begins (u := verifInHand v s) unbarred absent unasked (makePlace_free free)

variable {x : Entry} (full : 6 ≤ s.cache.entries.length) (goes : victim (verifInHand v s) = some x)
include full goes

/-- A clean victim leaves at once (R84). -/
theorem HeadAdmitted.evictsClean (clean : unclean x = false) :
    ∃ t, exec .contextTaken s = .next t ∧ TakenVerifies v s t ∧
      FillBegun v.authSlot c v.signGen (withoutEntry x s.cache.entries) t ∧ t.writer.queue = s.writer.queue :=
  h.begins unbarred absent unasked (makePlace_clean (s := verifInHand v s) full goes clean)

variable (dirty : unclean x = true)
include dirty

/-- The victim's h raises a HIGHWATER that is queued (R85, R177). -/
theorem HeadAdmitted.evictsRaising (queued : ∃ j ∈ s.writer.queue, isHighFor x.slot x.cell j = true) :
    ∃ t, exec .contextTaken s = .next t ∧ TakenVerifies v s t ∧
      FillBegun v.authSlot c v.signGen (withoutEntry x s.cache.entries) t ∧
      t.writer.queue.length = s.writer.queue.length ∧ HighOnWay t x.slot x.cell x.h := by
  have made := makePlace_unclean (s := verifInHand v s) full goes dirty
  obtain ⟨u, asked, cache, length⟩ := requestHigh_coalesces (s := verifInHand v s) (gen := x.gen) (w := x.h)
    (port := false) (hold := false) queued
  rw [asked] at made
  obtain ⟨t, step, done, begun, queue⟩ := h.begins unbarred absent unasked made
  have left : (removeEntry x.slot x.gen u).cache.entries = withoutEntry x s.cache.entries :=
    congrArg (fun k : Cache => withoutEntry x k.entries) cache
  have onWay : HighOnWay t x.slot x.cell x.h := by
    rw [HighOnWay, queue]
    exact (requestHigh_onWay asked).1
  exact ⟨t, step, done, left ▸ begun, (congrArg List.length queue).trans length, onWay⟩

variable (alone : ∀ j ∈ s.writer.queue, isHighFor x.slot x.cell j = false)
include alone

/-- The victim's h has its own HIGHWATER queued (R85). -/
theorem HeadAdmitted.evictsQueueing (device : s.device ≠ .faulted) (room : s.writer.queue.length < 8) :
    ∃ t, exec .contextTaken s = .next t ∧ TakenVerifies v s t ∧
      FillBegun v.authSlot c v.signGen (withoutEntry x s.cache.entries) t ∧
      t.writer.queue = s.writer.queue ++ [⟨.highWater x.slot x.cell x.gen x.h, none, false, false⟩] := by
  have made := makePlace_unclean (s := verifInHand v s) full goes dirty
  rw [requestHigh_queues (s := verifInHand v s) alone room device] at made
  exact h.begins unbarred absent unasked made

/-- With a full queue the victim stays and the fill waits for room (R85). -/
theorem HeadAdmitted.waitsForRoom (noRoom : 8 ≤ s.writer.queue.length) :
    ∃ t, exec .contextTaken s = .next t ∧ TakenVerifies v s t ∧ t.engine = s.engine ∧
      t.cache.entries = s.cache.entries ∧ t.writer.queue = s.writer.queue ∧
      t.cache.waits = s.cache.waits ++ [⟨v.authSlot, c, v.signGen, false, true, .renewal⟩] := by
  have made := makePlace_unclean (s := verifInHand v s) full goes dirty
  rw [requestHigh_waits (s := verifInHand v s) alone noRoom] at made
  obtain ⟨step, verifies⟩ := h.waits (askCache_begins (s := verifInHand v s) h.sound unbarred absent unasked .renewal c)
  rw [beginFill_waits made] at step verifies
  exact ⟨_, step, verifies, rfl, rfl, rfl, rfl⟩

end Cache

/-- Settles O47: the checks in their order, then the cache's answers, the victim of a fill last. -/
theorem contextTakenBeginsVerification : Obligations.ContextTakenBeginsVerification := by
  intro i others s runs serving free head fails
  have step := exec_contextTaken runs serving free head
  have failing {k : Code} (h : ∃ t, exec .contextTaken s = .next t ∧ TakenFails i k s t) : fails k := by
    obtain ⟨t, step, failed, left⟩ := h
    exact ⟨t, step, failed.state, failed.outcome, failed.notice, left, failed.verif, failed.slots, failed.array⟩
  have early {k : Code} (run : beginVerification i s = ctxFail i k (takenUp i s)) : fails k :=
    failing ⟨_, step.trans (congrArg _ run), takenFails_ctxFail free k⟩
  refine ⟨fun bad => early (beginVerification_malformed bad), fun b parsed => ?_⟩
  have opened := beginVerification_parsed parsed
  refine ⟨fun unknown => early (opened.trans (verifySigner_unknown (s := takenUp i s) unknown)), fun index signer =>
    ⟨fun unbound => early (opened.trans (verifySigner_unbound (s := takenUp i s) signer unbound)), fun slot bound =>
    ⟨fun unusable => early (opened.trans (verifySigner_unusable (s := takenUp i s) signer bound unusable)),
    fun c gen usable => ?_⟩⟩⟩
  let v := verifOf i b index slot gen s
  have signed : beginVerification i s = verifyFrom v c (takenUp i s) :=
    opened.trans (verifySigner_signed (s := takenUp i s) signer bound usable)
  refine ⟨fun stale => early (signed.trans (verifyFrom_stale stale)), fun fresh => ?_⟩
  intro cls verifies asks
  refine ⟨fun barred => early (signed.trans (verifyFrom_unauthorised fresh barred)), fun allowed => ?_⟩
  have h : HeadAdmitted v c s := ⟨step.trans (congrArg _ signed), ⟨fresh, allowed⟩, usableGen_quarantined usable⟩
  have waiting {p : State → Prop} (w : ∃ t, exec .contextTaken s = .next t ∧ TakenVerifies v s t ∧ p t) :
      verifies .authEntry p := by
    obtain ⟨t, step, done, rest⟩ := w
    exact ⟨t, v, step, done.verif, rfl, rfl, rfl, rfl, rfl, done.state, done.slots, done.array, rest⟩
  refine ⟨fun barred => ?_, fun e unbarred entry => ⟨fun ready uncaused => ?_, fun ready caused => ?_, fun filling => ?_⟩,
    fun unbarred absent => ?_⟩
  · obtain ⟨bar, barred⟩ := Option.ne_none_iff_exists'.1 barred
    exact failing (h.refused (askCache_barred (s := verifInHand v s) h.sound barred))
  · obtain ⟨t, step, done, job⟩ := h.hits unbarred entry ready uncaused
    exact ⟨t, _, step, done.verif, rfl, rfl, rfl, rfl, rfl, done.state, done.slots, done.array, job⟩
  · obtain ⟨w, cause⟩ := Option.ne_none_iff_exists'.1 caused
    exact failing (h.refused (askCache_caused (s := verifInHand v s) h.sound unbarred entry ready cause .renewal c))
  · obtain ⟨step, done⟩ := h.waits (askCache_filling (s := verifInHand v s) h.sound unbarred entry filling .renewal c)
    exact waiting ⟨_, step, done, rfl, findEntry_pinned (s := verifInHand v s) entry .renewal⟩
  intro begun
  refine ⟨fun asked => ?_, fun unasked => ⟨fun room => ?_, ?_⟩⟩
  · obtain ⟨step, done⟩ := h.waits (askCache_joins (s := verifInHand v s) h.sound unbarred absent asked .renewal c)
    exact waiting ⟨_, step, done, rfl, rfl, fun w => joinedWaits_renewal⟩
  · exact waiting (h.fillsFreePlace unbarred absent unasked room)
  intro before x after entries full able last rest high
  have goes : victim (verifInHand v s) = some x := victim_eq (s := verifInHand v s) entries able last
  refine ⟨fun clean unflushed => ?_, fun dirty => ?_⟩
  · exact waiting (h.evictsClean unbarred absent unasked full goes (by simp [unclean, clean, unflushed]))
  have dirty : unclean x = true := by simpa [unclean] using dirty
  have device : s.device ≠ .faulted := by rw [serving]; nofun
  exact ⟨fun queued => waiting (h.evictsRaising unbarred absent unasked full goes dirty queued),
    fun alone room => waiting (h.evictsQueueing unbarred absent unasked full goes dirty alone device room),
    fun alone noRoom => waiting (h.waitsForRoom unbarred absent unasked full goes dirty alone noRoom)⟩

end Sys2Proof.Machine
end

section
/-! PROOFS. What a tamper event hands over, raises, bars and leaves alone (R94, R163, R168, Table 8-1); the first comparison. -/

namespace Sys2Proof.Machine

variable {s : State}

/-! ### Inputs and items (R162, R163) -/

@[simp] theorem inputGet_inputsOf {α : Type} (f : TamperInput → α) (i : TamperInput) : inputGet (inputsOf f) i = f i := by
  cases i <;> rfl

theorem inputMatches_false_iff {arm : ArmRecord} {levels : Inputs (Option Level)} {i : TamperInput} :
    inputMatches arm levels i = false ↔ ∃ l, inputGet arm i = some l ∧ inputGet levels i ≠ some l := by
  unfold inputMatches
  cases inputGet arm i <;> simp

theorem mismatchPattern_iff {arm : ArmRecord} {levels : Inputs (Option Level)} {i : TamperInput} :
    inputGet (mismatchPattern arm levels) i = true ↔ ∃ l, inputGet arm i = some l ∧ inputGet levels i ≠ some l := by
  rw [mismatchPattern, inputGet_inputsOf, Bool.not_eq_true', inputMatches_false_iff]

theorem slotAction_iff {img : SlotImg} {a : TamperAct} : slotAction img = some a ↔ img.binding ≠ none ∧
    (img.policy = .suspend ∧ a = .suspend ∨ img.policy = .erase ∧ a = .erase) := by
  unfold slotAction
  cases img.binding with
  | none => simp
  | some b => cases img.policy <;> simp [eq_comm]

/-- A slot has an item exactly where it is bound and its policy is the item's (R163). -/
theorem mem_slotItems_iff {i : Fin 32} {a : TamperAct} : (i, a) ∈ slotItems s ↔ (slotOf s i).binding ≠ none ∧
    ((slotOf s i).policy = .suspend ∧ a = .suspend ∨ (slotOf s i).policy = .erase ∧ a = .erase) :=
  mem_slotItems.trans slotAction_iff

/-! ### The event -/

/-- The tamper work that an event hands over (R163, Table 8-1). -/
def eventWork (origin : Origin) (s : State) : TamperWork :=
  { items := .opening :: ((slotItems s).map (fun x => .slot x.1 x.2) ++ [.closing])
    record := eventRecord origin s (slotItems s), failed := [], completed := [], resumed := false }

/-- The notice that an event raises (R168). -/
def eventNotice (origin : Origin) (s : State) : Notice :=
  tamperNotice origin (eventRecord origin s (slotItems s)) ((slotItems s).map (·.1))

/-- A notice that tells of no context stays as the event meets a context. -/
theorem mem_endCtx {n : Notice} {c : Code} {w : Bool} {j : Fin 2} (hn : n ∈ s.notices)
    (hk : ∀ i, noticeKey n ≠ .renewalFinished i) : n ∈ (endCtx c w s j).notices := by
  have untold : ¬TellsVerif s n := fun ⟨i, key, _⟩ => hk i key
  unfold endCtx
  split
  · exact mem_raiseIn_of_ne hn (hk j)
  · exact mem_raiseIn_of_ne hn (hk j)
  · split
    · exact (aside_dropVerif s).notices n hn untold
    · exact (aside_failVerif c s).notices n hn untold
  · split
    · exact mem_raiseIn_of_ne hn (hk j)
    · exact hn
  all_goals exact hn

theorem eventNotice_mem (origin : Origin) (s : State) : eventNotice origin s ∈ (tamperEvent origin s).notices := by
  have raised : eventNotice origin s ∈ (eventBarred origin s).notices := mem_raiseIn _ _
  have met : eventNotice origin s ∈ (tamperCtxs (eventBarred origin s)).notices := by
    rw [tamperCtxs_eq]
    exact mem_endCtx (mem_endCtx raised nofun) nofun
  exact (aside_eventEnd origin s).notices _ met fun ⟨_, key, _⟩ => by cases key

theorem beside_eventEnd (origin : Origin) (s : State) : Beside (eventBarred origin s) (tamperEvent origin s) := by
  rw [tamperEvent_eq, eventMet, tamperCtxs_eq]
  exact beside_voidJobs (beside_causes (beside_causes ((beside_endCtx _ _ _ 0).trans (beside_endCtx _ _ _ 1))))

/-- What an event makes of the state in which the mismatch was found. -/
structure EventTaken (origin : Origin) (s t : State) : Prop where
  work : t.writer.tamper = some (eventWork origin s)
  notice : eventNotice origin s ∈ t.notices
  bars : ∀ i a, (i, a) ∈ slotItems s → t.cache.bars[i] = some a
  monitor : t.monitor = s.monitor
  device : t.device = s.device
  array : t.array = s.array
  clock : t.clock = s.clock
  assocs : t.assocs = s.assocs
  slots : ∀ i, slotCore (slotOf t i) = slotCore (slotOf s i)

theorem eventTaken_tamperEvent (origin : Origin) (s : State) : EventTaken origin s (tamperEvent origin s) := by
  have beside := beside_eventEnd origin s
  have kept : Kept s (tamperEvent origin s) := kept_tamperEvent (kept_refl s)
  refine ⟨beside.tamper, eventNotice_mem origin s, fun i a h => ?_, beside.monitor, beside.device, kept.array, kept.clock,
    beside.assocs, beside.slots⟩
  rw [tamperEvent_bars]
  exact barred_with (fun b hb => Option.some.inj ((mem_slotItems.1 hb).symm.trans (mem_slotItems.1 h))) (.inl h)

/-! ### A comparison (R161, R162) -/

/-- The state with another match state. -/
def withMatch (b : Bool) (s : State) : State := { s with monitor := { s.monitor with matching := b } }

theorem withMatch_same {b : Bool} (h : s.monitor.matching = b) : withMatch b s = s := by subst h; rfl

theorem compareNow_match (origin : Origin) (h : groupMatches s.monitor.arm s.monitor.debounced = true) :
    compareNow origin s = withMatch true s := if_pos h

theorem compareNow_mismatch (origin : Origin) (h : groupMatches s.monitor.arm s.monitor.debounced = false)
    (hm : s.monitor.matching = true) : compareNow origin s = tamperEvent origin (withMatch false s) := by
  rw [compareNow, if_neg (Bool.eq_false_iff.1 h), if_pos hm]
  rfl

theorem compareNow_known (origin : Origin) (h : groupMatches s.monitor.arm s.monitor.debounced = false)
    (hm : s.monitor.matching = false) : compareNow origin s = s := by
  rw [compareNow, if_neg (Bool.eq_false_iff.1 h), if_neg (Bool.eq_false_iff.1 hm)]

/-! ### The first comparison (R170) -/

theorem canCompareFirst_of_settled (hrun : running s = true) (hserve : servingOrHolding s = true)
    (hcmp : s.monitor.compared = false)
    (hsettled : ∀ i, inputGet s.monitor.arm i = none ∨ inputGet s.monitor.debounced i ≠ none) : canCompareFirst s = true := by
  have settled : selectedSettled s.monitor.arm s.monitor.debounced = true := by
    rw [selectedSettled, inputsAll_iff]
    intro i
    rw [Bool.or_eq_true, Option.isNone_iff_eq_none, Option.isSome_iff_ne_none]
    exact hsettled i
  rw [canCompareFirst, hrun, hserve, hcmp, settled]
  rfl

/-- Settles O29: a match changes the monitor alone, and a mismatch is the tamper event of origin LOAD. -/
theorem firstComparisonTakesATamperEvent : Obligations.FirstComparisonTakesATamperEvent := by
  unfold Obligations.FirstComparisonTakesATamperEvent
  intro s hrun hserve hcmp hsettled
  refine ⟨fun group => ?_, fun group hmatch => ?_⟩
  · change execFirstComparison s = _
    rw [execFirstComparison, if_pos (canCompareFirst_of_settled hrun hserve hcmp hsettled)]
    exact congrArg Host.Outcome.next (compareNow_match .load group)
  · have event := eventTaken_tamperEvent .load (firstMismatch s)
    exact ⟨_, exec_firstMismatch hrun hserve hcmp hsettled group hmatch, event.monitor,
      ⟨_, event.work, rfl, rfl, rfl⟩, fun _ _ => mem_slotItems_iff, List.mem_map_of_mem event.notice, event.device,
      event.array, event.assocs, event.slots⟩

end Sys2Proof.Machine
end

section
/-! PROOFS. The tamper inputs: holds, debounced levels, and the comparison that follows (R159, R161, R162). -/

namespace Sys2Proof.Machine

variable {s : State}

/-! ### Levels and holds (R159) -/

theorem inputGet_setInput {α : Type} (x : Inputs α) (i j : TamperInput) (v : α) :
    inputGet (setInput x i v) j = if j = i then v else inputGet x j := by
  cases i <;> cases j <;> rfl

theorem exec_levelChange_running (i : TamperInput) (l : Level) (hrun : running s = true) :
    exec (.tamperInputLevelChange i l) s = .next { s with
      pins := { s.pins with tamper := setInput s.pins.tamper i l }
      monitor := { s.monitor with holds := setInput s.monitor.holds i (inputGet s.monitor.debounced i != some l) } } :=
  if_pos hrun

theorem exec_levelChange_stopped (i : TamperInput) (l : Level) (hrun : running s = false) :
    exec (.tamperInputLevelChange i l) s =
      .next { s with pins := { s.pins with tamper := setInput s.pins.tamper i l } } :=
  if_neg (Bool.eq_false_iff.1 hrun)

theorem inputGet_endingHolds (s : State) (set : InputSet) (i : TamperInput) :
    inputGet (endingHolds s set) i = (inputGet set i && inputGet s.monitor.holds i) := inputGet_inputsOf _ i

theorem nonEmpty_of_input {set : InputSet} {i : TamperInput} (h : inputGet set i = true) : set.nonEmpty = true := by
  cases i <;> simp only [inputGet] at h <;> simp [InputSet.nonEmpty, h]

/-- The state as the holds among these inputs have ended, before the monitor compares. -/
def holdsEnded (set : InputSet) (s : State) : State := settleInputs (endingHolds s set) s

theorem debounced_holdsEnded (set : InputSet) (s : State) (i : TamperInput) :
    inputGet (holdsEnded set s).monitor.debounced i = if inputGet set i && inputGet s.monitor.holds i then
      some (inputGet s.pins.tamper i) else inputGet s.monitor.debounced i := by
  rw [← inputGet_endingHolds]
  exact inputGet_inputsOf _ i

theorem holds_holdsEnded (set : InputSet) (s : State) (i : TamperInput) :
    inputGet (holdsEnded set s).monitor.holds i = (inputGet s.monitor.holds i && !inputGet set i) := by
  change inputGet (inputsOf fun i => inputGet s.monitor.holds i && !inputGet (endingHolds s set) i) i = _
  rw [inputGet_inputsOf, inputGet_endingHolds]
  cases inputGet s.monitor.holds i <;> simp

theorem exec_debounceHoldExpiry {set : InputSet} (hrun : running s = true)
    (h : ∃ i, inputGet set i = true ∧ inputGet s.monitor.holds i = true) :
    exec (.debounceHoldExpiry set) s = .next (compareLive (holdsEnded set s)) := by
  obtain ⟨i, hset, hhold⟩ := h
  have ends : (endingHolds s set).nonEmpty = true :=
    nonEmpty_of_input (i := i) (by rw [inputGet_endingHolds, hset, hhold]; rfl)
  exact if_pos (by rw [hrun, ends]; rfl)

/-! ### The comparison after ended holds (R161) -/

/-- The monitor compares, and finds the change from match to mismatch. -/
def Mismatches (s : State) : Prop := servingOrHolding s = true ∧ s.monitor.compared = true ∧ s.monitor.matching = true ∧
  groupMatches s.monitor.arm s.monitor.debounced = false

/-- The match state after a comparison, where one is made. -/
def matchAfter (s : State) : Bool :=
  if servingOrHolding s && s.monitor.compared then groupMatches s.monitor.arm s.monitor.debounced else s.monitor.matching

theorem compareLive_mismatch (h : Mismatches s) : compareLive s = tamperEvent .live (withMatch false s) := by
  obtain ⟨serving, compared, matching, group⟩ := h
  rw [compareLive, serving, compared, Bool.and_self, if_pos rfl, compareNow_mismatch .live group matching]

theorem compareLive_still (h : ¬Mismatches s) : compareLive s = withMatch (matchAfter s) s := by
  cases compares : servingOrHolding s && s.monitor.compared with
  | false => rw [compareLive, matchAfter, compares, if_neg Bool.false_ne_true, if_neg Bool.false_ne_true, withMatch_same rfl]
  | true =>
    obtain ⟨serving, compared⟩ := Bool.and_eq_true_iff.1 compares
    rw [compareLive, matchAfter, compares, if_pos rfl, if_pos rfl]
    cases group : groupMatches s.monitor.arm s.monitor.debounced with
    | true => exact compareNow_match .live group
    | false =>
      have matching : s.monitor.matching = false := Bool.eq_false_iff.2 fun m => h ⟨serving, compared, m, group⟩
      rw [compareNow_known .live group matching, withMatch_same matching]

theorem matchAfter_of_mismatches (h : Mismatches s) : matchAfter s = false := by
  obtain ⟨serving, compared, -, group⟩ := h
  rw [matchAfter, serving, compared, group]
  rfl

/-- What every comparison leaves, with or without an event. -/
structure ComparedLive (s t : State) : Prop where
  monitor : t.monitor = { s.monitor with matching := matchAfter s }
  device : t.device = s.device
  array : t.array = s.array
  clock : t.clock = s.clock
  assocs : t.assocs = s.assocs
  slots : ∀ i, slotCore (slotOf t i) = slotCore (slotOf s i)

theorem comparedLive_compareLive (s : State) : ComparedLive s (compareLive s) := by
  by_cases h : Mismatches s
  · have event := eventTaken_tamperEvent .live (withMatch false s)
    rw [compareLive_mismatch h]
    exact ⟨by rw [event.monitor, matchAfter_of_mismatches h]; rfl, event.device, event.array, event.clock, event.assocs,
      event.slots⟩
  · rw [compareLive_still h]
    exact ⟨rfl, rfl, rfl, rfl, rfl, fun _ => rfl⟩

/-- Settles O28: levels start and end holds; the comparison after ended holds finds no change to a mismatch, or is the tamper event of
origin LIVE. -/
theorem levelsAreDebouncedAndCompared : Obligations.LevelsAreDebouncedAndCompared := by
  unfold Obligations.LevelsAreDebouncedAndCompared
  intro s
  refine ⟨fun i l => ?_, fun set hrun ends => ?_⟩
  · cases hrun : running s with
    | true =>
      exact ⟨_, exec_levelChange_running i l hrun, fun j => inputGet_setInput _ i j l,
        fun _ j => inputGet_setInput _ i j _, nofun, rfl⟩
    | false =>
      exact ⟨_, exec_levelChange_stopped i l hrun, fun j => inputGet_setInput _ i j l, nofun, fun _ => rfl, rfl⟩
  · let u := holdsEnded set s
    have compared := comparedLive_compareLive u
    have debounced : (compareLive u).monitor.debounced = u.monitor.debounced := by rw [compared.monitor]
    refine ⟨_, exec_debounceHoldExpiry hrun ends, fun i => ?_, fun i => ?_, ?_, ?_, compared.device, compared.array,
      compared.clock, compared.slots, compared.assocs, fun quiet => ?_, fun event => ?_⟩
    · rw [debounced]
      exact debounced_holdsEnded set s i
    · rw [compared.monitor]
      exact holds_holdsEnded set s i
    · rw [debounced, compared.monitor]
      rfl
    · rw [compared.monitor]
      rfl
    · rw [debounced] at quiet
      rw [compareLive_still (s := u) quiet]
      rfl
    · rw [debounced] at event ⊢
      have taken := eventTaken_tamperEvent .live (withMatch false u)
      rw [← compareLive_mismatch (s := u) event] at taken
      exact ⟨_, taken.work, rfl, rfl, rfl, fun _ => mismatchPattern_iff, rfl, rfl, fun _ _ => mem_slotItems_iff, taken.bars,
        taken.notice⟩

end Sys2Proof.Machine
end

section
/-! PROOFS. How a write ends: the states that a read-back leads to, and what an answer and a quarantine after a failed write leave
(R180, R181, R184, R205). -/

namespace Sys2Proof.Machine

variable {r : Running} {w : ArrayWrite} {rest : List ArrayWrite} {s t : State}

/-! ### The read-back (R180) -/

/-- The state as the second try of a write has mismatched and its task has left the Store Writer's hands. -/
def writeFailed (left : Torn) (w : ArrayWrite) (s : State) : State :=
  { s with
    array := failedWrite s.monitor.armLost (tornWrite left s.array w) w
    writer := { s.writer with job := none } }

/-- The state as a write has matched and another follows it. -/
def writeFollows (r : Running) (w : ArrayWrite) (rest : List ArrayWrite) (s : State) : State :=
  { s with
    array := putWrite true s.array w
    writer := { s.writer with job := some { r with writes := rest, retried := false } } }

/-- The state as the first try of a write has mismatched. -/
def writeRetried (r : Running) (left : Torn) (w : ArrayWrite) (s : State) : State :=
  { s with array := tornWrite left s.array w, writer := { s.writer with job := some { r with retried := true } } }

theorem exec_readBack (hrun : running s = true) (hj : s.writer.job = some r) (hw : r.writes = w :: rest) (b : ReadBack) :
    exec (.storeWriteReadBack b) s = .next (portSettle (writeEnd r w rest b s)) := by
  change execStoreWriteReadBack b s = _
  simp only [execStoreWriteReadBack, hj, hw, hrun, if_true, settled]

theorem writeEnd_last (r : Running) (w : ArrayWrite) (s : State) :
    writeEnd r w [] .matched s = completeTask r (lastWritten w s) := rfl

theorem writeEnd_follows (h : rest ≠ []) (r : Running) (w : ArrayWrite) (s : State) :
    writeEnd r w rest .matched s = writeFollows r w rest s := if_neg (by simpa using h)

theorem writeEnd_retried (h : r.retried = false) (w : ArrayWrite) (rest : List ArrayWrite) (left : Torn) (s : State) :
    writeEnd r w rest (.mismatched left) s = writeRetried r left w s := if_neg (Bool.eq_false_iff.1 h)

theorem writeEnd_failed (h : r.retried = true) (w : ArrayWrite) (rest : List ArrayWrite) (left : Torn) (s : State) :
    writeEnd r w rest (.mismatched left) s = failTask r (writeFailed left w s) := if_pos h

/-- A job that fails its write twice leaves the state in which its task has failed. -/
theorem exec_failed (hrun : running s = true) (hj : s.writer.job = some r) (hw : r.writes = w :: rest)
    (hr : r.retried = true) (left : Torn) :
    exec (.storeWriteReadBack (.mismatched left)) s = .next (portSettle (failTask r (writeFailed left w s))) := by
  rw [exec_readBack hrun hj hw, writeEnd_failed hr]

theorem array_portSettle (s : State) : (portSettle s).array = s.array := (portSettle_settled s).array

theorem array_matched (r : Running) (w : ArrayWrite) (rest : List ArrayWrite) (s : State) :
    (portSettle (writeEnd r w rest .matched s)).array = putWrite true s.array w := by
  have kept : Kept { s with array := putWrite true s.array w } (writeEnd r w rest .matched s) := kept_nextWrite (kept_refl _)
  rw [array_portSettle, kept.array]

/-! ### The arm record (R171) -/

/-- One of the two stored copies of the arm record. -/
def armAt (second : Bool) (a : StoreArray) : Option ArmCopy := if second then a.armSecond else a.armFirst

theorem armAt_putWrite (whole second : Bool) (c : ArmCopy) (a : StoreArray) :
    armAt second (putWrite whole a (.arm second c)) = ifWhole whole c := by cases second <;> rfl

theorem armAt_putWrite_other (whole second : Bool) (c : ArmCopy) (a : StoreArray) :
    armAt (!second) (putWrite whole a (.arm second c)) = armAt (!second) a := by cases second <;> rfl

theorem failedWrite_arm (lost second : Bool) (c : ArmCopy) (a : StoreArray) : failedWrite lost a (.arm second c) =
    if !lost && armAt second a == some c then putWrite false a (.arm second c) else a := rfl

/-- With a record in force, a copy whose write has failed does not hold its new record. -/
theorem armAt_failedWrite (second : Bool) (c : ArmCopy) (a : StoreArray) :
    armAt second (failedWrite false a (.arm second c)) ≠ some c := by
  rw [failedWrite_arm]
  split
  · rw [armAt_putWrite]
    nofun
  · rename_i h
    simpa using h

theorem armAt_failedWrite_other (lost second : Bool) (c : ArmCopy) (a : StoreArray) :
    armAt (!second) (failedWrite lost a (.arm second c)) = armAt (!second) a := by
  rw [failedWrite_arm]
  split
  · exact armAt_putWrite_other false second c a
  · rfl

theorem armAt_tornWrite_other (left : Torn) (second : Bool) (c : ArmCopy) (a : StoreArray) :
    armAt (!second) (tornWrite left a (.arm second c)) = armAt (!second) a := by
  cases left
  all_goals first | rfl | exact armAt_putWrite_other _ second c a

/-! ### FAULTED (R184, R205, R207) -/

/-- The command in flight waits on a queued job, for room, or for the drain of its HOLD. -/
def LeftWaiting (s : State) : Prop :=
  let onJob := ∃ q ∈ s.writer.queue, q.port = true
  let forRoom := ∃ x ∈ s.cache.waits, x.port = true
  (∃ op, s.port.exec = .protect op ∧ (op.stage = .room ∨ op.stage = .reserve ∧ onJob ∨ op.stage = .fill ∧ forRoom)) ∨
  (∃ op, s.port.exec = .unprotect op ∧ (op.stage = .room ∨ op.stage = .high ∧ onJob ∨ op.stage = .fill ∧ forRoom)) ∨
  (∃ op, s.port.exec = .activate op ∧ (op.stage = .room ∨ op.stage = .store ∧ onJob ∨ op.stage = .fill ∧ forRoom)) ∨
  ∃ flushFailed, s.port.exec = .hold flushFailed

theorem portStuck_iff : portStuck s = true ↔ LeftWaiting s := by
  unfold portStuck LeftWaiting
  cases s.port.exec <;> simp [or_assoc]

theorem portSettle_idem (s : State) : portSettle (portSettle s) = portSettle s := by
  rcases portSettle_cases s with h | h <;> rw [h]
  · exact h
  · exact portSettle_of_not_stuck rfl

/-- The state as the device becomes FAULTED, before a waiting command is answered (R184, R192). -/
def nowFaulted (s : State) : State :=
  if s.device = .loading then raise (loadComplete { s with device := .faulted }) { s with device := .faulted }
  else { s with device := .faulted }

theorem enterFaulted_eq (s : State) : enterFaulted s = portSettle (nowFaulted s) := rfl

/-- The state FAULTED, with these notices. -/
def faultedWith (ns : List Notice) (s : State) : State := { s with device := .faulted, notices := ns }

theorem portStuck_faultedWith (ns : List Notice) (s : State) : portStuck (faultedWith ns s) = portStuck s := rfl

theorem nowFaulted_parts (s : State) : ∃ ns, nowFaulted s = faultedWith ns s := by
  unfold nowFaulted
  split
  · exact ⟨_, rfl⟩
  · exact ⟨s.notices, rfl⟩

/-- What the step to FAULTED leaves, and whom it answers. -/
structure Faulted (s t : State) : Prop where
  device : t.device = .faulted
  array : t.array = s.array
  job : s.writer.job = none → t.writer.job = none
  slots : t.slots = s.slots
  assocs : t.assocs = s.assocs
  answered : LeftWaiting s → t.port = (respond .faulted [] s).port
  unanswered : ¬LeftWaiting s → t.port = s.port

theorem faulted_enterFaulted (s : State) : Faulted s (portSettle (enterFaulted s)) := by
  obtain ⟨ns, parts⟩ := nowFaulted_parts s
  rw [enterFaulted_eq, portSettle_idem, parts]
  have settles := portSettle_settled (faultedWith ns s)
  have beside : Beside (faultedWith ns s) (portSettle (faultedWith ns s)) := beside_portSettle (beside_refl _)
  refine ⟨beside.device, settles.array, settles.job_none, settles.slots, beside.assocs, fun waits => ?_, fun waits => ?_⟩
  · have faulted : (faultedWith ns s).device = .faulted := rfl
    rw [portSettle, portStuck_faultedWith, portStuck_iff.2 waits, if_pos (by rw [faulted]; rfl)]
    rfl
  · rw [portSettle_of_not_stuck]
    · rfl
    · rw [portStuck_faultedWith]
      exact Bool.eq_false_iff.2 fun stuck => waits (portStuck_iff.1 stuck)

/-! ### A slot becomes QUARANTINED (R9, R181) -/

theorem Beside.job_none (h : Beside s t) (hj : s.writer.job = none) : t.writer.job = none :=
  Option.map_eq_none_iff.1 (h.writes.trans (by rw [hj]; rfl))

/-- What a quarantine at run time makes of its slot, and what it leaves. -/
structure QuarantinedFrom (slot : Fin 32) (s t : State) : Prop where
  marked : (slotOf t slot).quarantined = true
  noticed : NoticeKey.quarantined slot ∈ t.notices.map noticeKey
  job : s.writer.job = none → t.writer.job = none
  slots : ∀ i, slotCore (slotOf t i) = slotCore (slotOf s i)
  assocs : t.assocs = s.assocs
  bars : t.cache.bars = s.cache.bars
  tamper : t.writer.tamper = s.writer.tamper

theorem bars_portSettle (s : State) : (portSettle s).cache.bars = s.cache.bars := (calm_portSettle (calm_refl s)).bars

theorem quarantinedFrom_settled (slot : Fin 32) (s : State) :
    QuarantinedFrom slot s (portSettle (quarantineSlot slot s)) := by
  obtain ⟨marked, noticed⟩ := quarantineSlot_marks slot s
  have beside : Beside s (portSettle (quarantineSlot slot s)) := beside_portSettle (beside_quarantineSlot (beside_refl s))
  refine ⟨?_, by rw [notices_portSettle]; exact noticed, beside.job_none, beside.slots, beside.assocs, ?_, beside.tamper⟩
  · rw [slotOf_of_slots (slots_portSettle _)]
    exact marked
  · rw [bars_portSettle]
    exact (aside_causes _ _ _).bars

end Sys2Proof.Machine
end

section
/-! PROOFS. A queued job fails: its requesters are told, and its part of the image takes the failure (R73, R153, R181, Table 9-3). -/

namespace Sys2Proof.Machine

variable {q : QJob} {s t : State} {i : Fin 2}

/-! ### Requesters (R111, R153, R158, R205) -/

/-- The command in flight is told that its job has failed. -/
def tellFailed (q : QJob) (s : State) : State := if q.port then portJobFailed (noteHoldFlush q s) else noteHoldFlush q s

/-- The context of the job is told that it has failed. -/
def failContext (q : QJob) (s : State) : State :=
  match q.ctx with
  | none => s
  | some i => ctxJobFailed i .storeFailed s

/-- The state as the requesters of a failed job have been told. -/
def failTold (q : QJob) (s : State) : State := failContext q (tellFailed q s)

theorem failJob_eq (q : QJob) (s : State) : failJob q s = failEffect q.job (failTold q s) := by
  unfold failJob failTold failContext
  cases q.ctx <;> rfl

theorem failContext_none (h : q.ctx = none) (s : State) : failContext q s = s := by simp only [failContext, h]

theorem failContext_some (h : q.ctx = some i) (s : State) : failContext q s = ctxJobFailed i .storeFailed s := by
  simp only [failContext, h]

theorem noteHoldFlush_cases (q : QJob) (s : State) : noteHoldFlush q s = s ∨ noteHoldFlush q s = setExec (.hold true) s := by
  unfold noteHoldFlush
  repeat' split
  all_goals first | exact .inl rfl | exact .inr rfl

theorem calm_noteHoldFlush (q : QJob) (s : State) : Calm s (noteHoldFlush q s) := by
  rcases noteHoldFlush_cases q s with e | e <;> rw [e]
  · exact calm_refl s
  · exact calm_setExec (calm_refl s)

theorem beside_noteHoldFlush (q : QJob) (s : State) : Beside s (noteHoldFlush q s) := by
  rcases noteHoldFlush_cases q s with e | e <;> rw [e]
  · exact beside_refl s
  · exact beside_setExec (beside_refl s)

theorem calm_portJobFailed (h : Calm t s) : Calm t (portJobFailed s) := by
  unfold portJobFailed
  repeat' split
  all_goals first | with_reducible exact h | exact calm_finish h

theorem calm_tellFailed (q : QJob) (s : State) : Calm s (tellFailed q s) := by
  unfold tellFailed
  split
  · exact calm_portJobFailed (calm_noteHoldFlush q s)
  · exact calm_noteHoldFlush q s

theorem beside_failTold (q : QJob) (s : State) : Beside s (failTold q s) := by
  have told : Beside s (tellFailed q s) := by
    unfold tellFailed
    split
    · exact beside_portJobFailed (beside_noteHoldFlush q s)
    · exact beside_noteHoldFlush q s
  unfold failTold failContext
  split
  · exact told
  · exact beside_ctxJobFailed told

theorem kept_failTold (q : QJob) (s : State) : Kept s (failTold q s) := by
  have noted : Kept s (noteHoldFlush q s) := kept_noteHoldFlush (kept_refl s)
  have told : Kept s (tellFailed q s) := by
    unfold tellFailed
    split
    · exact kept_portJobFailed noted
    · exact noted
  unfold failTold failContext
  split
  · exact told
  · exact kept_ctxJobFailed told

theorem slots_failTold (q : QJob) (s : State) : (failTold q s).slots = s.slots := by
  have told := (calm_tellFailed q s).slots
  cases h : q.ctx with
  | none => rw [failTold, failContext_none h, told]
  | some i =>
    rw [failTold, failContext_some h]
    rcases ctxJobFailed_cases i .storeFailed (tellFailed q s) with e | ⟨-, e⟩ <;> rw [e]
    · exact told
    · rw [(ctxFrame_failStoring i _ _).slots, told]

theorem notices_failTold (h : q.ctx = none) (s : State) : (failTold q s).notices = s.notices := by
  rw [failTold, failContext_none h, (calm_tellFailed q s).notices]

theorem failedWith_failStoring (i : Fin 2) (c : Code) (s : State) : FailedWith c (failStoring i c s) i := by
  rw [failStoring]
  exact failedWith_ctxFail c i _

theorem verif_failStoring (i : Fin 2) (c : Code) (s : State) :
    (failStoring i c s).renewal.verif = s.renewal.verif := rfl

/-- The STORING context of a failed job fails (R153); a verification in hand goes on. -/
theorem failTold_storing (h : q.ctx = some i) (hd : s.device ≠ .faulted) (hs : (ctxOf s i).state = .storing) :
    FailedWith .storeFailed (failTold q s) i ∧ (failTold q s).renewal.verif = s.renewal.verif := by
  have calm := calm_tellFailed q s
  have state : (ctxOf (tellFailed q s) i).state = .storing := by
    rw [ctxOf_congr (congrArg (·.ctxs) calm.renewal), hs]
  rw [failTold, failContext_some h, ctxJobFailed_storing (by rw [calm.device]; exact hd) state]
  exact ⟨failedWith_failStoring _ _ _, (verif_failStoring _ _ _).trans (congrArg (·.verif) calm.renewal)⟩

/-! ### The image (Table 9-3) -/

theorem failEffect_slot {j : StoreJob} {slot : Fin 32} (h : jobSlot j = some slot) (s : State) :
    failEffect j s = quarantineSlot slot s := by
  cases j <;> cases h <;> rfl

theorem failEffect_entry {j : StoreJob} {index : Fin 8}
    (h : (∃ form, j = .association index form) ∨ ∃ party cls v, j = .bundleFloor index party cls v) (s : State) :
    failEffect j s = damageEntry index s := by
  rcases h with ⟨form, rfl⟩ | ⟨party, cls, v, rfl⟩ <;> rfl

theorem FailedWith.calm {c : Code} (h : FailedWith c s i) (k : Calm s t) : FailedWith c t i := by
  obtain ⟨state, result, key⟩ := h
  have same := ctxOf_congr (congrArg (·.ctxs) k.renewal) i
  exact ⟨by rw [same, state], by rw [same, result], by rw [k.notices]; exact key⟩

/-- A failed context stays so as its job's part of the image takes the failure. -/
theorem failedWith_failEffect {c : Code} {j : StoreJob} (h : FailedWith c s i) (hv : ¬Verifies s i) :
    FailedWith c (failEffect j s) i := by
  cases hs : jobSlot j with
  | some slot =>
    obtain ⟨state, result, key⟩ := h
    have same : ctxOf (quarantineSlot slot s) i = ctxOf s i := (aside_causes _ _ _).ctxs i hv
    have keys := (beside_quarantineSlot (slot := slot) (beside_refl s)).keys
    rw [failEffect_slot hs]
    exact ⟨by rw [same, state], by rw [same, result], keys _ key⟩
  | none =>
    rcases jobSlot_none hs with rfl | ⟨k, form, rfl⟩ | ⟨k, p, c, v, rfl⟩ | ⟨record, rfl⟩ <;> exact h

/-! ### The failed job as a whole -/

/-- The state after a queued job has failed, as the command of its last write leaves it. -/
def jobFailed (q : QJob) (s : State) : State := portSettle (failJob q s)

theorem jobFailed_slot {slot : Fin 32} (h : jobSlot q.job = some slot) :
    QuarantinedFrom slot (failTold q s) (jobFailed q s) := by
  rw [jobFailed, failJob_eq, failEffect_slot h]
  exact quarantinedFrom_settled slot _

/-- What a failed job that names no slot leaves. -/
theorem jobFailed_plain (h : jobSlot q.job = none) (hj : s.writer.job = none) :
    (jobFailed q s).writer.job = none ∧ (jobFailed q s).slots = s.slots ∧ (jobFailed q s).monitor = s.monitor := by
  have told := beside_failTold q s
  have slots := slots_failTold q s
  have beside : Beside _ (jobFailed q s) := beside_portSettle (beside_refl _)
  have effect : (failEffect q.job (failTold q s)).writer.job = (failTold q s).writer.job ∧
      (failEffect q.job (failTold q s)).slots = (failTold q s).slots ∧
      (failEffect q.job (failTold q s)).monitor = (failTold q s).monitor := by
    rcases jobSlot_none h with e | ⟨k, form, e⟩ | ⟨k, p, c, v, e⟩ | ⟨record, e⟩ <;> rw [e] <;> exact ⟨rfl, rfl, rfl⟩
  obtain ⟨job, images, monitor⟩ := effect
  refine ⟨beside.job_none ?_, ?_, ?_⟩
  · rw [failJob_eq, job]
    exact told.job_none hj
  · rw [jobFailed, slots_portSettle, failJob_eq, images, slots]
  · rw [beside.monitor, failJob_eq, monitor, told.monitor]

theorem assocs_jobFailed (q : QJob) (s : State) : (jobFailed q s).assocs = (failEffect q.job (failTold q s)).assocs := by
  rw [← failJob_eq]
  exact (beside_portSettle (beside_refl _)).assocs

/-- A failed ASSOCIATION or BUNDLE_FLOOR leaves its entry DAMAGED, and every other entry (R73). -/
theorem jobFailed_entry {index : Fin 8}
    (h : (∃ form, q.job = .association index form) ∨ ∃ party cls v, q.job = .bundleFloor index party cls v) :
    assocOf (jobFailed q s) index = { assocOf s index with state := .damaged .write } ∧
      ∀ i, i ≠ index → assocOf (jobFailed q s) i = assocOf s i := by
  have told (i : Fin 8) : assocOf (failTold q s) i = assocOf s i :=
    congrArg (fun v : Vector AssocImg 8 => v[i]) (beside_failTold q s).assocs
  have entry (i : Fin 8) : assocOf (jobFailed q s) i = assocOf (damageEntry index (failTold q s)) i := by
    rw [← failEffect_entry h]
    exact congrArg (fun v : Vector AssocImg 8 => v[i]) (assocs_jobFailed q s)
  refine ⟨?_, fun i hi => ?_⟩
  · rw [entry, damageEntry, assocOf_setAssoc, told]
  · rw [entry, damageEntry, assocOf_setAssoc_other hi, told]

/-- A failed HOUR skips its strip position, and raises nothing of its own (R38). -/
theorem jobFailed_hour (h : q.job = .hour) : (jobFailed q s).assocs = s.assocs ∧
    (jobFailed q s).writer.nextStrip = s.writer.nextStrip + 1 ∧ (q.ctx = none → (jobFailed q s).notices = s.notices) := by
  have told := beside_failTold q s
  have effect : failJob q s = advanceStrip (failTold q s) := by rw [failJob_eq, h]; rfl
  refine ⟨?_, ?_, fun hc => ?_⟩
  · rw [assocs_jobFailed, h]
    exact told.assocs
  · rw [jobFailed, (beside_portSettle (beside_refl _)).nextStrip, effect, advanceStrip, told.nextStrip]
  · rw [jobFailed, notices_portSettle, effect]
    exact notices_failTold hc s

theorem jobFailed_storing (h : q.ctx = some i) (hd : s.device ≠ .faulted) (hs : (ctxOf s i).state = .storing)
    (hv : ∀ v, s.renewal.verif = some v → v.ctx ≠ i) : FailedWith .storeFailed (jobFailed q s) i := by
  obtain ⟨failed, verif⟩ := failTold_storing h hd hs
  rw [jobFailed, failJob_eq]
  refine (failedWith_failEffect failed ?_).calm (calm_portSettle (calm_refl _))
  exact not_verifies fun v hv' => hv v (verif.symm.trans hv')

theorem array_jobFailed_arm {record : ArmRecord} (h : q.job = .armRecord record) : (jobFailed q s).array = s.array := by
  have effect : failJob q s = failTold q s := by rw [failJob_eq, h]; rfl
  rw [jobFailed, array_portSettle, effect, (kept_failTold q s).array]

/-- Settles O55, by the read-back: a match, a first mismatch, and a second one by the kind of the task that fails. -/
theorem writesAreReadBackAndRetried : Obligations.WritesAreReadBackAndRetried := by
  unfold Obligations.WritesAreReadBackAndRetried
  intro r w rest s hrun hj hw
  refine ⟨⟨_, exec_readBack hrun hj hw .matched, array_matched r w rest s⟩, fun hd => ⟨fun more => ?_, fun left first => ?_⟩,
    fun left again => ?_⟩
  · rw [exec_readBack hrun hj hw, writeEnd_follows more, portSettle_of_not_faulted (s := writeFollows r w rest s) hd]
    rfl
  · rw [exec_readBack hrun hj hw, writeEnd_retried first, portSettle_of_not_faulted (s := writeRetried r left w s) hd]
    rfl
  have fails := exec_failed hrun hj hw again left
  have queued {q : QJob} (ht : r.task = .queued q) :
      exec (.storeWriteReadBack (.mismatched left)) s = .next (jobFailed q (writeFailed left w s)) := by
    rw [fails, failTask, ht]
    rfl
  refine ⟨fun q slot ht hs => ?_, fun q index ht kind => ?_, fun q ht hour => ?_, fun q i ht hc hd hs hv => ?_,
    fun record hrec ht => ?_, fun q record second copy ht hjob harm lost => ?_⟩
  · have done := jobFailed_slot (s := writeFailed left w s) hs
    have told := beside_failTold q (writeFailed left w s)
    exact ⟨_, queued ht, done.marked, done.noticed, done.job (told.job_none rfl),
      fun i => (done.slots i).trans (told.slots i)⟩
  · have slotless : jobSlot q.job = none := by rcases kind with ⟨_, e⟩ | ⟨_, _, _, e⟩ <;> rw [e] <;> rfl
    obtain ⟨job, slots, -⟩ := jobFailed_plain (s := writeFailed left w s) slotless rfl
    obtain ⟨damaged, others⟩ := jobFailed_entry (s := writeFailed left w s) kind
    exact ⟨_, queued ht, job, slots, damaged, others⟩
  · obtain ⟨job, slots, -⟩ := jobFailed_plain (q := q) (s := writeFailed left w s) (by rw [hour]; rfl) rfl
    obtain ⟨assocs, strip, notices⟩ := jobFailed_hour (s := writeFailed left w s) hour
    exact ⟨_, queued ht, job, slots, assocs, strip, notices⟩
  · obtain ⟨state, result, notice⟩ := jobFailed_storing (s := writeFailed left w s) hc hd hs hv
    exact ⟨_, queued ht, state, result, notice⟩
  · have faults : failTask r (writeFailed left w s) = enterFaulted (writeFailed left w s) := by
      rcases ht with ht | ⟨x, ht⟩ <;> rw [failTask, ht]
    have faulted := faulted_enterFaulted (writeFailed left w s)
    rw [← faults] at faulted
    refine ⟨_, fails, faulted.device, ?_, faulted.job rfl, faulted.slots, faulted.answered, faulted.unanswered⟩
    rw [faulted.array, hrec]
    rfl
  · subst harm
    let u := writeFailed left (.arm second copy) s
    obtain ⟨job, -, monitor⟩ := jobFailed_plain (q := q) (s := u) (by rw [hjob]; rfl) rfl
    have array : (jobFailed q u).array = failedWrite false (tornWrite left s.array (.arm second copy)) (.arm second copy) := by
      rw [array_jobFailed_arm hjob, ← lost]
      rfl
    have new := armAt_failedWrite second copy (tornWrite left s.array (.arm second copy))
    have old := (armAt_failedWrite_other false second copy _).trans (armAt_tornWrite_other left second copy s.array)
    rw [← array] at new old
    refine ⟨_, queued ht, monitor, new, ?_, job⟩
    cases second <;> exact old

end Sys2Proof.Machine
end

section
/-! PROOFS. The ends of tamper slot items, closing writes and flush items, with their last write matched or failed (R95, R164, R165,
R169, R170, R181, R183). -/

namespace Sys2Proof.Machine

variable {r : Running} {s t : State} {slot : Fin 32} {f : TamperWork → TamperWork}

/-! ### Slot items (R164, R165, R169) -/

/-- The work list as an item that ends is noted in it, unless a newer list has replaced the item's own (R169). -/
def notedWork (stale : Bool) (f : TamperWork → TamperWork) (x : Option TamperWork) : Option TamperWork :=
  if stale then x else x.map f

/-- The state as an item has ended: its bar clear, its end noted in the list (R95, R165). -/
def itemEnded (slot : Fin 32) (stale : Bool) (f : TamperWork → TamperWork) (s : State) : State :=
  { s with
    cache := { s.cache with bars := vset s.cache.bars slot none }
    writer := { s.writer with tamper := notedWork stale f s.writer.tamper } }

theorem clearBar_noteItem (slot : Fin 32) (stale : Bool) (f : TamperWork → TamperWork) (s : State) :
    clearBar slot (noteItem stale f s) = itemEnded slot stale f s := by cases stale <;> rfl

/-- An item that completes is noted as done. -/
def completedIn (slot : Fin 32) (x : TamperWork) : TamperWork := { x with completed := x.completed ++ [slot] }

/-- An item whose write fails is noted for the closing write. -/
def failedIn (slot : Fin 32) (act : TamperAct) (x : TamperWork) : TamperWork := { x with failed := x.failed ++ [(slot, act)] }

theorem completeItem_suspend (slot : Fin 32) (stale : Bool) (s : State) : completeItem slot .suspend stale s =
    setSlot (itemEnded slot stale (completedIn slot) s) slot { slotOf s slot with suspended := true } := by
  rw [completeItem, clearBar_noteItem]
  rfl

theorem completeItem_erase (slot : Fin 32) (stale : Bool) (s : State) :
    completeItem slot .erase stale s = doneRevoke slot false (itemEnded slot stale (completedIn slot) s) := by
  rw [completeItem, clearBar_noteItem]
  rfl

/-- Bars and list after an item has completed. -/
structure ItemListed (slot : Fin 32) (stale : Bool) (f : TamperWork → TamperWork) (s t : State) : Prop where
  bars : t.cache.bars = vset s.cache.bars slot none
  tamper : t.writer.tamper = notedWork stale f s.writer.tamper

theorem itemListed_completeItem (slot : Fin 32) (act : TamperAct) (stale : Bool) (s : State) :
    ItemListed slot stale (completedIn slot) s (completeItem slot act stale s) := by
  cases act with
  | suspend => rw [completeItem_suspend]; exact ⟨rfl, rfl⟩
  | erase =>
    rw [completeItem_erase, doneRevoke]
    exact ⟨(aside_slotErased _ _).bars, (beside_slotErased (beside_refl _)).tamper⟩

theorem tamper_portSettle (s : State) : (portSettle s).writer.tamper = s.writer.tamper := (portSettle_settled s).tamper

theorem ItemListed.settled {stale : Bool} (h : ItemListed slot stale f s t) : ItemListed slot stale f s (portSettle t) :=
  ⟨(bars_portSettle t).trans h.bars, (tamper_portSettle t).trans h.tamper⟩

/-- A SUSPEND item sets the flag of its slot alone (R164). -/
theorem slots_suspendItem (slot : Fin 32) (stale : Bool) (s : State) :
    (portSettle (completeItem slot .suspend stale s)).slots = vset s.slots slot { slotOf s slot with suspended := true } := by
  rw [slots_portSettle, completeItem_suspend]
  rfl

/-- An ERASE item does to its slot what a REVOKE_SLOT that keeps the binding does (R164). -/
theorem slotOf_eraseItem (slot : Fin 32) (stale : Bool) (s : State) :
    slotOf (portSettle (completeItem slot .erase stale s)) slot = revokeImg false (slotOf s slot) := by
  rw [slotOf_of_slots (slots_portSettle _), completeItem_erase, slotOf_doneRevoke]
  rfl

theorem slotOf_eraseItem_other {i : Fin 32} (h : i ≠ slot) (stale : Bool) (s : State) :
    slotOf (portSettle (completeItem slot .erase stale s)) i = slotOf s i := by
  rw [slotOf_of_slots (slots_portSettle _), completeItem_erase, slotOf_doneRevoke_other h]
  rfl

/-! ### The closing write (R165, R170) -/

theorem completeClosing_left {x : TamperWork} (hx : s.writer.tamper = some x) (h : x.items ≠ []) : completeClosing s = s := by
  simp only [completeClosing, hx, List.isEmpty_iff, h, if_false]

/-- The state without a tamper work list. -/
def listEnded (s : State) : State := { s with writer := { s.writer with tamper := none } }

theorem completeClosing_ends {x : TamperWork} (hx : s.writer.tamper = some x) (h : x.items = []) : completeClosing s =
    if x.resumed then raise (tamperNotice .resumed x.record x.completed) (listEnded s) else listEnded s := by
  simp only [completeClosing, hx, h, List.isEmpty_nil, if_true]
  rfl

theorem completeClosing_parts (s : State) : ∃ x ns,
    completeClosing s = { s with writer := { s.writer with tamper := x }, notices := ns } := by
  cases hx : s.writer.tamper with
  | none => exact ⟨none, s.notices, by simp only [completeClosing, hx]; rw [← hx]⟩
  | some x =>
    by_cases h : x.items = []
    · rw [completeClosing_ends hx h]
      split
      · exact ⟨none, _, rfl⟩
      · exact ⟨none, s.notices, rfl⟩
    · exact ⟨some x, s.notices, by rw [completeClosing_left hx h, ← hx]⟩

/-- The closing write of a list with items left changes nothing. -/
theorem closing_left {x : TamperWork} (hx : s.writer.tamper = some x) (h : x.items ≠ []) :
    (portSettle (completeClosing s)).writer.tamper = some x ∧ (portSettle (completeClosing s)).notices = s.notices := by
  rw [tamper_portSettle, notices_portSettle, completeClosing_left hx h]
  exact ⟨hx, rfl⟩

/-- The closing write of a list without items left ends it, and raises the notice of a list of the loader's. -/
theorem closing_ends {x : TamperWork} (hx : s.writer.tamper = some x) (h : x.items = []) :
    (portSettle (completeClosing s)).writer.tamper = none ∧
    (x.resumed = false → (portSettle (completeClosing s)).notices = s.notices) ∧
    (x.resumed = true → tamperNotice .resumed x.record x.completed ∈ (portSettle (completeClosing s)).notices) := by
  rw [tamper_portSettle, notices_portSettle, completeClosing_ends hx h]
  cases x.resumed
  · exact ⟨rfl, fun _ => rfl, nofun⟩
  · exact ⟨rfl, nofun, fun _ => mem_raiseIn _ _⟩

theorem slots_closing (s : State) : (portSettle (completeClosing s)).slots = s.slots := by
  obtain ⟨x, ns, parts⟩ := completeClosing_parts s
  rw [slots_portSettle, parts]

/-! ### Flush items (R87, R183) -/

theorem highWater_flushed {i : Fin 32} {c : CellId} {x : CellImg} (hx : cellOf (slotOf s i) c = some x) (g v : Nat) :
    (cellOf (slotOf (portSettle (doneHigh i c g v s)) i) c).map (·.highWater) = some (max x.highWater v) := by
  rw [slotOf_of_slots (slots_portSettle _), slotOf_doneHigh, cellOf_setCell, hx]
  rfl

theorem slotOf_flushed_other {i j : Fin 32} (h : j ≠ i) (c : CellId) (g v : Nat) (s : State) :
    slotOf (portSettle (doneHigh i c g v s)) j = slotOf s j := by
  rw [slotOf_of_slots (slots_portSettle _)]
  exact slotOf_setSlot_other h

/-- The entry of a flush item is clean where its h is the value written (R87). -/
theorem findEntry_flushed {i : Fin 32} {g : Nat} {e : Entry} (hd : s.device ≠ .faulted) (he : findEntry s i g = some e)
    (c : CellId) (v : Nat) : findEntry (portSettle (doneHigh i c g v s)) i g =
      some (if e.h = v then { e with dirty := false, flushReq := false } else e) := by
  rw [portSettle_of_not_faulted (s := doneHigh i c g v s) hd, findEntry_doneHigh, he]
  rfl

/-! ### The task as a whole -/

/-- What the completion of a task of the tamper or the flush list leaves. -/
structure ItemFrame (s t : State) : Prop where
  job : t.writer.job = s.writer.job
  assocs : t.assocs = s.assocs

theorem itemFrame_doneRevoke (hj : s.writer.job = none) (slot : Fin 32) (unbind : Bool) :
    ItemFrame s (doneRevoke slot unbind s) := by
  have erased : Beside (setSlot s slot (revokeImg unbind (slotOf s slot))) (doneRevoke slot unbind s) :=
    beside_slotErased (beside_refl _)
  exact ⟨(erased.job_none hj).trans hj.symm, erased.assocs⟩

theorem itemFrame_completeItem (hj : s.writer.job = none) (slot : Fin 32) (act : TamperAct) (stale : Bool) :
    ItemFrame s (completeItem slot act stale s) := by
  cases act with
  | suspend => rw [completeItem_suspend]; exact ⟨rfl, rfl⟩
  | erase =>
    rw [completeItem_erase]
    have erased := itemFrame_doneRevoke (s := itemEnded slot stale (completedIn slot) s) hj slot false
    exact ⟨erased.job, erased.assocs⟩

theorem itemFrame_completeTask (h : ∀ q, r.task ≠ .queued q) (hj : s.writer.job = none) : ItemFrame s (completeTask r s) := by
  unfold completeTask
  split
  · rename_i q hq
    exact absurd hq (h q)
  · exact ⟨rfl, rfl⟩
  · exact ⟨rfl, rfl⟩
  · exact itemFrame_completeItem hj _ _ _
  · obtain ⟨x, ns, parts⟩ := completeClosing_parts s
    rw [parts]
    exact ⟨rfl, rfl⟩

/-- A task other than a queued job leaves no task in hand as it fails. -/
theorem job_failTask (h : ∀ q, r.task ≠ .queued q) (hj : s.writer.job = none) :
    (portSettle (failTask r s)).writer.job = none := by
  unfold failTask
  split
  · rename_i q hq
    exact absurd hq (h q)
  · exact (quarantinedFrom_settled _ s).job hj
  · exact (faulted_enterFaulted s).job hj
  · rw [clearBar_noteItem]
    exact (quarantinedFrom_settled _ _).job hj
  · exact (faulted_enterFaulted s).job hj

/-- The state after the last write of a task has matched. -/
def taskMatched (r : Running) (w : ArrayWrite) (s : State) : State := portSettle (completeTask r (lastWritten w s))

/-- Settles O57, by the kind of the task: a slot item, a closing write or a flush item completes, or a slot or flush item fails. -/
theorem tamperAndFlushItemsEnd : Obligations.TamperAndFlushItemsEnd := by
  unfold Obligations.TamperAndFlushItemsEnd
  intro r w s hrun hj hw unqueued
  refine ⟨?_, fun left again => ?_⟩
  · let u := lastWritten w s
    have step : exec (.storeWriteReadBack .matched) s = .next (taskMatched r w s) := by
      rw [exec_readBack hrun hj hw, writeEnd_last, taskMatched]
    have frame : ItemFrame u (completeTask r u) := itemFrame_completeTask unqueued rfl
    have settles : Beside (completeTask r u) (taskMatched r w s) := beside_portSettle (beside_refl _)
    refine ⟨_, step, settles.job_none frame.job, array_matched r w [] s, settles.assocs.trans frame.assocs,
      fun slot act ht => ?_, fun record x ht hx => ?_, fun it x ht hx => ?_⟩
    · have done : taskMatched r w s = portSettle (completeItem slot act r.stale u) := by
        simp only [taskMatched, completeTask, ht]; rfl
      rw [done]
      have listed := (itemListed_completeItem slot act r.stale u).settled
      refine ⟨listed.bars, listed.tamper, ?_, ?_⟩
      · rintro rfl
        exact slots_suspendItem slot r.stale u
      · rintro rfl
        rw [slotOf_eraseItem]
        refine ⟨rfl, rfl, rfl, rfl, rfl, fun i hi => ?_⟩
        rw [slotOf_eraseItem_other hi]
        rfl
    · have done : taskMatched r w s = portSettle (completeClosing u) := by simp only [taskMatched, completeTask, ht]; rfl
      rw [done]
      exact ⟨slots_closing u, closing_left (s := u) hx, closing_ends (s := u) hx⟩
    · have done : taskMatched r w s = portSettle (doneHigh it.slot it.cell it.gen it.value u) := by
        simp only [taskMatched, completeTask, ht]; rfl
      rw [done]
      refine ⟨highWater_flushed (s := u) hx it.gen it.value, fun i hi => slotOf_flushed_other hi _ _ _ u, ?_,
        fun e hd he => findEntry_flushed (s := u) hd he it.cell it.value⟩
      rw [notices_portSettle]
      rfl
  · let u := writeFailed left w s
    refine ⟨_, exec_failed hrun hj hw again left, job_failTask unqueued rfl, fun slot act ht => ?_, fun it ht => ?_⟩
    · have fails : failTask r u = quarantineSlot slot (itemEnded slot r.stale (failedIn slot act) u) := by
        rw [← clearBar_noteItem]
        simp only [failTask, ht]
        rfl
      rw [fails]
      have done := quarantinedFrom_settled slot (itemEnded slot r.stale (failedIn slot act) u)
      exact ⟨done.marked, done.noticed, done.bars, done.tamper, done.slots⟩
    · have fails : failTask r u = quarantineSlot it.slot u := by simp only [failTask, ht]
      rw [fails]
      have done := quarantinedFrom_settled it.slot u
      exact ⟨done.marked, done.noticed, done.slots⟩

end Sys2Proof.Machine
end

section
/-! PROOFS. What no command but a reset changes: the array, beside the write in hand, and the device states LOADING and FAULTED
(R173, R175, R180, R184, R207). -/

namespace Sys2Proof.Machine

variable {s t : State}

/-! ### The commands that are no reset -/

/-- A change of lines, warning and monitor keeps the rest. -/
theorem kept_lines (pins : Pins) (warning : Warning) (monitor : Monitor) (s : State) :
    Kept { s with pins := pins } { s with pins := pins, warning := warning, monitor := monitor } :=
  kept_monitor monitor (kept_warning warning (kept_refl { s with pins := pins }))

/-- A command that is no reset keeps all that `Kept` names but the lines, the clock and the array, and the array changes with a
read-back alone. -/
theorem kept_exec_beside {c : Instr} (hc : isReset c = false) (e : exec c s = .next t) :
    ∃ pins clock array, Kept { s with pins := pins, clock := clock, array := array } t ∧
      ((∀ b, c ≠ .storeWriteReadBack b) → array = s.array) := by
  cases c
  case stickEdge =>
    simp only [exec, execStickEdge] at e
    split at e
    · split at e <;> cases e
      · exact ⟨_, _, _, kept_refl _, fun _ => rfl⟩
      · unfold hourEdge
        split
        · exact ⟨_, _, _, kept_hourBoundary, fun _ => rfl⟩
        · exact ⟨_, _, _, kept_refl _, fun _ => rfl⟩
    · cases e; exact ⟨_, _, _, kept_refl _, fun _ => rfl⟩
  case hourBoundary =>
    simp only [exec, execHourBoundary] at e
    split at e <;> rw [← Host.Outcome.next.inj e]
    · exact ⟨_, _, _, kept_hourBoundary, fun _ => rfl⟩
    · exact ⟨_, _, _, kept_refl _, fun _ => rfl⟩
  case storeWriteReadBack b =>
    simp only [exec, execStoreWriteReadBack] at e
    split at e
    · cases e; exact ⟨_, _, _, kept_refl _, fun _ => rfl⟩
    · split at e
      · cases e; exact ⟨_, _, _, kept_refl _, fun _ => rfl⟩
      · split at e <;> cases e
        · obtain ⟨array, kept⟩ := kept_writeEnd
          exact ⟨_, _, array, kept_portSettle kept, fun other => absurd rfl (other b)⟩
        · exact ⟨_, _, _, kept_refl _, fun _ => rfl⟩
  case tamperInputLevelChange =>
    simp only [exec, execTamperInputLevelChange] at e
    split at e <;> cases e
    · exact ⟨_, _, _, kept_lines _ _ _ s, fun _ => rfl⟩
    · exact ⟨_, _, _, kept_refl _, fun _ => rfl⟩
  case pfailAssert =>
    simp only [exec, execPfailAssert] at e
    split at e
    · cases e; exact ⟨_, _, _, kept_refl _, fun _ => rfl⟩
    · split at e <;> cases e
      case h_1 d | h_2 d =>
        split
        · exact ⟨_, _, _, kept_lines _ _ _ s, fun _ => rfl⟩
        · exact ⟨_, _, _, kept_warningTaken (by simp [d]) (kept_lines _ _ _ s), fun _ => rfl⟩
      case h_5 => exact ⟨_, _, _, kept_refl _, fun _ => rfl⟩
      all_goals exact ⟨_, _, _, kept_lines _ _ _ s, fun _ => rfl⟩
  case pfailDeasserted => cases e; exact ⟨_, _, _, kept_lines _ _ _ s, fun _ => rfl⟩
  all_goals exact ⟨_, _, _, kept_exec _ hc nofun nofun nofun nofun nofun nofun e, fun _ => rfl⟩

/-- Settles O7: `Kept` holds of the device state what the statement asks. -/
theorem onlyResetsEnterLoadingOrLeaveFaulted : Obligations.OnlyResetsEnterLoadingOrLeaveFaulted := by
  intro c s t e hc
  obtain ⟨_, _, _, kept, -⟩ := kept_exec_beside hc e
  exact ⟨kept.loading, kept.faulted⟩

/-! ### The write in hand (R173, R180) -/

/-- The array is as it was, or differs by this write, whole or spoilt. -/
def DiffersBy (w : ArrayWrite) (a b : StoreArray) : Prop := b = a ∨ b = putWrite true a w ∨ b = putWrite false a w

theorem differsBy_tornWrite (left : Torn) (a : StoreArray) (w : ArrayWrite) : DiffersBy w a (tornWrite left a w) := by
  cases left with
  | kept => exact .inl rfl
  | written => exact .inr (.inl rfl)
  | spoilt => exact .inr (.inr rfl)

/-- A write of the tamper record or of a copy of the arm record leaves nothing of what its item held. -/
theorem putWrite_tornWrite_tamper (left : Torn) (a : StoreArray) (r : TamperRecord) :
    putWrite false (tornWrite left a (.tamper r)) (.tamper r) = putWrite false a (.tamper r) := by cases left <;> rfl

theorem putWrite_tornWrite_arm (left : Torn) (a : StoreArray) (second : Bool) (c : ArmCopy) :
    putWrite false (tornWrite left a (.arm second c)) (.arm second c) = putWrite false a (.arm second c) := by
  cases left <;> cases second <;> rfl

/-- A second mismatch leaves the write torn, or spoils it (R165, R171). -/
theorem differsBy_failedWrite (lost : Bool) (left : Torn) (a : StoreArray) (w : ArrayWrite) :
    DiffersBy w a (failedWrite lost (tornWrite left a w) w) := by
  cases w
  case tamper r => exact .inr (.inr (putWrite_tornWrite_tamper left a r))
  case arm second c =>
    rw [failedWrite_arm]
    split
    · exact .inr (.inr (putWrite_tornWrite_arm left a second c))
    · exact differsBy_tornWrite left a _
  all_goals exact differsBy_tornWrite left a _

/-- The end of a write changes the array by that write. -/
theorem differsBy_writeEnd (r : Running) (w : ArrayWrite) (rest : List ArrayWrite) (b : ReadBack) (s : State) :
    DiffersBy w s.array (writeEnd r w rest b s).array := by
  cases b with
  | matched =>
    have kept : Kept { s with array := putWrite true s.array w } (writeEnd r w rest .matched s) := kept_nextWrite (kept_refl _)
    exact .inr (.inl kept.array)
  | mismatched left =>
    cases retried : r.retried with
    | false => rw [writeEnd_retried retried]; exact differsBy_tornWrite left s.array w
    | true =>
      have kept : Kept (writeFailed left w s) (writeEnd r w rest (.mismatched left) s) :=
        writeEnd_failed retried w rest left s ▸ kept_failTask (kept_refl _)
      rw [kept.array]
      exact differsBy_failedWrite _ left s.array w

/-- A change of the array that is no more than the write in hand, as `OnlyWritesChangeTheArray` says it. -/
def ByWriteInHand (s : State) (a : StoreArray) : Prop :=
  a = s.array ∨ ∃ r w rest, s.writer.job = some r ∧ r.writes = w :: rest ∧
    (a = putWrite true s.array w ∨ a = putWrite false s.array w)

theorem DiffersBy.byWriteInHand {r : Running} {w : ArrayWrite} {rest : List ArrayWrite} {a : StoreArray}
    (h : DiffersBy w s.array a) (hj : s.writer.job = some r) (hw : r.writes = w :: rest) : ByWriteInHand s a :=
  h.imp_right fun h => ⟨r, w, rest, hj, hw, h⟩

/-- A reset or a loss of power tears the write in hand (R180). -/
theorem byWriteInHand_tornArray (torn : Torn) (s : State) : ByWriteInHand s (tornArray torn s) := by
  unfold tornArray
  split
  · exact .inl rfl
  · split
    · exact .inl rfl
    · exact (differsBy_tornWrite torn s.array _).byWriteInHand ‹_› ‹_›

theorem byWriteInHand_readBack {b : ReadBack} (e : exec (.storeWriteReadBack b) s = .next t) : ByWriteInHand s t.array := by
  simp only [exec, execStoreWriteReadBack] at e
  split at e
  · cases e; exact .inl rfl
  · split at e
    · cases e; exact .inl rfl
    · split at e <;> cases e
      · rw [array_portSettle]
        exact (differsBy_writeEnd _ _ _ b s).byWriteInHand ‹_› ‹_›
      · exact .inl rfl

theorem array_runLoader (s : State) : (runLoader s).array = s.array := by
  unfold runLoader
  dsimp only
  split <;> rfl

/-- The part starts, or runs again, with the array it has (R185). -/
theorem array_powerOnReset (e : exec .powerOnReset s = .next t) : t.array = s.array := by
  simp only [exec, execPowerOnReset] at e
  cases e
  split
  · rfl
  · exact array_runLoader _

theorem array_nrstRelease (e : exec .nrstRelease s = .next t) : t.array = s.array := by
  simp only [exec, execNrstRelease] at e
  split at e <;> cases e
  · split
    · exact array_runLoader _
    · rfl
  · rfl

/-- The array changes by the write in hand alone, with a read-back, an NRST reset or a loss of power (R173, R180). -/
theorem array_exec {c : Instr} (e : exec c s = .next t) : t.array = s.array ∨ ByWriteInHand s t.array ∧
    ((∃ b, c = .storeWriteReadBack b) ∨ (∃ torn, c = .nrstReset torn) ∨ ∃ torn, c = .powerLoss torn) := by
  cases hc : isReset c with
  | false =>
    by_cases hb : ∃ b, c = .storeWriteReadBack b
    · obtain ⟨b, rfl⟩ := hb
      exact .inr ⟨byWriteInHand_readBack e, .inl ⟨b, rfl⟩⟩
    · obtain ⟨_, _, _, kept, same⟩ := kept_exec_beside hc e
      exact .inl (kept.array.trans (same fun b h => hb ⟨b, h⟩))
  | true =>
    cases c <;> first | (cases hc; done) | skip
    case powerOnReset => exact .inl (array_powerOnReset e)
    case nrstRelease => exact .inl (array_nrstRelease e)
    case nrstReset torn => cases e; exact .inr ⟨byWriteInHand_tornArray torn s, .inr (.inl ⟨torn, rfl⟩)⟩
    case powerLoss torn => cases e; exact .inr ⟨byWriteInHand_tornArray torn s, .inr (.inr ⟨torn, rfl⟩)⟩

/-- No write goes to the identity record (R173). -/
theorem identity_putWrite (whole : Bool) (a : StoreArray) (w : ArrayWrite) : (putWrite whole a w).identity = a.identity := by
  cases w with
  | arm second c => cases second <;> rfl
  | _ => rfl

theorem ByWriteInHand.identity {a : StoreArray} (h : ByWriteInHand s a) : a.identity = s.array.identity := by
  obtain rfl | ⟨_, w, _, _, _, rfl | rfl⟩ := h
  · rfl
  all_goals exact identity_putWrite _ _ w

/-- Settles O5, by the commands that can end or tear a write; every other command keeps the array. -/
theorem onlyWritesChangeTheArray : Obligations.OnlyWritesChangeTheArray := by
  intro c s t e
  obtain same | ⟨inHand, who⟩ := array_exec e
  · exact ⟨congrArg _ same, .inl same⟩
  · exact ⟨inHand.identity, inHand.imp_right fun ⟨r, w, rest, hj, hw, h⟩ => ⟨r, w, rest, hj, hw, h, who⟩⟩

/-! ### Two positions (R175) -/

/-- Settles O58: the position written is an invalid one or that of the smaller value, so the other keeps the old value. -/
theorem tornWritesKeepTwoPositionFields : Obligations.TornWritesKeepTwoPositionFields := by
  rintro ⟨first, second⟩ old v whole known raises
  cases first with
  | none =>
    cases second with
    | none => cases known
    | some b =>
      obtain rfl : b = old := Option.some.inj known
      cases whole
      · rfl
      · exact congrArg some (max_eq_left raises)
  | some a =>
    cases second with
    | none =>
      obtain rfl : a = old := Option.some.inj known
      cases whole
      · rfl
      · exact congrArg some (max_eq_right raises)
    | some b =>
      obtain rfl : max a b = old := Option.some.inj known
      by_cases smaller : b ≤ a
      all_goals
        have position : writesSecond ⟨some a, some b⟩ = decide (b ≤ a) := rfl
        cases whole <;> simp [position, smaller, setPos, ifWhole, twoValue] <;> omega

end Sys2Proof.Machine
end

section
/-! PROOFS. The lines of the power-fail warning and the end of a power-fail hold (R202 to R204). -/

namespace Sys2Proof.Machine

variable {s : State}

/-- While the part runs an assertion is taken as the device state has it (R202). -/
theorem pfailAssert_takes (hrun : running s = true) :
    ¬(!running { s with pins := { s.pins with pfail := true } }) = true := by
  have lines : running { s with pins := { s.pins with pfail := true } } = true := hrun
  rw [lines]
  nofun

/-- Without a part that runs, and in LOADING, an assertion changes the line alone (R185, R203). -/
theorem exec_pfailAssert_line (h : running s = false ∨ s.device = .loading) :
    exec .pfailAssert s = .next { s with pins := { s.pins with pfail := true } } := by
  change execPfailAssert s = _
  unfold execPfailAssert
  dsimp only
  cases hrun : running s with
  | false => exact if_pos (congrArg not hrun)
  | true =>
    rw [if_neg (pfailAssert_takes hrun), h.resolve_left (by simp [hrun])]

/-- In a power-fail hold an assertion cancels the withdrawal that runs (R202). -/
theorem exec_pfailAssert_hold (hrun : running s = true) (hold : s.device = .holding .power) :
    exec .pfailAssert s = .next { s with pins := { s.pins with pfail := true }, warning := ⟨true, false⟩ } := by
  change execPfailAssert s = _
  unfold execPfailAssert
  dsimp only
  rw [if_neg (pfailAssert_takes hrun), hold]

/-- In FAULTED an assertion has no effect on whether the warning is taken (R203). -/
theorem exec_pfailAssert_faulted (hrun : running s = true) (faulted : s.device = .faulted) :
    exec .pfailAssert s = .next { s with
      pins := { s.pins with pfail := true }, warning := ⟨s.warning.taken, false⟩ } := by
  change execPfailAssert s = _
  unfold execPfailAssert
  dsimp only
  rw [if_neg (pfailAssert_takes hrun), faulted]

/-- The device serves again: the examination of the slots and the room given out leave what the array says as it is (R204). -/
theorem resumed_beside (s : State) : Beside { s with device := .serving } (resumeServing s) :=
  beside_giveAll (beside_foldl (fun _ _ => beside_markOverlap (beside_markActivation (beside_refl _))) _ (beside_refl _))

theorem exec_pfailWithdraw_hold (hrun : running s = true) (withdrawn : s.warning = ⟨true, true⟩)
    (hold : s.device = .holding .power) :
    exec .pfailWithdraw s = .next (resumeServing { s with warning := ⟨false, false⟩ }) := by
  simp [exec, execPfailWithdraw, hrun, withdrawn, hold, servingOrHolding]

/-- A withdrawal that does not run, or finds a part that neither serves nor holds, changes nothing (R203). -/
theorem exec_pfailWithdraw_none
    (h : s.device = .loading ∨ s.device = .faulted ∨ running s = false ∨ s.warning ≠ ⟨true, true⟩) :
    exec .pfailWithdraw s = .next s := by
  refine if_neg fun takes => ?_
  simp only [Bool.and_eq_true] at takes
  obtain ⟨⟨⟨hrun, serves⟩, taken⟩, withdrawing⟩ := takes
  obtain d | d | stopped | other := h
  · simp [servingOrHolding, d] at serves
  · simp [servingOrHolding, d] at serves
  · simp [hrun] at stopped
  · exact other (congrArg₂ Warning.mk taken withdrawing)

/-- Settles O33, by the line of each event and, in the hold, by what the return to SERVING keeps. -/
theorem withdrawnWarningReturnsToServing : Obligations.WithdrawnWarningReturnsToServing := by
  intro s
  refine ⟨rfl, exec_pfailAssert_line, exec_pfailAssert_hold, exec_pfailAssert_faulted, fun hrun withdrawn hold => ?_,
    exec_pfailWithdraw_none⟩
  have beside := resumed_beside { s with warning := ⟨false, false⟩ }
  have kept := kept_resumeServing (s := { s with warning := ⟨false, false⟩ }) (by simp [hold]) (kept_refl _)
  exact ⟨_, exec_pfailWithdraw_hold hrun withdrawn hold, beside.device, beside.warning, kept.array, kept.clock,
    beside.assocs, beside.monitor, beside.slots⟩

end Sys2Proof.Machine
end

section
/-! PROOFS. A RESERVE or a HIGHWATER is asked for, and a place for a fill is found: each as the statement on room says it (R80, R84,
R85, R177). -/

namespace Sys2Proof.Machine

variable {s t : State}

/-! ### Counter jobs (R177) -/

theorem counterKeyOf_reserve {i : Fin 32} {c : CellId} {q : QJob} :
    counterKeyOf q.job = some (true, i, c) ↔ isReserveFor i c q = true := by
  rw [isReserveFor_iff]
  cases hj : q.job <;> simp [counterKeyOf]

theorem counterKeyOf_high {i : Fin 32} {c : CellId} {q : QJob} :
    counterKeyOf q.job = some (false, i, c) ↔ isHighFor i c q = true := by
  unfold isHighFor
  cases hj : q.job <;> simp [counterKeyOf]

/-- A RESERVE or HIGHWATER with this value. -/
def CounterJob (j : StoreJob) (v : Nat) : Prop :=
  (∃ i c g, j = .reserve i c g v) ∨ ∃ i c g, j = .highWater i c g v

/-- What is asked for is coalesced into the queued job of its kind, slot and cell, or joins a queue with a free place (R177). -/
theorem asked_iff {queue after : List QJob} {j : StoreJob} {v : Nat} {port hold : Bool} {same : QJob → Bool}
    (hv : CounterJob j v) (hs : ∀ x : QJob, same x = true ↔ counterKeyOf x.job = counterKeyOf j) :
    Asked queue ⟨j, none, port, hold⟩ after ↔
      queue.any same = true ∧ after = queue.map (fun x => if same x then coalesce v port hold x else x) ∨
      ¬queue.any same = true ∧ queue.length < 8 ∧ after = queue ++ [⟨j, none, port, hold⟩] := by
  have any : queue.any same = true ↔ ∃ x ∈ queue, counterKeyOf x.job = counterKeyOf j := by
    simp only [List.any_eq_true, hs]
  rw [any]
  unfold Asked
  refine or_congr (and_congr_right' (Eq.congr_right (List.map_congr_left fun x _ => ?_))) (and_congr_left' (by simp))
  by_cases own : same x = true
  · rw [if_pos ((hs x).1 own), if_pos own]
    obtain ⟨i, c, g, rfl⟩ | ⟨i, c, g, rfl⟩ := hv <;> obtain ⟨k, ctx, p, f⟩ := x <;> cases k <;> rfl
  · rw [if_neg (mt (hs x).2 own), if_neg own]

/-- A counter job is placed exactly where `Asked` says so, and the queue alone changes (R177). -/
theorem requestCounter_iff {j : StoreJob} {v : Nat} {port hold : Bool} {same : QJob → Bool} (hd : s.device ≠ .faulted)
    (hv : CounterJob j v) (hs : ∀ x : QJob, same x = true ↔ counterKeyOf x.job = counterKeyOf j) :
    requestCounter same j v port hold s = some t ↔
      ∃ queue, Asked s.writer.queue ⟨j, none, port, hold⟩ queue ∧ t = setQueue queue s := by
  have room : hasRoom s = true ↔ s.writer.queue.length < 8 := by simp [hasRoom, hd]
  simp only [asked_iff hv hs]
  unfold requestCounter
  by_cases queued : s.writer.queue.any same = true
  · rw [if_pos queued]
    simp only [queued, true_and, not_true_eq_false, false_and, or_false, exists_eq_left, Option.some.injEq]
    exact eq_comm
  · rw [if_neg queued]
    by_cases free : s.writer.queue.length < 8
    · rw [if_pos (room.2 free)]
      simp only [queued, free, Bool.false_eq_true, false_and, not_false_eq_true, true_and, false_or, exists_eq_left,
        Option.some.injEq]
      exact eq_comm
    · rw [if_neg (mt room.1 free)]
      simp [queued, free]

theorem requestReserve_iff {i : Fin 32} {c : CellId} {g v : Nat} {port : Bool} (hd : s.device ≠ .faulted) :
    requestReserve i c g v port s = some t ↔
      ∃ queue, Asked s.writer.queue ⟨.reserve i c g v, none, port, false⟩ queue ∧ t = setQueue queue s :=
  requestCounter_iff hd (.inl ⟨i, c, g, rfl⟩) fun _ => counterKeyOf_reserve.symm

theorem requestHigh_iff {i : Fin 32} {c : CellId} {g v : Nat} {port hold : Bool} (hd : s.device ≠ .faulted) :
    requestHigh i c g v port hold s = some t ↔
      ∃ queue, Asked s.writer.queue ⟨.highWater i c g v, none, port, hold⟩ queue ∧ t = setQueue queue s :=
  requestCounter_iff hd (.inr ⟨i, c, g, rfl⟩) fun _ => counterKeyOf_high.symm

/-- Where a HIGHWATER has no place no queue is the asked one. -/
theorem requestHigh_none_iff {i : Fin 32} {c : CellId} {g v : Nat} {port hold : Bool} (hd : s.device ≠ .faulted) :
    requestHigh i c g v port hold s = none ↔
      ∀ queue, ¬Asked s.writer.queue ⟨.highWater i c g v, none, port, hold⟩ queue := by
  rw [Option.eq_none_iff_forall_ne_some]
  simp only [ne_eq, requestHigh_iff hd, not_exists, not_and]
  exact ⟨fun h queue asked => h _ queue asked rfl, fun h _ queue asked => absurd asked (h queue)⟩

theorem updEntry_changed (i : Fin 32) (g : Nat) (f : Entry → Entry) (s : State) :
    updEntry i g f s = { s with cache := { s.cache with entries := changed s.cache.entries i g f } } := by
  simp [updEntry, changed]

/-! ### The place of a fill (R80, R84, R85) -/

theorem evictable_canGo {e : Entry} : evictable e = true ↔ CanGo e := evictable_iff

theorem canGo_of_victim {v : Entry} (h : victim s = some v) :
    ∃ newer older, s.cache.entries = newer ++ v :: older ∧ CanGo v ∧ ∀ x ∈ older, ¬CanGo x := by
  obtain ⟨goes, older, newer, order, others⟩ := List.find?_eq_some_iff_append.1 h
  refine ⟨newer.reverse, older.reverse, ?_, evictable_canGo.1 goes, fun x hx can => ?_⟩
  · rw [← List.reverse_reverse s.cache.entries, order]
    simp
  · have stays := others x (List.mem_reverse.1 hx)
    simp [evictable_canGo.2 can] at stays

theorem victim_of_canGo {v : Entry} {newer older : List Entry} (order : s.cache.entries = newer ++ v :: older)
    (goes : CanGo v) (last : ∀ x ∈ older, ¬CanGo x) : victim s = some v :=
  victim_eq order (evictable_canGo.2 goes) fun x hx => Bool.eq_false_iff.2 (mt evictable_canGo.1 (last x hx))

theorem victim_none (h : victim s = none) {v : Entry} (hv : v ∈ s.cache.entries) : ¬CanGo v := fun goes =>
  List.find?_eq_none.1 h v (List.mem_reverse.2 hv) (evictable_canGo.2 goes)

/-- What finding a place leaves: entries and queue change, and the values that flush items take over. -/
structure PlaceMade (s t : State) : Prop where
  found : PlaceFound s t.cache.entries t.writer.queue
  waits : t.cache.waits = s.cache.waits
  bars : t.cache.bars = s.cache.bars
  job : t.writer.job = s.writer.job
  engine : t.engine = s.engine
  slots : t.slots = s.slots
  port : t.port = s.port
  renewal : t.renewal = s.renewal
  array : t.array = s.array
  notices : t.notices = s.notices

theorem placeMade_removeEntry {u : State} {v : Entry} {queue : List QJob} (hu : u = setQueue queue s)
    (found : PlaceFound s (s.cache.entries.filter fun e => !(e.slot == v.slot && e.gen == v.gen)) queue) :
    PlaceMade s (removeEntry v.slot v.gen u) := by
  subst hu
  exact ⟨found, rfl, rfl, rfl, rfl, rfl, rfl, rfl, rfl, rfl⟩

theorem placeMade_of_makePlace (hd : s.device ≠ .faulted) (h : makePlace s = some t) : PlaceMade s t := by
  by_cases free : s.cache.entries.length < 6
  · rw [makePlace_free free] at h
    cases h
    exact ⟨.inl ⟨free, rfl, rfl⟩, rfl, rfl, rfl, rfl, rfl, rfl, rfl, rfl, rfl⟩
  have full : 6 ≤ s.cache.entries.length := Nat.not_lt.1 free
  cases hv : victim s with
  | none => simp [makePlace, free, hv] at h
  | some v =>
    obtain ⟨newer, older, order, goes, last⟩ := canGo_of_victim hv
    cases dirty : unclean v with
    | false =>
      rw [makePlace_clean full hv dirty] at h
      cases h
      obtain ⟨clean, unasked⟩ := Bool.or_eq_false_iff.1 dirty
      exact placeMade_removeEntry (queue := s.writer.queue) rfl
        (.inr ⟨full, newer, v, older, order, goes, last, rfl, .inl ⟨clean, unasked, rfl⟩⟩)
    | true =>
      rw [makePlace_unclean full hv dirty] at h
      obtain ⟨u, asks, rfl⟩ := Option.map_eq_some_iff.1 h
      obtain ⟨queue, asked, hu⟩ := (requestHigh_iff hd).1 asks
      exact placeMade_removeEntry hu
        (.inr ⟨full, newer, v, older, order, goes, last, rfl, .inr ⟨Bool.or_eq_true_iff.1 dirty, asked⟩⟩)

theorem not_placeFound_of_makePlace (hd : s.device ≠ .faulted) (h : makePlace s = none) (entries : List Entry)
    (queue : List QJob) : ¬PlaceFound s entries queue := by
  rintro (⟨free, -⟩ | ⟨full, newer, v, older, order, goes, last, -, hq⟩)
  · simp [makePlace_free free] at h
  have hv := victim_of_canGo order goes last
  obtain ⟨clean, unasked, -⟩ | ⟨dirty, asked⟩ := hq
  · simp [makePlace_clean full hv (by simp [unclean, clean, unasked])] at h
  · rw [makePlace_unclean full hv (Bool.or_eq_true_iff.2 dirty), Option.map_eq_none_iff, requestHigh_none_iff hd] at h
    exact h queue asked

end Sys2Proof.Machine
end

section
/-! PROOFS. Room is given to those who wait: what each place in the order of R178 serves, and the order itself (R27, R37, R44, R80,
R85, R86, R88, R151, R157, R178). -/

namespace Sys2Proof.Machine

variable {s t : State}

/-! ### The command in flight (R44, R86, R157) -/

theorem hasRoom_serving (hd : s.device = .serving) : hasRoom s = true ↔ s.writer.queue.length < 8 := by
  simp [hasRoom, hd]

theorem portRoom_iff (hd : s.device = .serving) : portRoom s = some t ↔ ServesCommand s t := by
  have live : s.device ≠ .faulted := by simp [hd]
  cases hx : s.port.exec with
  | free | handed | hold => simp only [portRoom, ServesCommand, hx, reduceCtorEq]
  | protect op =>
    simp only [portRoom, ServesCommand, hx]
    by_cases room : op.stage = .room
    · cases hc : cellOf (slotOf s op.slot) op.cell with
      | none => simp [room]
      | some x =>
        simp only [room, if_true, true_and, Option.map_eq_some_iff, requestReserve_iff live, Option.some.injEq,
          setPending, updEntry_changed]
        constructor
        · rintro ⟨_, ⟨queue, asked, rfl⟩, rfl⟩
          exact ⟨x, queue, rfl, asked, rfl⟩
        · rintro ⟨_, queue, rfl, asked, rfl⟩
          exact ⟨_, ⟨queue, asked, rfl⟩, rfl⟩
    · simp [room]
  | unprotect op =>
    simp only [portRoom, ServesCommand, hx]
    by_cases room : op.stage = .room
    · simp only [room, if_true, true_and, Option.map_eq_some_iff, requestHigh_iff live, waitThrough, updEntry_changed]
      constructor
      · rintro ⟨_, ⟨queue, asked, rfl⟩, rfl⟩
        exact ⟨queue, asked, rfl⟩
      · rintro ⟨queue, asked, rfl⟩
        exact ⟨_, ⟨queue, asked, rfl⟩, rfl⟩
    · simp [room]
  | activate op =>
    simp only [portRoom, ServesCommand, hx]
    by_cases served : op.stage = .room ∧ s.writer.queue.length < 8
    · obtain ⟨room, free⟩ := served
      have has := (hasRoom_serving hd).2 free
      simp only [room, free, has, requestActivate, decide_true, Bool.and_self, if_true, true_and, Option.some.injEq]
      exact eq_comm
    · simp only [Bool.and_eq_true, decide_eq_true_eq, hasRoom_serving hd, served, if_false, reduceCtorEq, false_iff]
      exact fun ⟨room, free, _⟩ => served ⟨room, free⟩

/-! ### Fills (R80, R85) -/

theorem place_granted {q : Requester} (free : s.engine.job = none) (alone : lineOf s (otherReq q) = none) (j : EngineJob) :
    place q j s = grantTo q j s := if_pos (by simp [free, alone])

theorem place_waiting {q : Requester} (h : s.engine.job ≠ none ∨ lineOf s (otherReq q) ≠ none) (j : EngineJob) :
    place q j s = setLine q (some j) s := by
  refine if_neg fun granted => ?_
  simp only [Bool.and_eq_true, Option.isNone_iff_eq_none] at granted
  exact h.elim (fun busy => busy granted.1) fun other => other granted.2

theorem lineOf_place_other (q : Requester) (j : EngineJob) (s : State) :
    lineOf (place q j s) (otherReq q) = lineOf s (otherReq q) := by
  unfold place
  split <;> cases q <;> rfl

/-- A waiting fill in the place found for it: it is FILLING and asks for its unwrap job (R80, R98). -/
def fillPlaced (w : WaitFill) (u : State) : State :=
  placeFilling w.line { fillingEntry w.line w.slot w.cell w.gen with pinPort := w.port, pinRenewal := w.renewal }
    { u with cache := { u.cache with waits := u.cache.waits.filter fun x => !isWait w.slot w.gen x } }

theorem servesFill_fillPlaced {forPort : Bool} {before after : List WaitFill} {w : WaitFill} {u : State}
    (order : s.cache.waits = before ++ w :: after) (kind : w.port = forPort) (others : ∀ x ∈ before, x.port ≠ forPort)
    (made : PlaceMade s u) : ServesFill forPort s (fillPlaced w u) := by
  obtain ⟨found, waits, bars, job, engine, slots, port, renewal, array, notices⟩ := made
  let filled : State := { u with cache := { u.cache with
    entries := { fillingEntry w.line w.slot w.cell w.gen with pinPort := w.port, pinRenewal := w.renewal } :: u.cache.entries
    waits := u.cache.waits.filter fun x => !isWait w.slot w.gen x } }
  have placed : fillPlaced w u = place w.line (.fill w.slot w.cell w.gen) filled := rfl
  have line (r : Requester) : lineOf filled r = lineOf s r := by
    cases r
    · exact congrArg (·.portLine) engine
    · exact congrArg (·.renewalLine) engine
  have inUse : filled.engine = s.engine := engine
  rw [placed]
  refine ⟨before, w, after, u.cache.entries, u.writer.queue, order, kind, others, found, ?_, ?_, ?_, ?_, ?_, ?_, ?_, ?_,
    ?_, ?_, ?_, ?_, ?_⟩
  · rw [place_cache]; rfl
  · rw [place_cache]; exact congrArg (List.filter _) waits
  · rw [place_cache]; exact bars
  · rw [place_writer]
  · rw [place_writer]; exact job
  · rw [lineOf_place_other, line]
  · intro free alone
    rw [place_granted (inUse ▸ free) ((line _).trans alone)]
    refine ⟨rfl, rfl, ?_⟩
    cases w.line <;> rfl
  · intro busy
    rw [place_waiting (by rwa [inUse, line])]
    cases w.line <;> exact ⟨congrArg (·.job) engine, congrArg (·.last) engine, rfl⟩
  · rw [place_slots]; exact slots
  · rw [place_port]; exact port
  · rw [place_renewal]; exact renewal
  · rw [place_array]; exact array
  · rw [place_notices]; exact notices

/-- A way to serve agrees with what it is to be served so. -/
structure Gives (f : State → Option State) (serves : State → State → Prop) (s : State) : Prop where
  sound : ∀ t, f s = some t → serves s t
  complete : f s = none → ∀ t, ¬serves s t

theorem gives_of_iff {f : State → Option State} {serves : State → State → Prop} (h : ∀ t, f s = some t ↔ serves s t) :
    Gives f serves s where
  sound t := (h t).1
  complete none t ht := by simp [(h t).2 ht] at none

theorem gives_fill (hd : s.device = .serving) {forPort : Bool} {p : WaitFill → Bool}
    (hp : ∀ w, p w = true ↔ w.port = forPort) : Gives (serveWaits p) (ServesFill forPort) s := by
  have live : s.device ≠ .faulted := by simp [hd]
  cases hw : s.cache.waits.find? p with
  | none =>
    refine ⟨fun t e => by simp [serveWaits, hw] at e, ?_⟩
    rintro - t ⟨before, w, after, -, -, order, kind, -⟩
    exact List.find?_eq_none.1 hw w (order ▸ List.mem_append_right _ (.head _)) ((hp w).2 kind)
  | some w =>
    obtain ⟨own, before, after, order, others⟩ := List.find?_eq_some_iff_append.1 hw
    have serve : serveWaits p s = (makePlace s).map (fillPlaced w) := by simp only [serveWaits, hw]; rfl
    refine ⟨fun t e => ?_, fun e => ?_⟩
    · obtain ⟨u, made, rfl⟩ := Option.map_eq_some_iff.1 (serve ▸ e)
      exact servesFill_fillPlaced order ((hp w).1 own) (fun x hx => mt (hp x).2 (by simpa using others x hx))
        (placeMade_of_makePlace live made)
    · rw [serve, Option.map_eq_none_iff] at e
      rintro t ⟨_, _, _, entries, queue, -, -, -, found, -⟩
      exact not_placeFound_of_makePlace live e entries queue found

/-! ### Flush requests (R88, R89) -/

/-- The HIGHWATER of a flush request, marked for the hold flush while a HOLD waits (R88, R205). -/
def flushJob (s : State) (e : Entry) : QJob := ⟨.highWater e.slot e.cell e.gen e.h, none, false, holdWaits s⟩

theorem flushOne_iff (hd : s.device = .serving) {e : Entry} : flushOne s e = some t ↔
    e.flushReq = true ∧ e.withhold = none ∧ ∃ queue, Asked s.writer.queue (flushJob s e) queue ∧ t = { s with
      writer := { s.writer with queue := queue }
      cache := { s.cache with
        entries := changed s.cache.entries e.slot e.gen fun e => { e with flushReq := false, dirty := false } } } := by
  have live : s.device ≠ .faulted := by simp [hd]
  unfold flushOne
  by_cases wants : e.flushReq = true ∧ e.withhold = none
  · obtain ⟨asks, uncaused⟩ := wants
    simp only [asks, uncaused, Option.isNone_none, Bool.and_self, if_true, true_and, Option.map_eq_some_iff,
      requestHigh_iff live, updEntry_changed]
    constructor
    · rintro ⟨_, ⟨queue, asked, rfl⟩, rfl⟩
      exact ⟨queue, asked, rfl⟩
    · rintro ⟨queue, asked, rfl⟩
      exact ⟨_, ⟨queue, asked, rfl⟩, rfl⟩
  · simp only [Bool.and_eq_true, Option.isNone_iff_eq_none, wants, if_false, reduceCtorEq, false_iff]
    exact fun ⟨asks, uncaused, _⟩ => wants ⟨asks, uncaused⟩

theorem flushOne_none_iff (hd : s.device = .serving) {e : Entry} : flushOne s e = none ↔
    (e.flushReq = true → e.withhold = none → ∀ queue, ¬Asked s.writer.queue (flushJob s e) queue) := by
  rw [Option.eq_none_iff_forall_ne_some]
  simp only [ne_eq, flushOne_iff hd, not_and, not_exists]
  exact ⟨fun h asks uncaused queue asked => h _ asks uncaused queue asked rfl,
    fun h _ asks uncaused queue asked => absurd asked (h asks uncaused queue)⟩

theorem serveFlush_iff (hd : s.device = .serving) : serveFlush s = some t ↔ ServesFlush s t := by
  rw [serveFlush, List.findSome?_eq_some_iff]
  simp only [flushOne_iff hd, flushOne_none_iff hd]
  constructor
  · rintro ⟨newer, e, older, order, ⟨asks, uncaused, queue, asked, rfl⟩, others⟩
    exact ⟨newer, e, older, queue, order, asks, uncaused, asked, others, rfl⟩
  · rintro ⟨newer, e, older, queue, order, asks, uncaused, asked, others, rfl⟩
    exact ⟨newer, e, older, order, ⟨asks, uncaused, queue, asked, rfl⟩, others⟩

/-! ### Jobs held by mark (R25 to R27, R188) -/

theorem onItsWay_iff {p : StoreJob → Prop} : OnItsWay s p ↔ ∃ q ∈ liveJobs s, p q.job := by
  unfold OnItsWay liveJobs
  cases hj : s.writer.job with
  | none => simp
  | some r =>
    obtain ⟨task, writes, retried, hour, stale, both⟩ := r
    cases task <;> simp [or_and_right, exists_or]

theorem hasActivate_iff {i : Fin 32} {g : Nat} : hasActivate s i g = true ↔ OnItsWay s (· = .activate i g) := by
  simp [hasActivate, onItsWay_iff]

theorem hasOverlapEnd_iff {i : Fin 32} {g : Nat} :
    hasOverlapEnd s i g = true ↔ OnItsWay s fun j => ∃ c, j = .overlapEnd i g c := by
  rw [hasOverlapEnd, onItsWay_iff, List.any_eq_true]
  refine exists_congr fun q => and_congr_right fun _ => ?_
  cases hj : q.job <;> simp

/-- The activation that a slot's mark calls for (R25). -/
theorem activationCall_iff {i : Fin 32} {g : Nat} : ((slotOf s i).actDue = some g ∧ genNumber (slotOf s i) .staged = some g ∧
      ¬OnItsWay s (· = .activate i g)) ↔
    (slotOf s i).actDue = some g ∧ (genNumber (slotOf s i) .staged = some g && !hasActivate s i g) = true := by
  rw [← hasActivate_iff]
  simp

theorem markCalls_of_markedJob {i : Fin 32} {job : StoreJob} {img : SlotImg} (h : markedJob s i = some (job, img)) :
    MarkCalls s i job img := by
  unfold markedJob at h
  dsimp only at h
  split at h
  · rename_i a
    cases h; exact .inl ⟨a, rfl, rfl⟩
  rename_i noA
  split at h
  · rename_i b
    cases h; exact .inr (.inl ⟨Bool.eq_false_iff.2 noA, b, rfl, rfl⟩)
  rename_i noB
  split at h
  · rename_i f
    cases h; exact .inr (.inr (.inl ⟨Bool.eq_false_iff.2 noA, Bool.eq_false_iff.2 noB, f, rfl, rfl⟩))
  rename_i noF
  have noRepair := And.intro (Bool.eq_false_iff.2 noA) (And.intro (Bool.eq_false_iff.2 noB) (Bool.eq_false_iff.2 noF))
  split at h
  · rename_i x hx
    cases h
    split at hx
    · cases hx
    · rename_i g hg
      split at hx
      · rename_i calls
        cases hx
        exact .inr (.inr (.inr (.inl ⟨noRepair, g, activationCall_iff.2 ⟨hg, calls⟩, rfl, rfl⟩)))
      · cases hx
  · rename_i idle
    have noAct (g : Nat) : ¬((slotOf s i).actDue = some g ∧ genNumber (slotOf s i) .staged = some g ∧
        ¬OnItsWay s (· = .activate i g)) := by
      rw [activationCall_iff]
      rintro ⟨hg, calls⟩
      simp only [hg, calls, if_true, reduceCtorEq] at idle
    split at h
    · cases h
    · rename_i g cause hg
      split at h
      · rename_i calls
        cases h
        simp only [Bool.and_eq_true, decide_eq_true_eq, Bool.not_eq_true', Bool.eq_false_iff, ne_eq, hasOverlapEnd_iff] at calls
        exact .inr (.inr (.inr (.inr ⟨noRepair, noAct, g, cause, hg, calls.1, calls.2, rfl, rfl⟩)))
      · cases h

theorem markedJob_of_markCalls {i : Fin 32} {job : StoreJob} {img : SlotImg} (h : MarkCalls s i job img) :
    markedJob s i = some (job, img) := by
  unfold markedJob
  dsimp only
  obtain ⟨a, rfl, rfl⟩ | ⟨noA, b, rfl, rfl⟩ | ⟨noA, noB, f, rfl, rfl⟩ | ⟨⟨noA, noB, noF⟩, g, calls, rfl, rfl⟩ |
    ⟨⟨noA, noB, noF⟩, noAct, g, cause, hg, own, idle, rfl, rfl⟩ := h
  · rw [if_pos a]
  · rw [if_neg (by simp [noA]), if_pos b]
  · rw [if_neg (by simp [noA]), if_neg (by simp [noB]), if_pos f]
  · obtain ⟨hg, calls⟩ := activationCall_iff.1 calls
    simp only [noA, noB, noF, hg, calls, Bool.false_eq_true, if_false, if_true]
  · have calls : (genNumber (slotOf s i) .overlap = some g && !hasOverlapEnd s i g) = true := by
      rw [← hasOverlapEnd_iff] at idle
      simp [own, idle]
    cases ha : (slotOf s i).actDue with
    | none => simp only [noA, noB, noF, hg, calls, Bool.false_eq_true, if_false, if_true]
    | some k =>
      have other : ¬(genNumber (slotOf s i) .staged = some k && !hasActivate s i k) = true := fun due =>
        noAct k (activationCall_iff.2 ⟨ha, due⟩)
      simp only [noA, noB, noF, hg, calls, other, Bool.false_eq_true, if_false, if_true]

theorem markedJob_iff {i : Fin 32} {job : StoreJob} {img : SlotImg} :
    markedJob s i = some (job, img) ↔ MarkCalls s i job img := ⟨markCalls_of_markedJob, markedJob_of_markCalls⟩

theorem markedJob_none_iff {i : Fin 32} : markedJob s i = none ↔ ∀ job img, ¬MarkCalls s i job img := by
  simp only [← markedJob_iff, Option.eq_none_iff_forall_ne_some, Prod.forall, ne_eq]

theorem serveMarks_iff (hd : s.device = .serving) : serveMarks s = some t ↔ ServesMark s t := by
  unfold serveMarks ServesMark allSlots
  rw [← Fin.findSome?_eq_findSome?_finRange]
  by_cases free : s.writer.queue.length < 8
  · simp only [(hasRoom_serving hd).2 free, if_true, free, true_and, Fin.findSome?_eq_some_iff, Option.map_eq_some_iff,
      Option.map_eq_none_iff, markedJob_none_iff, Prod.exists, markedJob_iff]
    constructor
    · rintro ⟨i, ⟨job, img, calls, rfl⟩, first⟩
      exact ⟨i, job, img, calls, first, rfl⟩
    · rintro ⟨i, job, img, calls, first, rfl⟩
      exact ⟨i, ⟨job, img, calls, rfl⟩, first⟩
  · rw [if_neg (mt (hasRoom_serving hd).1 free)]
    simp [free]

/-! ### Jobs of the STORING contexts (R151) -/

theorem firstUnqueued_none_iff {x : Ctx} : firstUnqueued x = none ↔ ∀ j ∈ x.jobs, j.2 = .queued := by
  simp only [firstUnqueued, Option.map_eq_none_iff, List.find?_eq_none]
  refine forall₂_congr fun j _ => ?_
  cases j.2 <;> simp

theorem queueFirst_append {queued left : List (StoreJob × JobMark)} {job : StoreJob} (h : ∀ j ∈ queued, j.2 = .queued) :
    queueFirst (queued ++ (job, .notQueued) :: left) = queued ++ (job, .queued) :: left := by
  induction queued with
  | nil => rfl
  | cons j queued ih =>
    obtain ⟨k, mark⟩ := j
    obtain rfl : mark = .queued := h _ (.head _)
    exact congrArg _ (ih fun j hj => h j (.tail _ hj))

theorem firstUnqueued_iff {x : Ctx} {job : StoreJob} : firstUnqueued x = some job ↔ ∃ queued left,
    x.jobs = queued ++ (job, .notQueued) :: left ∧ ∀ j ∈ queued, j.2 = .queued := by
  simp only [firstUnqueued, Option.map_eq_some_iff, List.find?_eq_some_iff_append]
  constructor
  · rintro ⟨⟨k, mark⟩, ⟨own, queued, left, order, others⟩, rfl⟩
    obtain rfl : mark = .notQueued := by simpa using own
    refine ⟨queued, left, order, fun j hj => ?_⟩
    have other := others j hj
    cases hm : j.2 with
    | notQueued => simp [hm] at other
    | queued => rfl
  · rintro ⟨queued, left, order, others⟩
    exact ⟨(job, .notQueued), ⟨rfl, queued, left, order, fun j hj => by simp [others j hj]⟩, rfl⟩

theorem queueStoring_iff (hd : s.device = .serving) : queueStoring s = some t ↔ ServesContext s t := by
  unfold queueStoring ServesContext
  constructor
  · intro e
    split at e
    · cases e
    rename_i i hi
    split at e
    · cases e
    rename_i job hj
    split at e <;> cases e
    rename_i room
    obtain ⟨-, before, after, order, others⟩ := List.find?_eq_some_iff_append.1 hi
    obtain ⟨queued, left, jobs, marked⟩ := firstUnqueued_iff.1 hj
    refine ⟨(hasRoom_serving hd).1 room, before, i, after, queued, job, left, order, fun k hk => ?_, jobs, marked, ?_⟩
    · exact firstUnqueued_none_iff.1 (by simpa using others k hk)
    · rw [jobs, queueFirst_append marked]
      rfl
  · rintro ⟨free, before, i, after, queued, job, left, order, others, jobs, marked, rfl⟩
    have first : firstUnqueued (ctxOf s i) = some job := firstUnqueued_iff.2 ⟨queued, left, jobs, marked⟩
    have found : s.renewal.storing.find? (fun i => (firstUnqueued (ctxOf s i)).isSome) = some i :=
      List.find?_eq_some_iff_append.2 ⟨by simp [first], before, after, order, fun k hk => by
        simp [firstUnqueued_none_iff.2 (others k hk)]⟩
    simp only [found, first, (hasRoom_serving hd).2 free, if_true, jobs, queueFirst_append marked]
    rfl

/-! ### The HOUR job (R37) -/

theorem serveHour_iff (hd : s.device = .serving) : serveHour s = some t ↔ ServesHour s t := by
  unfold serveHour ServesHour
  by_cases pending : s.writer.stripPending = true
  · rw [if_pos pending]
    have queued : s.writer.queue.any (fun q => q.job == .hour) = true ↔ ∃ q ∈ s.writer.queue, q.job = .hour := by simp
    have unqueued : (∀ q ∈ s.writer.queue, q.job ≠ .hour) ↔ ¬∃ q ∈ s.writer.queue, q.job = .hour := by simp
    rw [unqueued]
    by_cases has : ∃ q ∈ s.writer.queue, q.job = .hour
    · rw [if_pos (queued.2 has)]
      simp only [pending, has, true_and, not_true_eq_false, false_and, or_false, Option.some.injEq]
      exact eq_comm
    · rw [if_neg (mt queued.1 has)]
      by_cases free : s.writer.queue.length < 8
      · have room := (hasRoom_serving hd).2 free
        have asks : requestHour s = { s with writer := { s.writer with
            queue := s.writer.queue ++ [⟨.hour, none, false, false⟩], stripPending := false } } := by
          rw [requestHour, if_pos hd, if_neg (mt queued.1 has), if_pos room]
          rfl
        rw [if_pos room, asks]
        simp only [pending, has, free, true_and, not_false_eq_true, false_and, false_or, Option.some.injEq]
        exact eq_comm
      · rw [if_neg (mt (hasRoom_serving hd).1 free)]
        simp [has, free]
  · simp [pending]

/-! ### The order (R178) -/

/-- The ways room is given, in the order of R178. -/
def roomWays : List (State → Option State) :=
  [portRoom, serveWaits (·.port), serveWaits (fun w => !w.port), serveFlush, serveMarks, queueStoring, serveHour]

theorem findSome?_way (f : State → Option State) (fs : List (State → Option State)) (s : State) :
    (f :: fs).findSome? (· s) = (f s).orElse fun _ => fs.findSome? (· s) := by
  rw [List.findSome?_cons]
  cases f s <;> rfl

theorem giveOne_eq (s : State) : giveOne s = roomWays.findSome? (· s) := by
  have last : [serveHour].findSome? (· s) = serveHour s := by
    rw [findSome?_way]
    cases serveHour s <;> rfl
  rw [roomWays]
  iterate 6 rw [findSome?_way]
  rw [last, giveOne]

/-- Each way serves whom its place in the order says. -/
theorem roomWays_give (hd : s.device = .serving) : List.Forall₂ (fun f serves => Gives f serves s) roomWays roomOrder :=
  .cons (gives_of_iff fun _ => portRoom_iff hd) <|
  .cons (gives_fill hd fun _ => Iff.rfl) <|
  .cons (gives_fill hd fun w => by simp) <|
  .cons (gives_of_iff fun _ => serveFlush_iff hd) <|
  .cons (gives_of_iff fun _ => serveMarks_iff hd) <|
  .cons (gives_of_iff fun _ => queueStoring_iff hd) <|
  .cons (gives_of_iff fun _ => serveHour_iff hd) .nil

variable {ways : List (State → Option State)} {orders : List (State → State → Prop)}

/-- Where nobody of an order can be served, no way gives a state. -/
theorem findSome?_none_of_gives (h : List.Forall₂ (fun f serves => Gives f serves s) ways orders)
    (nobody : ∀ serves ∈ orders, ∀ t, ¬serves s t) : ways.findSome? (· s) = none := by
  induction h with
  | nil => rfl
  | @cons f serves _ _ gives _ ih =>
    have none : f s = none := Option.eq_none_iff_forall_ne_some.2 fun t e => nobody serves (.head _) t (gives.sound t e)
    rw [List.findSome?_cons, none]
    exact ih fun p hp => nobody p (.tail _ hp)

/-- The first of an order that can be served is served. -/
theorem findSome?_first_of_gives {before after : List (State → State → Prop)} {serves : State → State → Prop}
    (h : List.Forall₂ (fun f serves => Gives f serves s) ways (before ++ serves :: after))
    (nobody : ∀ earlier ∈ before, ∀ t, ¬earlier s t) (some : ∃ t, serves s t) :
    ∃ t, ways.findSome? (· s) = .some t ∧ serves s t := by
  induction before generalizing ways with
  | nil =>
    cases h with
    | @cons f _ _ _ gives _ =>
      cases given : f s with
      | none => exact absurd some (by simpa using gives.complete given)
      | some t => exact ⟨t, by rw [List.findSome?_cons, given], gives.sound t given⟩
  | cons p before ih =>
    cases h with
    | @cons f _ _ _ gives rest =>
      have none : f s = none := Option.eq_none_iff_forall_ne_some.2 fun t e => nobody p (.head _) t (gives.sound t e)
      obtain ⟨t, given, served⟩ := ih rest fun q hq => nobody q (.tail _ hq)
      exact ⟨t, by rw [List.findSome?_cons, none, given], served⟩

theorem exec_roomGiven (hrun : running s = true) (hd : s.device = .serving) :
    exec .roomGiven s = .next ((giveOne s).getD s) := if_pos (by simp [hrun, hd])

/-- Settles O54: the ways room is given, in their order, each serving as its place in `roomOrder` says. -/
theorem roomIsGivenInOrder : Obligations.RoomIsGivenInOrder := by
  intro s
  refine ⟨fun hrun hd => ⟨fun before serves after order nobody can => ?_, fun nobody => ?_⟩, fun hd => if_neg (by simp [hd])⟩
  · obtain ⟨t, given, served⟩ := findSome?_first_of_gives (order ▸ roomWays_give hd) nobody can
    exact ⟨t, by rw [exec_roomGiven hrun hd, giveOne_eq, given]; rfl, served⟩
  · rw [exec_roomGiven hrun hd, giveOne_eq, findSome?_none_of_gives (roomWays_give hd) nobody]
    rfl

end Sys2Proof.Machine
end

section
/-! PROOFS. What room that is given leaves of the slots, the marks, the queued jobs and the notices (R27, R178, R188). -/

namespace Sys2Proof.Machine

variable {s t u : State}

/-! ### Marks and queued jobs -/

/-- The image holds the mark of this job of its slot (R25, R26, R188). -/
def MarkOn (img : SlotImg) : StoreJob → Prop
  | .cellRepair _ c => repairOf img c = true
  | .floorRepair _ => img.repairFloor = true
  | .activate _ gen => img.actDue = some gen
  | .overlapEnd _ gen cause => img.ovlDue = some (gen, cause)
  | .stage .. | .revokeSlot .. | .suspend _ | .resume _ | .header .. | .reserve .. | .highWater .. | .hour | .association ..
  | .bundleFloor .. | .armRecord _ => False

/-- A job stands in a queue. -/
def InQueue (queue : List QJob) (j : StoreJob) : Prop := ∃ q ∈ queue, q.job = j

/-- Every job that is no counter job has stayed. -/
def PlainJobsStay (queue after : List QJob) : Prop := ∀ j, counterKeyOf j = none → InQueue queue j → InQueue after j

theorem plainJobsStay_refl (queue : List QJob) : PlainJobsStay queue queue := fun _ _ => id

theorem plainJobsStay_append (queue : List QJob) (q : QJob) : PlainJobsStay queue (queue ++ [q]) :=
  fun _ _ ⟨x, hx, hj⟩ => ⟨x, List.mem_append_left _ hx, hj⟩

theorem inQueue_append (queue : List QJob) (q : QJob) : InQueue (queue ++ [q]) q.job :=
  ⟨q, List.mem_append_right _ (.head _), rfl⟩

/-- Asking for a counter job changes no other job (R177). -/
theorem plainJobsStay_asked {queue after : List QJob} {q : QJob} (asked : Asked queue q after) (counter : counterKeyOf q.job ≠ none) :
    PlainJobsStay queue after := by
  obtain ⟨-, rfl⟩ | ⟨-, -, rfl⟩ := asked
  · rintro j plain ⟨x, hx, rfl⟩
    exact ⟨x, List.mem_map.2 ⟨x, hx, if_neg (by rw [plain]; exact counter.symm)⟩, rfl⟩
  · exact plainJobsStay_append queue q

/-- What giving room leaves: the slots but for their marks, the jobs that are no counter jobs, and the notices; a mark stands or its
job is queued, and none is new. -/
structure RoomLeft (s t : State) : Prop where
  notices : t.notices = s.notices
  slots : ∀ i, markless (slotOf t i) = markless (slotOf s i)
  jobs : PlainJobsStay s.writer.queue t.writer.queue
  stands : ∀ i j, jobSlot j = some i → MarkOn (slotOf s i) j → MarkOn (slotOf t i) j ∨ InQueue t.writer.queue j
  noNew : ∀ i j, jobSlot j = some i → MarkOn (slotOf t i) j → MarkOn (slotOf s i) j

/-- Only jobs with a mark are marked, and none is a counter job. -/
theorem MarkOn.plain {img : SlotImg} {j : StoreJob} (h : MarkOn img j) : counterKeyOf j = none := by
  cases j <;> first | rfl | exact h.elim

theorem RoomLeft.trans (h : RoomLeft s t) (k : RoomLeft t u) : RoomLeft s u where
  notices := k.notices.trans h.notices
  slots i := (k.slots i).trans (h.slots i)
  jobs j plain queued := k.jobs j plain (h.jobs j plain queued)
  stands i j own mark := by
    obtain mark' | queued := h.stands i j own mark
    · exact k.stands i j own mark'
    · exact .inr (k.jobs j mark.plain queued)
  noNew i j own mark := h.noNew i j own (k.noNew i j own mark)

theorem roomLeft_of_slots (slots : t.slots = s.slots) (notices : t.notices = s.notices)
    (jobs : PlainJobsStay s.writer.queue t.writer.queue) : RoomLeft s t := by
  have same (i : Fin 32) : slotOf t i = slotOf s i := congrArg (·[i]) slots
  exact ⟨notices, fun i => by rw [same], jobs, fun i j _ mark => .inl (by rwa [same]), fun i j _ mark => by rwa [← same]⟩

theorem roomLeft_refl (s : State) : RoomLeft s s := roomLeft_of_slots rfl rfl (plainJobsStay_refl _)

/-! ### Each way of R178 -/

theorem roomLeft_command (h : ServesCommand s t) : RoomLeft s t := by
  unfold ServesCommand at h
  split at h
  · obtain ⟨-, x, queue, -, asked, rfl⟩ := h
    exact roomLeft_of_slots rfl rfl (plainJobsStay_asked asked nofun)
  · obtain ⟨-, queue, asked, rfl⟩ := h
    exact roomLeft_of_slots rfl rfl (plainJobsStay_asked asked nofun)
  · obtain ⟨-, -, rfl⟩ := h
    exact roomLeft_of_slots rfl rfl (plainJobsStay_append _ _)
  all_goals exact h.elim

theorem plainJobsStay_placeFound {entries : List Entry} {queue : List QJob} (h : PlaceFound s entries queue) :
    PlainJobsStay s.writer.queue queue := by
  obtain ⟨-, -, rfl⟩ | ⟨-, newer, v, older, -, -, -, -, ⟨-, -, rfl⟩ | ⟨-, asked⟩⟩ := h
  · exact plainJobsStay_refl _
  · exact plainJobsStay_refl _
  · exact plainJobsStay_asked asked nofun

theorem roomLeft_fill {forPort : Bool} (h : ServesFill forPort s t) : RoomLeft s t := by
  obtain ⟨_, w, _, entries, queue, -, -, -, found, -, -, -, hq, -, -, -, -, slots, -, -, -, notices⟩ := h
  exact roomLeft_of_slots slots notices (hq ▸ plainJobsStay_placeFound found)

theorem roomLeft_flush (h : ServesFlush s t) : RoomLeft s t := by
  obtain ⟨newer, e, older, queue, -, -, -, asked, -, rfl⟩ := h
  exact roomLeft_of_slots rfl rfl (plainJobsStay_asked asked nofun)

/-- The job that a slot's marks call for takes its own mark away and leaves the others. -/
theorem markCalls_marks {i : Fin 32} {job : StoreJob} {img : SlotImg} (h : MarkCalls s i job img) :
    markless img = markless (slotOf s i) ∧ ∀ j, jobSlot j = some i →
      (MarkOn (slotOf s i) j → MarkOn img j ∨ j = job) ∧ (MarkOn img j → MarkOn (slotOf s i) j) := by
  obtain ⟨mark, rfl, rfl⟩ | ⟨-, mark, rfl, rfl⟩ | ⟨-, -, mark, rfl, rfl⟩ | ⟨-, g, ⟨mark, -⟩, rfl, rfl⟩ |
    ⟨-, -, g, cause, mark, -, -, rfl, rfl⟩ := h
  all_goals
    refine ⟨rfl, fun j own => ?_⟩
    cases j with
    | cellRepair k c => cases c <;> simp_all [MarkOn, jobSlot, repairOf]
    | floorRepair | activate | overlapEnd => simp_all [MarkOn, jobSlot]
    | _ => exact ⟨False.elim, False.elim⟩

theorem roomLeft_mark (h : ServesMark s t) : RoomLeft s t := by
  obtain ⟨-, i, job, img, calls, -, rfl⟩ := h
  obtain ⟨same, marks⟩ := markCalls_marks calls
  refine ⟨rfl, fun k => ?_, plainJobsStay_append _ _, fun k j own mark => ?_, fun k j own mark => ?_⟩
  all_goals by_cases hk : k = i
  · subst hk; rw [slotOf_setSlot, same]
  · rw [slotOf_setSlot_other hk]; rfl
  · subst hk
    rw [slotOf_setSlot]
    refine ((marks j own).1 mark).imp_right ?_
    rintro rfl
    exact inQueue_append _ _
  · rw [slotOf_setSlot_other hk]; exact .inl mark
  · subst hk
    rw [slotOf_setSlot] at mark
    exact (marks j own).2 mark
  · rwa [slotOf_setSlot_other hk] at mark

theorem roomLeft_context (h : ServesContext s t) : RoomLeft s t := by
  obtain ⟨-, _, i, _, queued, job, left, -, -, -, -, rfl⟩ := h
  exact roomLeft_of_slots rfl rfl (plainJobsStay_append _ _)

theorem roomLeft_hour (h : ServesHour s t) : RoomLeft s t := by
  obtain ⟨-, ⟨-, rfl⟩ | ⟨-, -, rfl⟩⟩ := h
  · exact roomLeft_of_slots rfl rfl (plainJobsStay_refl _)
  · exact roomLeft_of_slots rfl rfl (plainJobsStay_append _ _)

/-- Whoever is served, `RoomLeft` holds. -/
theorem roomLeft_of_order {serves : State → State → Prop} (h : serves ∈ roomOrder) (served : serves s t) : RoomLeft s t := by
  simp only [roomOrder, List.mem_cons, List.not_mem_nil, or_false] at h
  obtain rfl | rfl | rfl | rfl | rfl | rfl | rfl := h
  · exact roomLeft_command served
  · exact roomLeft_fill served
  · exact roomLeft_fill served
  · exact roomLeft_flush served
  · exact roomLeft_mark served
  · exact roomLeft_context served
  · exact roomLeft_hour served

/-! ### Room given until nobody can be served (R191, R204) -/

variable {ways : List (State → Option State)} {orders : List (State → State → Prop)}

/-- What a way gives, its place in the order says. -/
theorem served_of_findSome? (h : List.Forall₂ (fun f serves => Gives f serves s) ways orders)
    (given : ways.findSome? (· s) = some t) : ∃ serves ∈ orders, serves s t := by
  induction h with
  | nil => cases given
  | @cons f serves _ _ gives _ ih =>
    rw [List.findSome?_cons] at given
    split at given
    · cases given
      exact ⟨serves, .head _, gives.sound _ ‹_›⟩
    · obtain ⟨p, hp, served⟩ := ih given
      exact ⟨p, .tail _ hp, served⟩

theorem roomLeft_giveOne (hd : s.device = .serving) (h : giveOne s = some t) : RoomLeft s t := by
  obtain ⟨serves, place, served⟩ := served_of_findSome? (roomWays_give hd) (giveOne_eq s ▸ h)
  exact roomLeft_of_order place served

theorem roomLeft_giveAll (n : Nat) (hd : s.device = .serving) : RoomLeft s (giveAll n s) := by
  induction n generalizing s with
  | zero => exact roomLeft_refl s
  | succ n ih =>
    unfold giveAll
    split
    · exact roomLeft_refl s
    · rename_i u given
      have serving : u.device = .serving := (beside_giveOne given (beside_refl s)).device.trans hd
      exact (roomLeft_giveOne hd given).trans (ih serving)

end Sys2Proof.Machine
end

section
/-! PROOFS. The end of loading: due marks, wear, LOAD_COMPLETE, and the room given out in SERVING (R56, R188, R189, R191, R192). -/

namespace Sys2Proof.Machine

variable {r s t u : State} {i : Fin 32}

/-! ### The due marks of the loader (R189) -/

/-- A slot without its due marks. -/
def dueless (img : SlotImg) : SlotImg := { img with actDue := none, ovlDue := none }

theorem cellOf_dueless (img : SlotImg) (c : CellId) : cellOf (dueless img) c = cellOf img c := by cases c <;> rfl

/-- The states differ in the slots alone. -/
def SlotsOnly (r s : State) : Prop := ∃ slots, s = { r with slots := slots }

theorem slotsOnly_refl (s : State) : SlotsOnly s s := ⟨s.slots, rfl⟩

theorem slotsOnly_setSlot (s : State) (i : Fin 32) (x : SlotImg) : SlotsOnly s (setSlot s i x) := ⟨_, rfl⟩

theorem SlotsOnly.trans (h : SlotsOnly r s) (k : SlotsOnly s t) : SlotsOnly r t := by
  obtain ⟨_, rfl⟩ := h
  obtain ⟨v, rfl⟩ := k
  exact ⟨v, rfl⟩

/-- What reads no slot reads the same. -/
theorem SlotsOnly.read {α : Type} (h : SlotsOnly r s) (f : State → α) (hf : ∀ u v, f { u with slots := v } = f u) :
    f s = f r := by
  obtain ⟨v, rfl⟩ := h
  exact hf r v

/-- The states differ in due marks alone. -/
structure DueOnly (r s : State) : Prop where
  rest : SlotsOnly r s
  slots : ∀ i, dueless (slotOf s i) = dueless (slotOf r i)

theorem dueOnly_refl (s : State) : DueOnly s s := ⟨slotsOnly_refl s, fun _ => rfl⟩

theorem DueOnly.trans (h : DueOnly r s) (k : DueOnly s t) : DueOnly r t :=
  ⟨h.rest.trans k.rest, fun i => (k.slots i).trans (h.slots i)⟩

theorem DueOnly.cell (h : DueOnly r s) (i : Fin 32) (c : CellId) : cellOf (slotOf s i) c = cellOf (slotOf r i) c := by
  rw [← cellOf_dueless, h.slots, cellOf_dueless]

theorem DueOnly.genWith (h : DueOnly r s) (i : Fin 32) (g : GenRole) :
    Machine.genWith (slotOf s i) g = Machine.genWith (slotOf r i) g := genWith_of_cells (h.cell i) g

theorem DueOnly.genNumber (h : DueOnly r s) (i : Fin 32) (g : GenRole) :
    Machine.genNumber (slotOf s i) g = Machine.genNumber (slotOf r i) g := genNumber_of_cells (h.cell i) g

theorem DueOnly.quarantined (h : DueOnly r s) (i : Fin 32) : (slotOf s i).quarantined = (slotOf r i).quarantined := by
  have same := congrArg SlotImg.quarantined (h.slots i)
  exact same

theorem DueOnly.clock (h : DueOnly r s) : s.clock = r.clock := h.rest.read State.clock fun _ _ => rfl

theorem DueOnly.cache (h : DueOnly r s) : s.cache = r.cache := h.rest.read State.cache fun _ _ => rfl

theorem DueOnly.usePoint (h : DueOnly r s) (i : Fin 32) (c : CellId) (x : CellImg) :
    usePoint s i c x = Machine.usePoint r i c x := by
  have role : roleIn (slotOf s i) c = roleIn (slotOf r i) c := by rw [roleIn, h.cell, h.cell, roleIn]
  simp only [Machine.usePoint, activeN, findEntry, role, h.cache]

/-- The loader's marks of a slot are the due marks alone. -/
theorem loadMarks_eq (s : State) (i : Fin 32) :
    ∃ act ovl, loadMarks s i = setSlot s i { slotOf s i with actDue := act, ovlDue := ovl } := by
  unfold loadMarks
  dsimp only
  split
  · exact ⟨(slotOf s i).actDue, (slotOf s i).ovlDue, (setSlot_slotOf s i).symm⟩
  · exact ⟨_, _, rfl⟩

theorem dueOnly_loadMarks (s : State) (i : Fin 32) : DueOnly s (loadMarks s i) := by
  obtain ⟨act, ovl, eq⟩ := loadMarks_eq s i
  rw [eq]
  refine ⟨slotsOnly_setSlot s i _, fun j => ?_⟩
  by_cases hj : j = i
  · subst hj; rw [slotOf_setSlot]; rfl
  · rw [slotOf_setSlot_other hj]

theorem loadMarks_other {j : Fin 32} (h : j ≠ i) : slotOf (loadMarks s i) j = slotOf s j := by
  obtain ⟨act, ovl, eq⟩ := loadMarks_eq s i
  rw [eq, slotOf_setSlot_other h]

/-- The activation of a staged generation is due at load: its rule is IMMEDIATE, or its hour has come (R189). -/
def StagedDue (s : State) (x : CellImg) : Prop :=
  x.params.rule = .immediate ∨ ∃ h, x.params.rule = .atHour h ∧ h ≤ s.clock.hour

/-- An overlap is due at load: its current generation has both grace fields 0, or grace hours that have run (R189). -/
def OverlapDue (s : State) (x : CellImg) (a : Activation) : Prop :=
  x.params.graceHours = 0 ∧ x.params.graceCount = 0 ∨
    0 < x.params.graceHours ∧ x.params.graceHours ≤ s.clock.hour - a.hour

theorem actDue_loadMarks {c : CellId} {x : CellImg} (hq : (slotOf s i).quarantined = false)
    (hx : genWith (slotOf s i) .staged = some (c, x)) :
    (StagedDue s x → (slotOf (loadMarks s i) i).actDue = some x.params.generation) ∧
    (¬StagedDue s x → (slotOf (loadMarks s i) i).actDue = none) := by
  simp only [loadMarks, hq, Bool.false_eq_true, if_false, slotOf_setSlot, hx]
  unfold StagedDue
  cases hr : x.params.rule with
  | immediate => simp
  | onCommand => simp
  | atHour h => simp

theorem ovlDue_loadMarks {c : CellId} {x : CellImg} {a : Activation} {k : Nat} (hq : (slotOf s i).quarantined = false)
    (hx : genWith (slotOf s i) .current = some (c, x)) (ha : x.activation = some a)
    (hk : genNumber (slotOf s i) .overlap = some k) :
    (OverlapDue s x a → (slotOf (loadMarks s i) i).ovlDue = some (k, .time)) ∧
    (¬OverlapDue s x a → (slotOf (loadMarks s i) i).ovlDue = none) := by
  simp only [loadMarks, hq, Bool.false_eq_true, if_false, slotOf_setSlot, hx, hk, Option.map_some]
  have due : (noGrace x.params || (decide (0 < x.params.graceHours) && decide (x.params.graceHours ≤ ageOf s x))) = true ↔
      OverlapDue s x a := by
    simp [noGrace, OverlapDue, ageOf, ha]
  exact ⟨fun h => if_pos (due.2 h), fun h => if_neg (mt due.1 h)⟩

/-- The state as the loader has set the due marks. -/
@[irreducible] def loadMarked (s : State) : State := allSlots.foldl loadMarks s

/-- What the loader's marks of a slot make true of it, whatever due marks stood before, holds when all slots have theirs. -/
theorem loadMarked_reaches {P : SlotImg → Prop} (make : ∀ u, DueOnly s u → P (slotOf (loadMarks u i) i)) :
    DueOnly s (loadMarked s) ∧ P (slotOf (loadMarked s) i) := by
  unfold loadMarked
  refine foldl_reaches (R := DueOnly) (P := fun u => DueOnly s u ∧ P (slotOf u i)) (x := i) DueOnly.trans dueOnly_loadMarks
    (fun u h => ⟨h.trans (dueOnly_loadMarks u i), make u h⟩)
    (fun u j _ h hp => ⟨h.trans (dueOnly_loadMarks u j), ?_⟩) (dueOnly_refl s) (List.mem_finRange i)
  by_cases hj : i = j
  · subst hj; exact make u h
  · rw [loadMarks_other hj]; exact hp.2

theorem dueOnly_loadMarked (s : State) : DueOnly s (loadMarked s) :=
  (loadMarked_reaches (i := 0) (P := fun _ => True) fun _ _ => trivial).1

theorem actDue_loadMarked {c : CellId} {x : CellImg} (hq : (slotOf s i).quarantined = false)
    (hx : genWith (slotOf s i) .staged = some (c, x)) :
    (StagedDue s x → (slotOf (loadMarked s) i).actDue = some x.params.generation) ∧
    (¬StagedDue s x → (slotOf (loadMarked s) i).actDue = none) := by
  refine (loadMarked_reaches (P := fun img => (StagedDue s x → img.actDue = _) ∧ (¬StagedDue s x → img.actDue = none))
    fun u h => ?_).2
  have marks := actDue_loadMarks (s := u) (i := i) (by rw [h.quarantined, hq]) (by rw [h.genWith, hx])
  simpa only [StagedDue, h.clock] using marks

theorem ovlDue_loadMarked {c : CellId} {x : CellImg} {a : Activation} {k : Nat} (hq : (slotOf s i).quarantined = false)
    (hx : genWith (slotOf s i) .current = some (c, x)) (ha : x.activation = some a)
    (hk : genNumber (slotOf s i) .overlap = some k) :
    (OverlapDue s x a → (slotOf (loadMarked s) i).ovlDue = some (k, .time)) ∧
    (¬OverlapDue s x a → (slotOf (loadMarked s) i).ovlDue = none) := by
  refine (loadMarked_reaches (P := fun img => (OverlapDue s x a → img.ovlDue = _) ∧ (¬OverlapDue s x a → img.ovlDue = none))
    fun u h => ?_).2
  have marks := ovlDue_loadMarks (s := u) (i := i) (by rw [h.quarantined, hq]) (by rw [h.genWith, hx]) ha
    (by rw [h.genNumber, hk])
  simpa only [OverlapDue, h.clock] using marks

/-! ### The wear at load (R56) -/

theorem slotsOnly_setWear (i : Fin 32) (c : CellId) (s : State) : SlotsOnly s (setWear i c s) := by
  unfold setWear
  repeat' split
  · exact slotsOnly_refl s
  · exact slotsOnly_setSlot s i _
  · exact slotsOnly_refl s

/-- The states differ in the wear of generations alone. -/
structure WearOnly (r s : State) : Prop where
  rest : SlotsOnly r s
  worn : Worn r s

theorem wearOnly_refl (s : State) : WearOnly s s := ⟨slotsOnly_refl s, worn_refl s⟩

theorem WearOnly.trans (h : WearOnly r s) (k : WearOnly s t) : WearOnly r t := ⟨h.rest.trans k.rest, h.worn.trans k.worn⟩

theorem wearOnly_setWear (i : Fin 32) (c : CellId) (s : State) : WearOnly s (setWear i c s) :=
  ⟨slotsOnly_setWear i c s, worn_setWear i c s⟩

theorem wearOnly_loadWear (s : State) (i : Fin 32) : WearOnly s (loadWear s i) :=
  (wearOnly_setWear i .a s).trans (wearOnly_setWear i .b _)

/-- The loader's recomputation of a slot gives each of its activated generations its figure. -/
theorem WearOnly.wear_loadWear (h : WearOnly r s) {c : CellId} {x : CellImg} {a : Activation}
    (hx : cellOf (slotOf r i) c = some x) (ha : x.activation = some a) :
    (cellOf (slotOf (loadWear s i) i) c).bind (·.wear) =
      some (wearFigure x.params (usePoint r i c x) (r.clock.hour - a.hour)) := by
  cases c with
  | b => exact (h.worn.trans (worn_setWear i .a s)).wear_setWear hx ha
  | a =>
    have other := cellOf_setWear_otherCell i .b (setWear i .a s)
    simp only [otherCell] at other
    rw [loadWear, other]
    exact h.worn.wear_setWear hx ha

theorem loadWear_other {j : Fin 32} (h : j ≠ i) : slotOf (loadWear s i) j = slotOf s j := by
  rw [loadWear, slotOf_setWear_other h, slotOf_setWear_other h]

/-- The state as the loader has set the due marks and the wear. -/
@[irreducible] def loadWorn (s : State) : State := allSlots.foldl loadWear (loadMarked s)

theorem wearOnly_loadWorn (s : State) : WearOnly (loadMarked s) (loadWorn s) := by
  unfold loadWorn
  exact List.foldlRecOn (motive := WearOnly (loadMarked s)) allSlots loadWear (wearOnly_refl _)
    fun u h i _ => h.trans (wearOnly_loadWear u i)

theorem wear_loadWorn {c : CellId} {x : CellImg} {a : Activation} (hx : cellOf (slotOf s i) c = some x)
    (ha : x.activation = some a) : (cellOf (slotOf (loadWorn s) i) c).bind (·.wear) =
      some (wearFigure x.params (usePoint s i c x) (s.clock.hour - a.hour)) := by
  have due := dueOnly_loadMarked s
  rw [← due.usePoint, ← due.clock]
  rw [← due.cell] at hx
  unfold loadWorn
  refine foldl_reaches (R := WearOnly) (P := fun u => (cellOf (slotOf u i) c).bind (·.wear) = some (wearFigure x.params
      (usePoint (loadMarked s) i c x) ((loadMarked s).clock.hour - a.hour))) (x := i) WearOnly.trans wearOnly_loadWear
    (fun u h => h.wear_loadWear hx ha) (fun u j _ h hp => ?_) (wearOnly_refl _) (List.mem_finRange i)
  by_cases hj : i = j
  · subst hj; exact h.wear_loadWear hx ha
  · rwa [loadWear_other hj]

theorem slotsOnly_loadWorn (s : State) : SlotsOnly s (loadWorn s) :=
  (dueOnly_loadMarked s).rest.trans (wearOnly_loadWorn s).rest

theorem quarantined_loadWorn (s : State) (i : Fin 32) : (slotOf (loadWorn s) i).quarantined = (slotOf s i).quarantined :=
  ((wearOnly_loadWorn s).worn.quarantined i).trans ((dueOnly_loadMarked s).quarantined i)

/-- A mark is one of the part of a slot that wear leaves alone. -/
theorem markOn_unwornSlot (img : SlotImg) (j : StoreJob) : MarkOn (unwornSlot img) j ↔ MarkOn img j := by
  cases j with
  | cellRepair k c => cases c <;> exact Iff.rfl
  | _ => exact Iff.rfl

theorem markOn_loadWorn (s : State) (i : Fin 32) (j : StoreJob) :
    MarkOn (slotOf (loadWorn s) i) j ↔ MarkOn (slotOf (loadMarked s) i) j := by
  rw [← markOn_unwornSlot, (wearOnly_loadWorn s).worn.slots, markOn_unwornSlot]

/-! ### LEAVE_LOADING (R191, R192) -/

/-- The device states at the end of loading, before LOAD_COMPLETE. -/
def loadEnded (s : State) : State :=
  { loadWorn s with device := leaveState (loadWorn s), warning := ⟨(loadWorn s).pins.pfail, false⟩ }

/-- The state as LOAD_COMPLETE has been raised, before room is given out. -/
def loadNoted (s : State) : State := raise (loadComplete (loadEnded s)) (loadEnded s)

theorem pins_loadWorn (s : State) : (loadWorn s).pins = s.pins :=
  (slotsOnly_loadWorn s).read State.pins fun _ _ => rfl

theorem device_loadNoted (s : State) : (loadNoted s).device = if s.pins.pfail then .holding .power else .serving := by
  change leaveState (loadWorn s) = _
  rw [leaveState, pins_loadWorn]

theorem writer_loadNoted (s : State) : (loadNoted s).writer = s.writer :=
  (slotsOnly_loadWorn s).read State.writer fun _ _ => rfl

theorem slotOf_loadNoted (s : State) (i : Fin 32) : slotOf (loadNoted s) i = slotOf (loadWorn s) i := rfl

/-- LOAD_COMPLETE carries the state entered and what the loader has found (R192). -/
theorem loadComplete_loadNoted (s : State) :
    Notice.loadComplete (loadNoted s).device (quarantinedCount s) (damagedCount s) s.monitor.armLost s.loadTamper ∈
      (loadNoted s).notices := by
  have rest := slotsOnly_loadWorn s
  have quarantined : quarantinedCount (loadEnded s) = quarantinedCount s :=
    congrArg (fun p => (allSlots.filter p).length) (funext (quarantined_loadWorn s))
  have assocs : (loadEnded s).assocs = s.assocs := rest.read State.assocs fun _ _ => rfl
  have monitor : (loadEnded s).monitor = s.monitor := rest.read State.monitor fun _ _ => rfl
  have tamper : (loadEnded s).loadTamper = s.loadTamper := rest.read State.loadTamper fun _ _ => rfl
  have damaged : damagedCount (loadEnded s) = damagedCount s := by
    simp only [damagedCount, assocOf, assocs]
  have note : loadComplete (loadEnded s) =
      .loadComplete (loadNoted s).device (quarantinedCount s) (damagedCount s) s.monitor.armLost s.loadTamper := by
    rw [loadComplete, quarantined, damaged, monitor, tamper]
    rfl
  rw [← note]
  exact mem_raiseIn _ _

theorem leaveLoading_eq (s : State) :
    leaveLoading s = if s.pins.pfail then loadNoted s else giveAll 32 (loadNoted s) := by
  have ends : leaveLoading s = if (loadNoted s).device = .serving then giveAll 32 (loadNoted s) else loadNoted s := by
    unfold loadNoted loadEnded loadWorn loadMarked leaveLoading
    rfl
  rw [ends, device_loadNoted]
  cases s.pins.pfail <;> rfl

theorem exec_leaveLoading (hrun : running s = true) (hd : s.device = .loading) (hj : s.writer.job = none)
    (ht : s.writer.tamper = none) : exec .leaveLoading s = .next (leaveLoading s) := by
  simp only [exec, execLeaveLoading, loaderDone, hrun, hd, hj, ht, Option.isNone_none, beq_self_eq_true, Bool.and_self, if_true]

/-- What the room given out leaves of the state at the end of loading, in SERVING and in the hold alike. -/
theorem roomLeft_leaveLoading (s : State) : RoomLeft (loadNoted s) (leaveLoading s) := by
  rw [leaveLoading_eq]
  cases hp : s.pins.pfail with
  | true => exact roomLeft_refl _
  | false => exact roomLeft_giveAll 32 (by rw [device_loadNoted, hp]; rfl)

theorem beside_loadNoted_leaveLoading (s : State) : Beside (loadNoted s) (leaveLoading s) := by
  rw [leaveLoading_eq]
  split
  · exact beside_refl _
  · exact beside_giveAll (beside_refl _)

theorem device_leaveLoading (s : State) :
    (leaveLoading s).device = if s.pins.pfail then .holding .power else .serving :=
  (beside_loadNoted_leaveLoading s).device.trans (device_loadNoted s)

/-- A mark stands as loading ends, or its job is queued in SERVING (R188). -/
theorem mark_leaveLoading {j : StoreJob} (own : jobSlot j = some i) (mark : MarkOn (slotOf (loadMarked s) i) j) :
    MarkOn (slotOf (leaveLoading s) i) j ∨
      (leaveLoading s).device = .serving ∧ InQueue (leaveLoading s).writer.queue j := by
  have mark' : MarkOn (slotOf (loadNoted s) i) j := (markOn_loadWorn s i j).2 mark
  cases hp : s.pins.pfail with
  | true => exact .inl (by rwa [leaveLoading_eq, hp, if_pos rfl])
  | false =>
    refine ((roomLeft_leaveLoading s).stands i j own mark').imp_right fun queued => ⟨?_, queued⟩
    rw [device_leaveLoading, hp]
    rfl

theorem noMark_leaveLoading {j : StoreJob} (own : jobSlot j = some i) (unmarked : ¬MarkOn (slotOf (loadMarked s) i) j) :
    ¬MarkOn (slotOf (leaveLoading s) i) j := fun mark =>
  unmarked ((markOn_loadWorn s i j).1 ((roomLeft_leaveLoading s).noNew i j own mark))

/-- The generations with their wear are those at the end of loading. -/
theorem cellOf_leaveLoading (s : State) (i : Fin 32) (c : CellId) :
    cellOf (slotOf (leaveLoading s) i) c = cellOf (slotOf (loadWorn s) i) c := by
  rw [← cellOf_markless, (roomLeft_leaveLoading s).slots, cellOf_markless, slotOf_loadNoted]

/-- The loader's marks leave the repair marks as they are. -/
theorem repairs_loadMarked (s : State) (i : Fin 32) :
    (∀ c, repairOf (slotOf (loadMarked s) i) c = repairOf (slotOf s i) c) ∧
      (slotOf (loadMarked s) i).repairFloor = (slotOf s i).repairFloor := by
  have same := (dueOnly_loadMarked s).slots i
  refine ⟨fun c => ?_, ?_⟩
  · cases c
    · have repair := congrArg SlotImg.repairA same
      exact repair
    · have repair := congrArg SlotImg.repairB same
      exact repair
  · have repair := congrArg SlotImg.repairFloor same
    exact repair

/-- Settles O12, by the marks and the wear of the loader and by what the room given out leaves of them. -/
theorem leavingLoadingServesOrHolds : Obligations.LeavingLoadingServesOrHolds := by
  intro s hrun hd hj ht
  have images := sameImages_leaveLoading (s := s)
  have kept := kept_leaveLoading hd (kept_refl s)
  have beside := beside_loadNoted_leaveLoading s
  have left := roomLeft_leaveLoading s
  refine ⟨leaveLoading s, exec_leaveLoading hrun hd hj ht, device_leaveLoading s, kept.clock, kept.array, images.slots,
    images.assocs, ?_, ?_, fun hp => ?_, fun i c x a hx ha => ?_, fun i hq => ⟨fun c x hx => ?_, ?_⟩, fun i => ⟨fun c => ?_, ?_⟩⟩
  · exact beside.monitor.trans ((slotsOnly_loadWorn s).read State.monitor fun _ _ => rfl)
  · rw [beside.device, left.notices]
    exact loadComplete_loadNoted s
  · rw [leaveLoading_eq, hp, if_pos rfl, writer_loadNoted]
  · rw [cellOf_leaveLoading]
    exact wear_loadWorn hx ha
  · obtain ⟨due, idle⟩ := actDue_loadMarked hq hx
    refine ⟨fun h => mark_leaveLoading (j := .activate i x.params.generation) rfl (due h), fun h => ?_⟩
    refine Option.eq_none_iff_forall_ne_some.2 fun g => ?_
    exact noMark_leaveLoading (j := .activate i g) rfl (by rw [MarkOn, idle h]; nofun)
  · intro c x a k hx ha hk
    obtain ⟨due, idle⟩ := ovlDue_loadMarked hq hx ha hk
    refine ⟨fun h => mark_leaveLoading (j := .overlapEnd i k .time) rfl (due h), fun h => ?_⟩
    refine Option.eq_none_iff_forall_ne_some.2 fun (g, cause) => ?_
    exact noMark_leaveLoading (j := .overlapEnd i g cause) rfl (by rw [MarkOn, idle h]; nofun)
  · have same := (repairs_loadMarked s i).1 c
    refine ⟨fun mark => mark_leaveLoading (j := .cellRepair i c) rfl (same.trans mark), fun unmarked => ?_⟩
    exact Bool.eq_false_iff.2 (noMark_leaveLoading (j := .cellRepair i c) rfl (Bool.eq_false_iff.1 (same.trans unmarked)))
  · have same := (repairs_loadMarked s i).2
    refine ⟨fun mark => mark_leaveLoading (j := .floorRepair i) rfl (same.trans mark), fun unmarked => ?_⟩
    exact Bool.eq_false_iff.2 (noMark_leaveLoading (j := .floorRepair i) rfl (Bool.eq_false_iff.1 (same.trans unmarked)))

end Sys2Proof.Machine
end

section
/-! PROOFS. The loader judges the cells of a slot, settles the pair and builds the image of the slot (R3, R6, R186 to R188). -/

namespace Sys2Proof.Machine

variable {p : JudgedPair} {c : CellId} {x y : CellImg}

/-! ### The pair (R6) -/

/-- The generation in a cell of a pair. -/
def JudgedPair.cell (p : JudgedPair) : CellId → Option CellImg
  | .a => p.a
  | .b => p.b

/-- The repair mark of a cell of a pair. -/
def JudgedPair.repair (p : JudgedPair) : CellId → Bool
  | .a => p.repairA
  | .b => p.repairB

/-- Two generations have one number, and equal stamps or none (R6). -/
def Alike (x y : CellImg) : Prop :=
  x.params.generation = y.params.generation ∧ x.activation.map (·.stamp) = y.activation.map (·.stamp)

/-- An unstamped generation stands beside an unstamped one with the greater number (R6). -/
def Outnumbered (x : CellImg) (other : Option CellImg) : Prop :=
  x.activation = none ∧ ∃ y, other = some y ∧ y.activation = none ∧ x.params.generation < y.params.generation

/-- The pair with one cell taken as lost. -/
def JudgedPair.lose (p : JudgedPair) : CellId → JudgedPair
  | .a => { p with a := none, repairA := true }
  | .b => { p with b := none, repairB := true }

/-- Settling a pair loses the outnumbered generation, or finds two that are alike, or changes nothing (R6). -/
theorem settlePair_cases (p : JudgedPair) :
    (∃ c x, p.cell c = some x ∧ Outnumbered x (p.cell (otherCell c)) ∧ settlePair p = p.lose c) ∨
    (∃ x y, p.a = some x ∧ p.b = some y ∧ Alike x y ∧ settlePair p = { p with quarantined := true }) ∨
    (∀ c x, p.cell c = some x → ¬Outnumbered x (p.cell (otherCell c))) ∧
      (∀ x y, p.a = some x → p.b = some y → ¬Alike x y) ∧ settlePair p = p := by
  obtain ⟨a, b, repairA, repairB, quarantined⟩ := p
  cases a with
  | none =>
    refine .inr (.inr ⟨fun c x hx => ?_, nofun, rfl⟩)
    rintro ⟨-, y, hy, -⟩
    cases c
    · cases hx
    · cases hy
  | some x =>
  cases b with
  | none =>
    refine .inr (.inr ⟨fun c x hx => ?_, nofun, rfl⟩)
    rintro ⟨-, y, hy, -⟩
    cases c
    · cases hy
    · cases hx
  | some y =>
  unfold settlePair
  dsimp only
  by_cases unstamped : x.activation = none ∧ y.activation = none
  · obtain ⟨hx, hy⟩ := unstamped
    simp only [hx, hy, Option.isNone_none, Bool.and_self, if_true]
    obtain less | same | more := Nat.lt_trichotomy x.params.generation y.params.generation
    · rw [if_neg (Nat.ne_of_lt less), if_neg (Nat.lt_asymm less)]
      exact .inl ⟨.a, x, rfl, ⟨hx, y, rfl, hy, less⟩, rfl⟩
    · rw [if_pos same]
      exact .inr (.inl ⟨x, y, rfl, rfl, ⟨same, by rw [hx, hy]⟩, rfl⟩)
    · rw [if_neg (Nat.ne_of_gt more), if_pos more]
      exact .inl ⟨.b, y, rfl, ⟨hy, x, rfl, hx, more⟩, rfl⟩
  · have stamped : ¬(x.activation.isNone && y.activation.isNone) = true := by simpa using unstamped
    rw [if_neg stamped]
    by_cases alike : Alike x y
    · obtain ⟨number, stamp⟩ := alike
      rw [if_pos (by simp [number, stamp])]
      exact .inr (.inl ⟨x, y, rfl, rfl, ⟨number, stamp⟩, rfl⟩)
    · rw [if_neg fun h => alike (by simpa [Alike, and_comm] using h)]
      refine .inr (.inr ⟨fun c z hz => ?_, ?_, rfl⟩)
      · rintro ⟨first, w, hw, second, -⟩
        cases c <;> cases hz <;> cases hw
        · exact unstamped ⟨first, second⟩
        · exact unstamped ⟨second, first⟩
      · rintro _ _ ⟨⟩ ⟨⟩
        exact alike

theorem cell_lose (p : JudgedPair) (c : CellId) : (p.lose c).cell c = none := by cases c <;> rfl

theorem cell_lose_other (p : JudgedPair) (c : CellId) : (p.lose c).cell (otherCell c) = p.cell (otherCell c) := by
  cases c <;> rfl

theorem repair_lose (p : JudgedPair) (c : CellId) : (p.lose c).repair c = true := by cases c <;> rfl

theorem repair_lose_other (p : JudgedPair) (c : CellId) : (p.lose c).repair (otherCell c) = p.repair (otherCell c) := by
  cases c <;> rfl

/-- Of two generations that outnumber one another there are none. -/
theorem Outnumbered.asymm (h : Outnumbered x (some y)) : ¬Outnumbered y (some x) := by
  obtain ⟨-, _, ⟨⟩, -, less⟩ := h
  rintro ⟨-, _, ⟨⟩, -, more⟩
  omega

theorem Outnumbered.number_ne (h : Outnumbered x (some y)) : x.params.generation ≠ y.params.generation := by
  obtain ⟨-, _, ⟨⟩, -, less⟩ := h
  omega

/-- The settled pair keeps in a cell what is not outnumbered (R6). -/
theorem cell_settlePair : (settlePair p).cell c = some x ↔ p.cell c = some x ∧ ¬Outnumbered x (p.cell (otherCell c)) := by
  obtain ⟨d, y, hy, outnumbered, eq⟩ | ⟨u, v, hu, hv, alike, eq⟩ | ⟨stays, -, eq⟩ := settlePair_cases p
  · rw [eq]
    by_cases hd : c = d
    · subst hd
      rw [cell_lose, hy]
      exact ⟨nofun, fun ⟨hx, stays⟩ => absurd (Option.some.inj hx ▸ outnumbered) stays⟩
    · obtain rfl := eq_otherCell hd
      rw [cell_lose_other, otherCell_otherCell, hy]
      refine ⟨fun hx => ⟨hx, Outnumbered.asymm (hx ▸ outnumbered)⟩, And.left⟩
  · rw [eq]
    refine ⟨fun hx => ⟨hx, fun outnumbered => ?_⟩, And.left⟩
    have ne : u.params.generation ≠ v.params.generation := by
      cases c
      · exact (hv ▸ Option.some.inj (hu.symm.trans hx) ▸ outnumbered : Outnumbered u (some v)).number_ne
      · exact (hu ▸ Option.some.inj (hv.symm.trans hx) ▸ outnumbered : Outnumbered v (some u)).number_ne.symm
    exact ne alike.1
  · rw [eq]
    exact ⟨fun hx => ⟨hx, stays c x hx⟩, And.left⟩

/-- Generations that are alike do not outnumber one another. -/
theorem Outnumbered.not_alike (h : Outnumbered x (some y)) : ¬Alike x y := fun alike => h.number_ne alike.1

theorem Alike.symm (h : Alike x y) : Alike y x := ⟨h.1.symm, h.2.symm⟩

/-- Settling gives a repair mark to the cell it empties (R6, R188). -/
theorem repair_settlePair :
    (settlePair p).repair c = true ↔ p.repair c = true ∨ p.cell c ≠ none ∧ (settlePair p).cell c = none := by
  obtain ⟨d, y, hy, -, eq⟩ | ⟨u, v, -, -, -, eq⟩ | ⟨-, -, eq⟩ := settlePair_cases p
  · rw [eq]
    by_cases hd : c = d
    · subst hd
      exact ⟨fun _ => .inr ⟨hy ▸ nofun, cell_lose p c⟩, fun _ => repair_lose p c⟩
    · obtain rfl := eq_otherCell hd
      rw [repair_lose_other, cell_lose_other]
      exact (or_iff_left fun ⟨held, lost⟩ => held lost).symm
  · rw [eq]
    exact (or_iff_left fun ⟨held, lost⟩ => held lost).symm
  · rw [eq]
    exact (or_iff_left fun ⟨held, lost⟩ => held lost).symm

/-- Settling quarantines the slot whose generations are alike (R6). -/
theorem quarantined_settlePair : (settlePair p).quarantined = true ↔
    p.quarantined = true ∨ ∃ x y, p.a = some x ∧ p.b = some y ∧ Alike x y := by
  obtain ⟨c, z, hz, outnumbered, eq⟩ | ⟨u, v, hu, hv, alike, eq⟩ | ⟨-, unlike, eq⟩ := settlePair_cases p
  · have keeps : (p.lose c).quarantined = p.quarantined := by cases c <;> rfl
    rw [eq, keeps]
    refine (or_iff_left ?_).symm
    rintro ⟨x, y, hx, hy, alike⟩
    cases c
    · obtain rfl := Option.some.inj (hz.symm.trans hx)
      exact (hy ▸ outnumbered : Outnumbered z (some y)).not_alike alike
    · obtain rfl := Option.some.inj (hz.symm.trans hy)
      exact (hx ▸ outnumbered : Outnumbered z (some x)).not_alike alike.symm
  · rw [eq]
    exact ⟨fun _ => .inr ⟨u, v, hu, hv, alike⟩, fun _ => rfl⟩
  · rw [eq]
    exact (or_iff_left fun ⟨x, y, hx, hy, alike⟩ => unlike x y hx hy alike).symm

theorem cell_emptyUnbound (p : JudgedPair) (c : CellId) : (emptyUnbound p).cell c = none := by cases c <;> rfl

theorem repair_emptyUnbound : (emptyUnbound p).repair c = true ↔ p.repair c = true ∨ p.cell c ≠ none := by
  cases c <;> simp [emptyUnbound, JudgedPair.repair, JudgedPair.cell, Option.isSome_iff_ne_none]

/-! ### The pair of a stored slot (R187) -/

variable {t : State} {i : Fin 32} {unbound : Bool}

/-- The stored cells of a slot as the loader judges them. -/
def judgedPair (t : State) (i : Fin 32) : JudgedPair :=
  let a := judgedCell (judgeCell (storedCell t i .a))
  let b := judgedCell (judgeCell (storedCell t i .b))
  ⟨a.1, b.1, a.2, b.2, false⟩

theorem cell_judgedPair : (judgedPair t i).cell c = some x ↔ HoldsGen t i c x := by
  have cell : (judgedPair t i).cell c = (judgedCell (judgeCell (storedCell t i c))).1 := by cases c <;> rfl
  rw [cell, holdsGen_iff]
  cases judgeCell (storedCell t i c) <;> simp [judgedCell]

theorem repair_judgedPair : (judgedPair t i).repair c = true ↔ judgeCell (storedCell t i c) = .lost := by
  have mark : (judgedPair t i).repair c = (judgedCell (judgeCell (storedCell t i c))).2 := by cases c <;> rfl
  rw [mark]
  cases judgeCell (storedCell t i c) <;> simp [judgedCell]

/-- The loader loses a stored cell exactly where it is not EMPTY and holds no generation (R187). -/
theorem judgeCell_lost :
    judgeCell (storedCell t i c) = .lost ↔ (storedCell t i c).body ≠ .empty ∧ (judgedPair t i).cell c = none := by
  rw [Option.eq_none_iff_forall_ne_some]
  simp only [ne_eq, cell_judgedPair, holdsGen_iff]
  cases hj : judgeCell (storedCell t i c) with
  | empty =>
    have body : (storedCell t i c).body = .empty := by
      by_contra stored
      rw [judgeCell, if_neg stored] at hj
      split at hj <;> cases hj
    simp [body]
  | lost =>
    have body : (storedCell t i c).body ≠ .empty := fun stored => by
      rw [judgeCell, if_pos stored] at hj
      cases hj
    simp [body]
  | holds x => simp

/-- A stored cell that holds a generation is not EMPTY. -/
theorem HoldsGen.body_ne (h : HoldsGen t i c x) : (storedCell t i c).body ≠ .empty := by
  obtain ⟨b, -, -, hb, -⟩ := h
  intro stored
  rw [stored] at hb
  cases hb

theorem loadPair_unbound : loadPair t.array.slots[i] true = emptyUnbound (settlePair (judgedPair t i)) := rfl

theorem loadPair_bound : loadPair t.array.slots[i] false = settlePair (judgedPair t i) := rfl

/-- The pair the loader takes holds what R6 and the binding leave it (R6, R187). -/
theorem cell_loadPair : (loadPair t.array.slots[i] unbound).cell c = some x ↔
    HoldsGen t i c x ∧ ¬(unbound = true ∨ Outnumbered x ((judgedPair t i).cell (otherCell c))) := by
  cases unbound with
  | true =>
    rw [loadPair_unbound, cell_emptyUnbound]
    simp
  | false =>
    rw [loadPair_bound, cell_settlePair, cell_judgedPair]
    simp

/-- A settled cell has its repair mark or its generation exactly where the stored one is not EMPTY, and never both (R187, R188). -/
theorem repair_settled : (settlePair (judgedPair t i)).repair c = true ↔
    (storedCell t i c).body ≠ .empty ∧ (settlePair (judgedPair t i)).cell c = none := by
  rw [repair_settlePair, repair_judgedPair, judgeCell_lost]
  constructor
  · rintro (⟨body, lost⟩ | ⟨held, lost⟩)
    · refine ⟨body, Option.eq_none_iff_forall_ne_some.2 fun x hx => ?_⟩
      rw [(cell_settlePair.1 hx).1] at lost
      cases lost
    · obtain ⟨x, hx⟩ := Option.ne_none_iff_exists'.1 held
      exact ⟨(cell_judgedPair.1 hx).body_ne, lost⟩
  · rintro ⟨body, lost⟩
    by_cases judged : (judgedPair t i).cell c = none
    · exact .inl ⟨body, judged⟩
    · exact .inr ⟨judged, lost⟩

theorem repair_loadPair : (loadPair t.array.slots[i] unbound).repair c = true ↔
    (storedCell t i c).body ≠ .empty ∧ (loadPair t.array.slots[i] unbound).cell c = none := by
  cases unbound with
  | false => exact repair_settled
  | true =>
    rw [loadPair_unbound, repair_emptyUnbound, repair_settled, cell_emptyUnbound]
    refine ⟨?_, fun ⟨body, _⟩ => ?_⟩
    · rintro (⟨body, -⟩ | held)
      · exact ⟨body, rfl⟩
      · obtain ⟨x, hx⟩ := Option.ne_none_iff_exists'.1 held
        exact ⟨(cell_judgedPair.1 (cell_settlePair.1 hx).1).body_ne, rfl⟩
    · by_cases settled : (settlePair (judgedPair t i)).cell c = none
      · exact .inl ⟨body, settled⟩
      · exact .inr settled

theorem quarantined_loadPair : (loadPair t.array.slots[i] unbound).quarantined = true ↔ EqualPair t i := by
  have settled : (settlePair (judgedPair t i)).quarantined = true ↔ EqualPair t i := by
    have alike (x y) : (judgedPair t i).a = some x ∧ (judgedPair t i).b = some y ∧ Alike x y ↔
        HoldsGen t i .a x ∧ HoldsGen t i .b y ∧ Alike x y :=
      and_congr (cell_judgedPair (c := .a)) (and_congr_left' (cell_judgedPair (c := .b)))
    rw [quarantined_settlePair]
    simp only [alike]
    exact or_iff_right nofun
  cases unbound <;> exact settled

/-! ### The floor (R186) -/

theorem bodyGen_eq {r : CellRec} {g : Nat} : bodyGen r = some g ↔ ∃ b, validBody r.body = some b ∧ b.params.generation = g := by
  simp [bodyGen]

theorem generation_le_greatestGen {b : GenBody} (h : validBody (storedCell t i c).body = some b) :
    b.params.generation ≤ greatestGen t.array.slots[i] := by
  have number : bodyGen (storedCell t i c) = some b.params.generation := bodyGen_eq.2 ⟨b, h, rfl⟩
  unfold greatestGen
  cases c
  · rw [show bodyGen t.array.slots[i].cellA = _ from number]
    exact Nat.le_max_left _ _
  · rw [show bodyGen t.array.slots[i].cellB = _ from number]
    exact Nat.le_max_right _ _

theorem greatestGen_taken (t : State) (i : Fin 32) : greatestGen t.array.slots[i] = 0 ∨
    ∃ c b, validBody (storedCell t i c).body = some b ∧ b.params.generation = greatestGen t.array.slots[i] := by
  have taken (c : CellId) (h : greatestGen t.array.slots[i] = (bodyGen (storedCell t i c)).getD 0) :
      greatestGen t.array.slots[i] = 0 ∨
        ∃ c b, validBody (storedCell t i c).body = some b ∧ b.params.generation = greatestGen t.array.slots[i] := by
    cases hg : bodyGen (storedCell t i c) with
    | none => exact .inl (by rw [h, hg]; rfl)
    | some g =>
      obtain ⟨b, hb, number⟩ := bodyGen_eq.1 hg
      exact .inr ⟨c, b, hb, by rw [h, hg]; exact number⟩
  obtain first | second := Nat.le_total ((bodyGen (storedCell t i .b)).getD 0) ((bodyGen (storedCell t i .a)).getD 0)
  · exact taken .a (Nat.max_eq_left first)
  · exact taken .b (Nat.max_eq_right second)

/-- The floor the loader takes is below the greatest generation exactly where it is below some (R188). -/
theorem lt_greatestGen {f : Nat} : f < greatestGen t.array.slots[i] ↔
    ∃ c b, validBody (storedCell t i c).body = some b ∧ f < b.params.generation := by
  constructor
  · intro less
    obtain zero | ⟨c, b, hb, number⟩ := greatestGen_taken t i
    · omega
    · exact ⟨c, b, hb, number ▸ less⟩
  · rintro ⟨c, b, hb, less⟩
    exact less.trans_le (generation_le_greatestGen hb)

/-! ### The binding of a rebuilt header (R3) -/

variable {assocs : Vector AssocImg 8}

theorem recordedBinding_some {b : Binding} (h : recordedBinding assocs i = some b) :
    roleGet (assocs[b.assoc]).bindings b.role = some i := by
  obtain ⟨k, -, hk⟩ := List.exists_of_findSome?_eq_some h
  obtain ⟨r, hr, rfl⟩ := Option.map_eq_some_iff.1 hk
  simpa using List.find?_some hr

theorem recordedBinding_none (h : recordedBinding assocs i = none) (k : Fin 8) : namesSlot (assocs[k]).bindings i = false := by
  have unnamed := List.findSome?_eq_none_iff.1 h k (mem_allAssocs k)
  rw [Option.map_eq_none_iff, List.find?_eq_none] at unnamed
  rw [Bool.eq_false_iff, ne_eq, namesSlot_iff]
  rintro ⟨r, hr⟩
  exact unnamed r (mem_allRoles r) (by simpa using hr)

end Sys2Proof.Machine
end

section
/-! PROOFS. The loader's slots, service hour and next strip position, and the faulted start (R3, R6, R39, R185 to R188, R192). -/

namespace Sys2Proof.Machine

variable {a : StoreArray} {assocs : Vector AssocImg 8} {t : State} {i : Fin 32} {c : CellId} {x : CellImg} {n v : Nat}

/-! ### The image of a slot (R186 to R188) -/

/-- The loader takes a valid header that binds the slot to no entry (R187). -/
def unboundHeader (assocs : Vector AssocImg 8) (r : SlotRec) (slot : Fin 32) : Bool :=
  r.header.isSome && (loadHeader assocs r slot).binding.isNone

theorem unboundHeader_iff {r : SlotRec} : unboundHeader assocs r i = true ↔ r.header.map (·.binding) = some none := by
  cases h : r.header <;> simp [unboundHeader, loadHeader, h]

theorem headerOf_loadSlot : headerOf (loadSlot a assocs i) = loadHeader assocs a.slots[i] i := rfl

theorem cellOf_loadSlot :
    cellOf (loadSlot a assocs i) c = (loadPair a.slots[i] (unboundHeader assocs a.slots[i] i)).cell c := by cases c <;> rfl

theorem repairOf_loadSlot : repairOf (loadSlot a assocs i) c =
    (!(loadSlot a assocs i).quarantined && (loadPair a.slots[i] (unboundHeader assocs a.slots[i] i)).repair c) := by
  cases c <;> rfl

theorem floor_loadSlot :
    (loadSlot a assocs i).floor = max ((twoValue a.slots[i].floor).getD 0) (greatestGen a.slots[i]) := rfl

theorem repairFloor_loadSlot : (loadSlot a assocs i).repairFloor =
    (!(loadSlot a assocs i).quarantined && decide ((twoValue a.slots[i].floor).getD 0 < greatestGen a.slots[i])) := rfl

theorem quarantined_loadSlot : (loadSlot a assocs i).quarantined =
    (a.slots[i].header.isNone || (twoValue a.slots[i].floor).isNone ||
      (loadPair a.slots[i] (unboundHeader assocs a.slots[i] i)).quarantined ||
      (bothLost a.slots[i] && decide (0 < (loadSlot a assocs i).floor))) := rfl

theorem bothLost_slots : bothLost t.array.slots[i] = true ↔ BothLost t i := by
  rw [bothLost_iff, bothLost, Bool.and_eq_true, beq_iff_eq, beq_iff_eq]
  exact ⟨fun ⟨first, second⟩ c => by cases c; exacts [first, second], fun lost => ⟨lost .a, lost .b⟩⟩

theorem leftOut_iff : LeftOut t i c x ↔
    unboundHeader assocs t.array.slots[i] i = true ∨ Outnumbered x ((judgedPair t i).cell (otherCell c)) := by
  rw [unboundHeader_iff]
  simp only [LeftOut, Outnumbered, cell_judgedPair]

section Slots

variable (h : t.slots = Vector.ofFn (loadSlot t.array t.assocs))
include h

theorem slotOf_loaded (i : Fin 32) : slotOf t i = loadSlot t.array t.assocs i := by simp [slotOf, h]

theorem loaded_held : cellOf (slotOf t i) c = some x ↔ HoldsGen t i c x ∧ ¬LeftOut t i c x := by
  rw [slotOf_loaded h, cellOf_loadSlot, cell_loadPair, leftOut_iff]

theorem loaded_repair (hq : (slotOf t i).quarantined = false) :
    repairOf (slotOf t i) c = true ↔ (storedCell t i c).body ≠ .empty ∧ cellOf (slotOf t i) c = none := by
  rw [slotOf_loaded h] at hq ⊢
  rw [repairOf_loadSlot, hq, cellOf_loadSlot, Bool.not_false, Bool.true_and]
  exact repair_loadPair

theorem loaded_quarantined : (slotOf t i).quarantined = true ↔ t.array.slots[i].header = none ∨
    twoValue t.array.slots[i].floor = none ∨ EqualPair t i ∨ BothLost t i ∧ 0 < (slotOf t i).floor := by
  rw [slotOf_loaded h, quarantined_loadSlot]
  simp only [Bool.or_eq_true, Bool.and_eq_true, Option.isNone_iff_eq_none, decide_eq_true_eq, or_assoc]
  rw [← bothLost_slots, ← quarantined_loadPair (unbound := unboundHeader t.assocs t.array.slots[i] i)]

theorem loaded_floorRepair (hq : (slotOf t i).quarantined = false) : (slotOf t i).repairFloor = true ↔ ∃ f c b,
    twoValue t.array.slots[i].floor = some f ∧ validBody (storedCell t i c).body = some b ∧ f < b.params.generation := by
  have known : twoValue t.array.slots[i].floor ≠ none := fun unknown => by
    rw [(loaded_quarantined h).2 (.inr (.inl unknown))] at hq
    cases hq
  obtain ⟨f, hf⟩ := Option.ne_none_iff_exists'.1 known
  rw [slotOf_loaded h] at hq ⊢
  rw [repairFloor_loadSlot, hq, hf, Bool.not_false, Bool.true_and, decide_eq_true_eq, Option.getD_some, lt_greatestGen]
  exact ⟨fun ⟨c, b, hb, less⟩ => ⟨f, c, b, rfl, hb, less⟩,
    fun ⟨g, c, b, hg, hb, less⟩ => ⟨c, b, hb, Option.some.inj hg ▸ less⟩⟩

theorem loaded_noRepairs (hq : (slotOf t i).quarantined = true) :
    (slotOf t i).repairFloor = false ∧ ∀ c, repairOf (slotOf t i) c = false := by
  rw [slotOf_loaded h] at hq ⊢
  rw [repairFloor_loadSlot, hq]
  exact ⟨rfl, fun c => by rw [repairOf_loadSlot, hq]; rfl⟩

theorem loaded_slotFloor (i : Fin 32) :
    (slotOf t i).floor = max ((twoValue t.array.slots[i].floor).getD 0) (greatestGen t.array.slots[i]) := by
  rw [slotOf_loaded h, floor_loadSlot]

theorem loaded_slotFloor_taken (i : Fin 32) : (slotOf t i).floor = 0 ∨
    twoValue t.array.slots[i].floor = some (slotOf t i).floor ∨
    ∃ (c : CellId) (b : GenBody), validBody (storedCell t i c).body = some b ∧ b.params.generation = (slotOf t i).floor := by
  rw [loaded_slotFloor h]
  obtain great | stored := Nat.le_total ((twoValue t.array.slots[i].floor).getD 0) (greatestGen t.array.slots[i])
  · rw [Nat.max_eq_right great]
    exact (greatestGen_taken t i).imp_right .inr
  · rw [Nat.max_eq_left stored]
    cases twoValue t.array.slots[i].floor with
    | none => exact .inl rfl
    | some f => exact .inr (.inl rfl)

theorem loaded_rebuilt (hr : t.array.slots[i].header = none) : (slotOf t i).policy = .erase ∧
    (slotOf t i).mode = .writeThrough ∧ (slotOf t i).suspended = false ∧
    (∀ b, (slotOf t i).binding = some b → roleGet (assocOf t b.assoc).bindings b.role = some i) ∧
    ((slotOf t i).binding = none → ∀ k, namesSlot (assocOf t k).bindings i = false) := by
  have header : headerOf (slotOf t i) = ⟨recordedBinding t.assocs i, .erase, .writeThrough, false⟩ := by
    rw [slotOf_loaded h, headerOf_loadSlot, loadHeader, hr]
    rfl
  obtain ⟨binding, policy, mode, suspended⟩ := HeaderBody.mk.inj header
  rw [binding]
  exact ⟨policy, mode, suspended, fun b => recordedBinding_some, recordedBinding_none⟩

end Slots

/-! ### The service hour (R39) -/

theorem le_foldl_max_of_mem {l : List Nat} (h : n ∈ l) (m : Nat) : n ≤ l.foldl max m := by
  induction l generalizing m with
  | nil => cases h
  | cons k l ih =>
    obtain _ | ⟨_, h⟩ := h
    · exact (Nat.le_max_right m n).trans (le_foldl_max l _)
    · exact ih h _

theorem foldl_max_mem (l : List Nat) (m : Nat) : l.foldl max m = m ∨ l.foldl max m ∈ l := by
  induction l generalizing m with
  | nil => exact .inl rfl
  | cons k l ih =>
    obtain same | taken := ih (max m k)
    · rw [List.foldl_cons, same]
      obtain first | second := Nat.le_total k m
      · exact .inl (Nat.max_eq_left first)
      · rw [Nat.max_eq_right second]
        exact .inr List.mem_cons_self
    · exact .inr (List.mem_cons_of_mem k taken)

theorem mem_stripValues : n ∈ stripValues a ↔ ∃ p : Fin 16, a.strip[p] = some n := by
  simp [stripValues, stripPositions]

theorem mem_slotHours : n ∈ slotHours t.array.slots[i] ↔
    ∃ c x p, HoldsGen t i c x ∧ x.activation = some p ∧ p.hour = n := by
  have one (c : CellId) : (match judgeCell (storedCell t i c) with
      | .holds x => x.activation.map (·.hour)
      | .empty => none
      | .lost => none) = some n ↔ ∃ x p, HoldsGen t i c x ∧ x.activation = some p ∧ p.hour = n := by
    simp only [holdsGen_iff]
    cases judgeCell (storedCell t i c) <;> simp
  simp only [slotHours, List.mem_filterMap, List.mem_cons, List.not_mem_nil, or_false]
  constructor
  · rintro ⟨_, rfl | rfl, hour⟩
    · exact ⟨.a, (one .a).1 hour⟩
    · exact ⟨.b, (one .b).1 hour⟩
  · rintro ⟨c, hour⟩
    exact ⟨storedCell t i c, by cases c; exacts [.inl rfl, .inr rfl], (one c).2 hour⟩

/-- The values of which the loader takes the greatest (R39). -/
theorem mem_hours : n ∈ (stripValues t.array ++ allSlots.flatMap fun i => slotHours t.array.slots[i]) ↔
    (∃ p : Fin 16, t.array.strip[p] = some n) ∨
      ∃ (i : Fin 32) (c : CellId) (x : CellImg) (p : Activation), HoldsGen t i c x ∧ x.activation = some p ∧ p.hour = n := by
  simp only [List.mem_append, mem_stripValues, List.mem_flatMap, mem_slotHours, allSlots, List.mem_finRange, true_and]

/-! ### The next strip position (R39) -/

theorem loadStrip_none (h : ∀ p : Fin 16, a.strip[p] = none) : loadStrip a = 0 := by
  have unfound : stripPositions.find? (fun i => a.strip[i] == some ((stripValues a).foldl max 0)) = none :=
    List.find?_eq_none.2 fun p _ => by simp [h p]
  rw [loadStrip, unfound]

theorem stripValues_foldl {p : Fin 16} (hp : a.strip[p] = some v)
    (greatest : ∀ (q : Fin 16) w, a.strip[q] = some w → w ≤ v) : (stripValues a).foldl max 0 = v := by
  apply Nat.le_antisymm
  · obtain zero | taken := foldl_max_mem (stripValues a) 0
    · omega
    · obtain ⟨q, hq⟩ := mem_stripValues.1 taken
      exact greatest q _ hq
  · exact le_foldl_max_of_mem (mem_stripValues.2 ⟨p, hp⟩) 0

theorem loadStrip_some {p : Fin 16} (hp : a.strip[p] = some v)
    (greatest : ∀ (q : Fin 16) w, a.strip[q] = some w → w ≤ v) (lowest : ∀ q : Fin 16, q < p → a.strip[q] ≠ some v) :
    loadStrip a = p + 1 := by
  have found : stripPositions.find? (fun i => a.strip[i] == some v) = some p := by
    rw [stripPositions, ← Fin.find?_eq_find?_finRange, Fin.find?_eq_some_iff]
    exact ⟨by simpa using hp, fun q hq => by simpa using lowest q hq⟩
  rw [loadStrip, stripValues_foldl hp greatest, found]

/-! ### The whole -/

/-- A state with the loader's slots, service hour and next strip position is loaded. -/
theorem loaded_of_parts (device : t.device = .loading) (clock : t.clock = ⟨0, loadHour t.array⟩)
    (strip : t.writer.nextStrip = loadStrip t.array) (slots : t.slots = Vector.ofFn (loadSlot t.array t.assocs)) :
    Loaded t.array t where
  device := device
  array := rfl
  seconds := by rw [clock]
  strip := fun p v hp => clock ▸ le_foldl_max_of_mem (mem_hours.2 (.inl ⟨p, hp⟩)) 0
  stamps := fun i c x p held stamp => clock ▸ le_foldl_max_of_mem (mem_hours.2 (.inr ⟨i, c, x, p, held, stamp, rfl⟩)) 0
  hour := by
    have hour : t.clock.hour = loadHour t.array := congrArg Clock.hour clock
    rw [hour]
    exact (foldl_max_mem _ 0).imp_right mem_hours.1
  noStrip := fun unwritten => strip.trans (loadStrip_none unwritten)
  nextStrip := fun p v hp greatest lowest => strip.trans (loadStrip_some hp greatest lowest)
  floor := fun i v hv => by
    rw [loaded_slotFloor slots, hv]
    exact Nat.le_max_left _ _
  cells := fun i c b hb => by
    rw [loaded_slotFloor slots]
    exact (generation_le_greatestGen hb).trans (Nat.le_max_right _ _)
  floorTaken := loaded_slotFloor_taken slots
  headers := fun i header hr => by rw [slotOf_loaded slots, headerOf_loadSlot, loadHeader, hr]; rfl
  rebuilt := fun i => loaded_rebuilt slots
  held := fun i c x => loaded_held slots
  repairs := fun i c => loaded_repair slots
  floorRepair := fun i => loaded_floorRepair slots
  noRepairs := fun i => loaded_noRepairs slots
  quarantined := fun i => loaded_quarantined slots
  marks := fun i => by
    rw [slotOf_loaded slots]
    exact ⟨rfl, rfl, rfl⟩

theorem runLoader_valid {s : State} (h : s.array.identity ≠ none) : runLoader s = loadImages (clearVolatile s) := by
  have valid : ¬(clearVolatile s).array.identity.isNone = true := fun absent => h (Option.isNone_iff_eq_none.1 absent)
  rw [runLoader]
  exact if_neg valid

theorem runLoader_invalid {s : State} (h : s.array.identity = none) : runLoader s = loadFaulted (clearVolatile s) := by
  have invalid : (clearVolatile s).array.identity.isNone = true := Option.isNone_iff_eq_none.2 h
  rw [runLoader]
  exact if_pos invalid

theorem loaded_runLoader {s : State} (h : s.array.identity ≠ none) : Loaded s.array (runLoader s) := by
  rw [runLoader_valid h]
  exact loaded_of_parts (t := loadImages (clearVolatile s)) rfl rfl rfl rfl

/-- An invalid identity record leaves the device FAULTED with one LOAD_COMPLETE of counts 0 (R185, R192). -/
theorem faulted_runLoader {s : State} (h : s.array.identity = none) : (runLoader s).device = .faulted ∧
    (runLoader s).notices = [.loadComplete .faulted 0 0 false false] ∧ (runLoader s).array = s.array := by
  rw [runLoader_invalid h]
  exact ⟨rfl, rfl, rfl⟩

theorem exec_nrstRelease {s : State} (supply : s.pins.supply = true) (held : s.pins.nrst = true) :
    exec .nrstRelease s = .next (runLoader { s with pins := { s.pins with nrst := false } }) := by
  simp only [exec, execNrstRelease, held, supply, if_true]

theorem exec_powerOnReset {s : State} (released : s.pins.nrst = false) :
    exec .powerOnReset s = .next (runLoader { s with pins := { s.pins with supply := true } }) := by
  simp only [exec, execPowerOnReset, released, Bool.false_eq_true, if_false]

theorem exec_powerOnReset_held {s : State} (held : s.pins.nrst = true) :
    exec .powerOnReset s = .next (clearVolatile { s with pins := { s.pins with supply := true } }) := by
  simp only [exec, execPowerOnReset, held, if_true]

/-- Settles O10: at the release of NRST and at a power-on reset with NRST released the loader builds the images or the device is
FAULTED; a power-on reset with NRST held leaves the part cleared. -/
theorem loaderBuildsTheImagesOrFaults : Obligations.LoaderBuildsTheImagesOrFaults := by
  intro s
  refine ⟨fun held => ⟨_, exec_powerOnReset_held held, ⟨rfl, rfl, rfl, rfl, rfl, rfl, rfl, rfl, rfl⟩, rfl⟩,
    fun valid => ⟨fun supply held => ⟨_, exec_nrstRelease supply held, ?_⟩,
      fun released => ⟨_, exec_powerOnReset released, ?_⟩⟩,
    fun invalid => ⟨fun supply held => ⟨_, exec_nrstRelease supply held, ?_⟩,
      fun released => ⟨_, exec_powerOnReset released, ?_⟩⟩⟩
  · exact loaded_runLoader (s := { s with pins := { s.pins with nrst := false } }) valid
  · exact loaded_runLoader (s := { s with pins := { s.pins with supply := true } }) valid
  · exact faulted_runLoader (s := { s with pins := { s.pins with nrst := false } }) invalid
  · exact faulted_runLoader (s := { s with pins := { s.pins with supply := true } }) invalid

end Sys2Proof.Machine
end

section
/-! PROOFS. Transfers on the Command Port: the direction byte, reads and invalid directions, and the frame of a write, which is refused
or handed over (R193 to R197, R206). -/

namespace Sys2Proof.Machine

variable {s : State} {c : Cmd} {code : Code} {bytes : List Byte}

/-! ### Directions (R193, R195, R196) -/

theorem executing_iff : executing s = true ↔ s.port.exec ≠ .free := by simp [executing]

theorem executing_eq (s : State) : executing s = decide (s.port.exec ≠ .free) := by
  rw [Bool.eq_iff_iff, executing_iff, decide_eq_true_iff]

theorem exec_directionByte (hrun : running s = true) (idle : s.port.transfer = none) (d : Byte) :
    exec (.directionByteReceived d) s = .next (beginTransfer d s) := if_pos (by simp [hrun, idle])

theorem beginTransfer_read (s : State) : beginTransfer 2#8 s =
    { s with port := { s.port with transfer := some ⟨.read, decide (s.port.exec ≠ .free)⟩ } } := by
  rw [← executing_eq]
  rfl

theorem beginTransfer_invalid {d : Byte} (notWrite : d ≠ 1#8) (notRead : d ≠ 2#8) : beginTransfer d s =
    { s with port := { s.port with transfer := some ⟨.invalid, decide (s.port.exec ≠ .free)⟩ } } := by
  rw [beginTransfer, if_neg notWrite, if_neg notRead, executing_eq]

theorem withTransfer_begun {x : Transfer} (begun : s.port.transfer = some x) (d : Byte) : withTransfer d s = s :=
  if_neg (by simp [begun])

theorem withTransfer_idle (idle : s.port.transfer = none) (d : Byte) : withTransfer d s = beginTransfer d s :=
  if_pos (by simp [idle])

theorem answerFrame_retained {r : Response} (retained : s.port.retained = some r) : answerFrame s false = r := by
  rw [answerFrame, retained]
  rfl

theorem answerFrame_empty (empty : s.port.retained = none) : answerFrame s false = ⟨.noResponse, false, []⟩ := by
  rw [answerFrame, empty]
  rfl

theorem frameBytes_noResponse : frameBytes ⟨.noResponse, false, []⟩ = [0x02#8, 0#8, 0#8, 0#8] := by decide

/-- A read transfer drives the frame that its direction byte has fixed and leaves the response (R195, R196). -/
theorem exec_readTransfer {busy : Bool} (hrun : running s = true) (begun : s.port.transfer = some ⟨.read, busy⟩) (count : Nat) :
    exec (.readTransfer count) s = .next { s with port := { s.port with
      transfer := none, pdo := clocked count (frameBytes (answerFrame s busy)) } } := by
  have ends : exec (.readTransfer count) s = .next (endRead count (withTransfer 2#8 s)) := if_pos hrun
  rw [ends, withTransfer_begun begun, endRead, begun]
  cases busy <;> rfl

/-- A transfer with an invalid direction byte drives zeros and leaves everything else, begun before or now (R193). -/
theorem exec_invalidDirection {d : Byte} {busy : Bool} (hrun : running s = true) (notWrite : d ≠ 1#8) (notRead : d ≠ 2#8)
    (begun : s.port.transfer = none ∨ s.port.transfer = some ⟨.invalid, busy⟩) (count : Nat) :
    exec (.invalidDirectionTransfer d count) s =
      .next { s with port := { s.port with transfer := none, pdo := List.replicate count 0#8 } } := by
  have ends : exec (.invalidDirectionTransfer d count) s = .next (endInvalid count (withTransfer d s)) :=
    if_pos (by simp [hrun, notWrite, notRead])
  rw [ends]
  obtain idle | begun := begun
  · rw [withTransfer_idle idle, beginTransfer_invalid notWrite notRead]
    rfl
  · rw [withTransfer_begun begun, endInvalid, begun]
    rfl

/-- Settles O13, by the direction that the byte fixes and the frame that each read drives. -/
theorem transfersFollowTheirDirection : Obligations.TransfersFollowTheirDirection := by
  refine ⟨fun d s hrun idle => ⟨?_, ?_, ?_, fun notWrite notRead => ?_⟩,
    fun count s hrun => ⟨fun begun => exec_readTransfer hrun begun count, fun r begun retained => ?_, fun begun empty => ?_,
      fun d busy notWrite notRead begun => exec_invalidDirection hrun notWrite notRead begun count⟩⟩
  · rintro rfl free
    have begins : beginTransfer 1#8 s = beginWrite s := rfl
    rw [exec_directionByte hrun idle, begins, beginWrite, if_neg (mt executing_iff.1 (not_not_intro free))]
  · rintro rfl busy
    have begins : beginTransfer 1#8 s = beginWrite s := rfl
    rw [exec_directionByte hrun idle, begins, beginWrite, if_pos (executing_iff.2 busy)]
  · rintro rfl
    rw [exec_directionByte hrun idle, beginTransfer_read]
  · rw [exec_directionByte hrun idle, beginTransfer_invalid notWrite notRead]
  · rw [exec_readTransfer hrun begun, answerFrame_retained retained]
  · rw [exec_readTransfer hrun begun, answerFrame_empty empty, frameBytes_noResponse]

/-! ### The frame of a write (R194) -/

/-- The state with the frame of a write transfer in the receive buffer. -/
def received (bytes : List Byte) (s : State) : State :=
  { s with port := { s.port with rx := bytes.take 303, rxCount := bytes.length, transfer := none } }

theorem exec_writeTransfer (hrun : running s = true) (begun : s.port.transfer = some ⟨.write, false⟩) (bytes : List Byte) :
    exec (.writeTransfer bytes) s = .next (judgeFrame bytes (endTransfer s)) := by
  have ends : exec (.writeTransfer bytes) s = .next (endWrite bytes (withTransfer 1#8 s)) := if_pos hrun
  rw [ends, withTransfer_begun begun, endWrite, begun]

theorem exec_writeTransfer_discarded (hrun : running s = true) (begun : s.port.transfer = some ⟨.write, true⟩)
    (bytes : List Byte) : exec (.writeTransfer bytes) s = .next (endTransfer s) := by
  have ends : exec (.writeTransfer bytes) s = .next (endWrite bytes (withTransfer 1#8 s)) := if_pos hrun
  rw [ends, withTransfer_begun begun, endWrite, begun]

theorem judgeFrame_eq (bytes : List Byte) (s : State) : judgeFrame bytes (endTransfer s) =
    match frameCheck bytes.length (bytes.take 303) with
    | .error c => respond c [] (received bytes s)
    | .ok c => judgeRequest c (frameBody (bytes.take 303)) (received bytes s) := rfl

/-- A frame that fails a check is answered at once (R194). -/
theorem exec_writeTransfer_error (hrun : running s = true) (begun : s.port.transfer = some ⟨.write, false⟩)
    (fails : frameCheck bytes.length (bytes.take 303) = .error code) :
    exec (.writeTransfer bytes) s = .next (respond code [] (received bytes s)) := by
  rw [exec_writeTransfer hrun begun, judgeFrame_eq, fails]

/-- A frame that passes the checks has its request judged against the device state (R197). -/
theorem exec_writeTransfer_ok (hrun : running s = true) (begun : s.port.transfer = some ⟨.write, false⟩)
    (passes : frameCheck bytes.length (bytes.take 303) = .ok c) :
    exec (.writeTransfer bytes) s = .next (judgeRequest c (frameBody (bytes.take 303)) (received bytes s)) := by
  rw [exec_writeTransfer hrun begun, judgeFrame_eq, passes]

section checks

variable {n : Nat}

theorem frameCheck_length (h : n < 3 ∨ n ≠ 3 + fieldNat bytes 1 2) : frameCheck n bytes = .error .badLength :=
  if_pos (by simpa using h)

/-- Past the length check the code decides, and then the length of the body. -/
theorem frameCheck_full (full : n = 3 + fieldNat bytes 1 2) : frameCheck n bytes =
    match cmdOfCode (u8 (fieldNat bytes 0 1)) with
    | none => .error .unknownCommand
    | some c =>
      if fieldNat bytes 1 2 < (bodyRange c).1 || (bodyRange c).2 < fieldNat bytes 1 2 then .error .badLength else .ok c :=
  if_neg (by simp [full])

theorem frameCheck_unknown (full : n = 3 + fieldNat bytes 1 2) (unknown : cmdOfCode (u8 (fieldNat bytes 0 1)) = none) :
    frameCheck n bytes = .error .unknownCommand := by rw [frameCheck_full full, unknown]

theorem frameCheck_body (full : n = 3 + fieldNat bytes 1 2) (known : cmdOfCode (u8 (fieldNat bytes 0 1)) = some c)
    (outside : fieldNat bytes 1 2 < (bodyRange c).1 ∨ (bodyRange c).2 < fieldNat bytes 1 2) :
    frameCheck n bytes = .error .badLength := by
  rw [frameCheck_full full, known]
  exact if_pos (by simpa using outside)

end checks

/-! ### The request and the device state (R197, R206) -/

theorem alwaysRun_iff : alwaysRun c = true ↔ c = .identify ∨ c = .readNotices := by cases c <;> simp [alwaysRun]

theorem alwaysRun_false (notIdentify : c ≠ .identify) (notNotices : c ≠ .readNotices) : ¬alwaysRun c = true := fun runs =>
  (alwaysRun_iff.1 runs).elim notIdentify notNotices

theorem judgeRequest_handsOver (h : s.device = .serving ∨ c = .identify ∨ c = .readNotices) (body : List Byte) :
    judgeRequest c body s = handOver c body s := by
  unfold judgeRequest
  split
  · rfl
  · rename_i refusable
    have serves : s.device = .serving := h.resolve_right (mt alwaysRun_iff.2 refusable)
    simp only [serves, stateRefusal, if_true]

theorem judgeRequest_refused (notIdentify : c ≠ .identify) (notNotices : c ≠ .readNotices)
    (refuses : stateRefusal s.device = some code) (body : List Byte) : judgeRequest c body s = respond code [] s := by
  rw [judgeRequest, if_neg (alwaysRun_false notIdentify notNotices), refuses]

theorem judgeRequest_endsHold (notIdentify : c ≠ .identify) (notNotices : c ≠ .readNotices)
    (hold : s.device = .holding .command) (body : List Byte) : judgeRequest c body s = handOver c body (resumeServing s) := by
  rw [judgeRequest, if_neg (alwaysRun_false notIdentify notNotices), hold]
  exact congrArg (handOver c body) (if_neg nofun)

/-- Settles O14: a request is handed over as it stands, or after the return from a command hold. -/
theorem writeTransferHandsTheRequestOver : Obligations.WriteTransferHandsTheRequestOver := by
  intro bytes c s hrun begun passes
  refine ⟨fun runs => ?_, fun hold notIdentify notNotices => ⟨_, exec_writeTransfer_ok hrun begun passes, ?_⟩⟩
  · rw [exec_writeTransfer_ok hrun begun passes, judgeRequest_handsOver (s := received bytes s) runs]
    rfl
  · have held : (received bytes s).device = .holding .command := hold
    let body := frameBody (bytes.take 303)
    have kept : Kept _ (handOver c body (resumeServing (received bytes s))) :=
      kept_handOver (kept_resumeServing (by simp [held]) (kept_refl _))
    have beside : Beside _ (handOver c body (resumeServing (received bytes s))) := beside_handOver (resumed_beside _)
    rw [judgeRequest_endsHold notIdentify notNotices held]
    exact ⟨beside.device, rfl, kept.array, kept.clock⟩

/-- Settles O15: the checks of the frame in their order, then the refusal by the device state. -/
theorem refusedRequestsChangeOnlyThePort : Obligations.RefusedRequestsChangeOnlyThePort := by
  intro bytes s hrun
  refine ⟨fun begun => exec_writeTransfer_discarded hrun begun bytes, fun begun =>
    ⟨fun length => ?_, fun full unknown => ?_, fun c full known outside => ?_, fun c passes notIdentify notNotices => ?_⟩⟩
  · exact exec_writeTransfer_error hrun begun (frameCheck_length length)
  · exact exec_writeTransfer_error hrun begun (frameCheck_unknown full unknown)
  · exact exec_writeTransfer_error hrun begun (frameCheck_body full known outside)
  · have refused (code : Code) (refuses : stateRefusal s.device = some code) :
        exec (.writeTransfer bytes) s = .next (respond code [] (received bytes s)) := by
      rw [exec_writeTransfer_ok hrun begun passes,
        judgeRequest_refused (s := received bytes s) notIdentify notNotices refuses]
    exact ⟨fun d => refused .notLoaded (by rw [d]; rfl), fun d => refused .powerFailing (by rw [d]; rfl),
      fun d => refused .faulted (by rw [d]; rfl)⟩

end Sys2Proof.Machine
end

section
/-! PROOFS. Resets clear the volatile state (R76, R98, R113, R170, R176, R180, R193). IDENTIFY and READ NOTICES answer their records, and
the attention line follows the Notice Set (R198, R200, R201). -/

namespace Sys2Proof.Machine

variable {s : State} {body : List Byte}

/-! ### Resets (R180, R193) -/

/-- What is left as all volatile state is cleared: the lines, the array and the commands that wait. -/
structure NothingLeft (s t : State) : Prop where
  cleared : Cleared t
  array : t.array = s.array
  pending : t.pending = s.pending
  pins : t.pins = s.pins
  monitor : t.monitor = .reset
  loadTamper : t.loadTamper = false
  slots : ∀ i, slotOf t i = .blank
  assocs : ∀ i, assocOf t i = .blank none

theorem nothingLeft_clearVolatile (s : State) : NothingLeft s (clearVolatile s) where
  cleared := ⟨rfl, rfl, rfl, rfl, rfl, rfl, rfl, rfl, rfl⟩
  array := rfl
  pending := rfl
  pins := rfl
  monitor := rfl
  loadTamper := rfl
  slots i := Vector.getElem_replicate i.isLt
  assocs i := Vector.getElem_replicate i.isLt

/-- Settles O9: both leave what `clearVolatile` leaves of the state with the line or the supply changed and the write in hand torn. -/
theorem resetsClearTheVolatileState : Obligations.ResetsClearTheVolatileState := by
  intro torn s
  have reset := nothingLeft_clearVolatile { s with array := tornArray torn s, pins := { s.pins with nrst := true } }
  have lost := nothingLeft_clearVolatile { s with array := tornArray torn s, pins := { s.pins with supply := false } }
  exact ⟨⟨_, rfl, ⟨reset.cleared, reset.array, reset.pending, reset.monitor, reset.loadTamper, reset.slots, reset.assocs⟩,
      reset.pins⟩,
    _, rfl, ⟨lost.cleared, lost.array, lost.pending, lost.monitor, lost.loadTamper, lost.slots, lost.assocs⟩, lost.pins⟩

/-! ### IDENTIFY and READ NOTICES (R198, R200) -/

theorem exec_identify (h : Handed .identify body s) : exec .identify s = .next (respond .ok (identifyBody s) s) :=
  onHanded_of_handed h

theorem exec_readNotices (h : Handed .readNotices body s) : exec .readNotices s = .next (readNotices s) :=
  onHanded_of_handed h

/-- Settles O16, by the two forms of the identity record and the number of notices taken. -/
theorem identifyAndReadNoticesAnswer : Obligations.IdentifyAndReadNoticesAnswer := by
  refine ⟨fun body s h => ?_, fun body s h => ?_⟩
  · rw [exec_identify h]
    cases valid : s.array.identity with
    | some id =>
      refine ⟨be64 id.title, 1#8, id.revision, ?_, nofun, ?_⟩
      · rintro _ ⟨⟩
        exact ⟨rfl, rfl, rfl⟩
      · simp [identifyBody, valid]
    | none => exact ⟨be64 0#64, 0#8, Config.revisionUnread, nofun, fun _ => ⟨rfl, rfl⟩, by simp [identifyBody, valid]⟩
  · rw [exec_readNotices h, readNotices, noticesBody, List.length_take]

/-! ### The attention line (R201) -/

theorem attn_iff : attn s = true ↔ s.notices ≠ [] ∧ s.device ≠ .loading ∧ running s = true := by
  simp only [attn, running, Bool.and_eq_true, Bool.not_eq_true', List.isEmpty_eq_false_iff, bne_iff_ne]
  tauto

/-- READ NOTICES leaves the line asserted exactly where more notices than it takes are pending. -/
theorem attn_readNotices (hrun : running s = true) (hd : s.device ≠ .loading) :
    attn (readNotices s) = true ↔ 16 < s.notices.length := by
  have left : (readNotices s).notices = s.notices.drop 16 := rfl
  have device : (readNotices s).device = s.device := rfl
  have runs : running (readNotices s) = true := hrun
  rw [attn_iff, left, device, ne_eq, List.drop_eq_nil_iff, Nat.not_le]
  exact and_iff_left ⟨hd, runs⟩

/-- The line is asserted as the device leaves LOADING, for LOAD_COMPLETE is pending (R191, R192). -/
theorem attn_leaveLoading (hrun : running s = true) (hd : s.device = .loading) : attn (leaveLoading s) = true := by
  have kept := kept_leaveLoading hd (kept_refl s)
  have pending := loadComplete_loadNoted s
  rw [← (roomLeft_leaveLoading s).notices] at pending
  refine attn_iff.2 ⟨List.ne_nil_of_mem pending, ?_, ?_⟩
  · rw [device_leaveLoading]
    cases s.pins.pfail <;> nofun
  · rw [running, kept.pins]
    exact hrun

theorem attn_loading (hd : s.device = .loading) : attn s = false := by
  refine Bool.eq_false_iff.2 fun asserted => ?_
  obtain ⟨-, left, -⟩ := attn_iff.1 asserted
  exact left hd

theorem attn_nrstReset (torn : Torn) (s : State) :
    attn (clearVolatile { s with array := tornArray torn s, pins := { s.pins with nrst := true } }) = false :=
  attn_loading rfl

/-- Settles O17: the condition of the line, as READ NOTICES, the end of loading and a reset leave it. -/
theorem attnFollowsTheNoticeSet : Obligations.AttnFollowsTheNoticeSet := by
  intro s
  refine ⟨attn_iff, fun body handed hd => ?_, fun hrun hd hj ht => ?_, fun torn => ⟨_, rfl, attn_nrstReset torn s⟩⟩
  · have ⟨hrun, _⟩ := handed
    exact ⟨_, exec_readNotices handed, attn_readNotices hrun hd⟩
  · exact ⟨attn_loading hd, _, exec_leaveLoading hrun hd hj ht, attn_leaveLoading hrun hd⟩

end Sys2Proof.Machine
end

section
/-! PROOFS. HOLD_DRAINED alone brings a device that holds no command hold to one: what every other command does to the device state (R184,
R191, R202, R204 to R206). -/

namespace Sys2Proof.Machine

variable {r s t u : State}

/-- A command hold is one that stood before. -/
def HeldBefore (r s : State) : Prop := s.device = .holding .command → r.device = .holding .command

theorem heldBefore_refl (s : State) : HeldBefore s s := id

theorem HeldBefore.trans (h : HeldBefore r s) (k : HeldBefore s t) : HeldBefore r t := fun held => h (k held)

theorem heldBefore_of_device (h : s.device = r.device) : HeldBefore r s := h.symm.trans

theorem heldBefore_of_other (h : s.device ≠ .holding .command) : HeldBefore r s := fun held => absurd held h

theorem heldBefore_loading (h : s.device = .loading) : HeldBefore r s := heldBefore_of_other (by simp [h])

theorem Beside.heldBefore (h : Beside r s) : HeldBefore r s := heldBefore_of_device h.device

/-! ### Comparisons (R161) -/

theorem heldBefore_compareNow (origin : Origin) (s : State) : HeldBefore s (compareNow origin s) := by
  unfold compareNow
  split
  · exact id
  · split
    · exact (beside_eventEnd origin { s with monitor := { s.monitor with matching := false } }).heldBefore
    · exact id

theorem heldBefore_compareLive (s : State) : HeldBefore s (compareLive s) := by
  unfold compareLive
  split
  · exact heldBefore_compareNow .live s
  · exact id

/-! ### The Store Writer (R176, R180, R181, R184) -/

theorem heldBefore_doneEffect (q : QJob) (hour : Nat) (both : Bool) (s : State) :
    HeldBefore s (doneEffect q hour both s) := by
  cases slot : jobSlot q.job with
  | some i => exact heldBefore_of_device (offSlot_doneEffect slot hour both s).device
  | none =>
    obtain job | ⟨k, form, job⟩ | ⟨k, p, c, v, job⟩ | ⟨record, job⟩ := jobSlot_none slot
    · simp only [doneEffect, job]
      exact id
    · cases form <;> simp only [doneEffect, job] <;> exact id
    · simp only [doneEffect, job]
      exact id
    · simp only [doneEffect, job]
      exact id

theorem heldBefore_completeJob (q : QJob) (hour : Nat) (both : Bool) (s : State) :
    HeldBefore s (completeJob q hour both s) := by
  have told : HeldBefore s (tellContext q (tellPort q (doneEffect q hour both s))) :=
    (heldBefore_doneEffect q hour both s).trans (beside_tellContext (beside_tellPort (beside_refl _))).heldBefore
  cases arm : isArm q.job with
  | false => rwa [completeJob_of_not_arm arm]
  | true =>
    have compares : completeJob q hour both s = compareLive (tellContext q (tellPort q (doneEffect q hour both s))) :=
      if_pos arm
    rw [compares]
    exact told.trans (heldBefore_compareLive _)

theorem heldBefore_noteItem (stale : Bool) (f : TamperWork → TamperWork) (s : State) : HeldBefore s (noteItem stale f s) := by
  unfold noteItem
  split <;> exact id

theorem heldBefore_completeItem (slot : Fin 32) (act : TamperAct) (stale : Bool) (s : State) :
    HeldBefore s (completeItem slot act stale s) := by
  have noted := heldBefore_noteItem stale (fun w => { w with completed := w.completed ++ [slot] }) s
  cases act with
  | suspend => exact noted
  | erase =>
    exact noted.trans (heldBefore_of_device
      (offSlot_doneRevoke slot false (clearBar slot (noteItem stale _ s))).device)

theorem heldBefore_completeClosing (s : State) : HeldBefore s (completeClosing s) := by
  unfold completeClosing
  dsimp only
  repeat' split
  all_goals exact id

theorem heldBefore_completeTask (x : Running) (s : State) : HeldBefore s (completeTask x s) := by
  unfold completeTask
  split
  · exact heldBefore_completeJob _ _ _ s
  · exact id
  · exact id
  · exact heldBefore_completeItem _ _ _ s
  · exact heldBefore_completeClosing s

theorem heldBefore_enterFaulted (s : State) : HeldBefore s (enterFaulted s) := by
  obtain ⟨ns, parts⟩ := nowFaulted_parts s
  have settles : Beside (faultedWith ns s) (enterFaulted s) := by
    rw [enterFaulted_eq, parts]
    exact beside_portSettle (beside_refl _)
  refine heldBefore_of_other ?_
  rw [settles.device]
  exact nofun

theorem heldBefore_failJob (q : QJob) (s : State) : HeldBefore s (failJob q s) := by
  have told := (beside_failTold q s).heldBefore
  rw [failJob_eq]
  cases slot : jobSlot q.job with
  | some i =>
    rw [failEffect_slot slot]
    exact told.trans (beside_quarantineSlot (beside_refl _)).heldBefore
  | none =>
    obtain job | ⟨k, form, job⟩ | ⟨k, p, c, v, job⟩ | ⟨record, job⟩ := jobSlot_none slot <;> rw [job] <;> exact told

theorem heldBefore_failTask (x : Running) (s : State) : HeldBefore s (failTask x s) := by
  unfold failTask
  split
  · exact heldBefore_failJob _ s
  · exact (beside_quarantineSlot (beside_refl s)).heldBefore
  · exact heldBefore_enterFaulted s
  · exact (heldBefore_noteItem _ _ s).trans
      (beside_quarantineSlot (r := clearBar _ (noteItem _ _ s)) (beside_refl _)).heldBefore
  · exact heldBefore_enterFaulted s

theorem heldBefore_startTask (x : Task) (ws : List ArrayWrite) (s : State) : HeldBefore s (startTask x ws s) := by
  unfold startTask
  dsimp only
  split
  · exact heldBefore_completeTask _ s
  · exact id

theorem heldBefore_takeItem (w : TamperWork) (s : State) : HeldBefore s (takeItem w s) := by
  unfold takeItem
  dsimp only
  repeat' split
  all_goals first | exact id | exact heldBefore_startTask _ _ { s with writer := _ }

theorem heldBefore_takeFlush (it : FlushItem) (rest : List FlushItem) (s : State) : HeldBefore s (takeFlush it rest s) := by
  unfold takeFlush
  dsimp only
  repeat' split
  all_goals first | exact id | exact heldBefore_startTask _ _ _

theorem heldBefore_takeQueued (q : QJob) (rest : List QJob) (s : State) : HeldBefore s (takeQueued q rest s) := by
  unfold takeQueued
  dsimp only
  split
  · exact (beside_dropJob (r := setQueue rest s) (beside_refl _)).heldBefore
  · exact heldBefore_startTask _ _ (setQueue rest s)

theorem heldBefore_takeNext (s : State) : HeldBefore s (takeNext s) := by
  unfold takeNext
  split
  · exact heldBefore_takeItem _ s
  · split
    · split
      · exact heldBefore_takeFlush _ _ s
      · exact id
    · split
      · exact heldBefore_takeQueued _ _ s
      · exact id
    · exact id

theorem heldBefore_writeEnd (x : Running) (w : ArrayWrite) (rest : List ArrayWrite) (b : ReadBack) (s : State) :
    HeldBefore s (writeEnd x w rest b s) := by
  cases b with
  | matched =>
    cases rest with
    | nil => exact heldBefore_completeTask x (lastWritten w s)
    | cons w' rest => exact id
  | mismatched left =>
    cases retried : x.retried with
    | false => rw [writeEnd_retried retried]; exact id
    | true => rw [writeEnd_failed retried]; exact heldBefore_failTask x (writeFailed left w s)

/-! ### Power and transfers (R185, R191, R197, R202, R204) -/

theorem heldBefore_runLoader (s : State) : HeldBefore s (runLoader s) := by
  unfold runLoader
  dsimp only
  split <;> exact heldBefore_of_other nofun

theorem heldBefore_leaveLoading (s : State) : HeldBefore s (leaveLoading s) := by
  refine heldBefore_of_other ?_
  rw [device_leaveLoading]
  split <;> nofun

theorem heldBefore_resumeServing (s : State) : HeldBefore s (resumeServing s) := by
  refine heldBefore_of_other ?_
  rw [(resumed_beside s).device]
  exact nofun

theorem heldBefore_warningTaken (s : State) : HeldBefore s (warningTaken s) := by
  have held : Beside { s with device := .holding .power } (warningTaken s) :=
    beside_portAtWarning (beside_dropQueue (beside_powerFailCtx (beside_powerFailCtx (beside_fixBudget (beside_refl _)))))
  refine heldBefore_of_other ?_
  rw [held.device]
  exact nofun

theorem heldBefore_judgeRequest (c : Cmd) (body : List Byte) (s : State) : HeldBefore s (judgeRequest c body s) := by
  unfold judgeRequest
  split
  · exact id
  · split
    · exact id
    · split
      · exact id
      · exact (heldBefore_resumeServing s).trans (beside_handOver (beside_refl _)).heldBefore

theorem heldBefore_judgeFrame (bytes : List Byte) (s : State) : HeldBefore s (judgeFrame bytes s) := by
  unfold judgeFrame
  dsimp only
  split
  · exact id
  · exact heldBefore_judgeRequest _ _ { s with port := { s.port with rx := bytes.take 303, rxCount := bytes.length } }

theorem heldBefore_endWrite (bytes : List Byte) (s : State) : HeldBefore s (endWrite bytes s) := by
  unfold endWrite
  split
  · exact heldBefore_judgeFrame bytes (endTransfer s)
  all_goals exact id

theorem heldBefore_hourEdge (s : State) : HeldBefore s (hourEdge s) := by
  unfold hourEdge
  split
  · exact (beside_hourBoundary (beside_refl s)).heldBefore
  · exact id

/-! ### The commands -/

theorem heldBefore_next (e : Host.Outcome.next u = (.next t : Host.Outcome State Fault Refusal)) (h : HeldBefore s u) :
    HeldBefore s t := by
  cases e
  exact h

/-- A command that does nothing where its condition fails. -/
theorem heldBefore_ite {p : Prop} [Decidable p] (h : HeldBefore s u)
    (e : (if p then .next u else .next s : Host.Outcome State Fault Refusal) = .next t) : HeldBefore s t := by
  split at e
  · exact heldBefore_next e h
  · exact heldBefore_next e (heldBefore_refl s)

theorem heldBefore_onHanded {c : Cmd} {run : List Byte → State → State} (h : ∀ b, Beside s (run b s))
    (e : onHanded c run s = .next t) : HeldBefore s t := by
  unfold onHanded at e
  split at e
  · exact heldBefore_next e (heldBefore_refl s)
  · exact heldBefore_next e (h _).heldBefore

theorem heldBefore_onHandedContext {c : Cmd} {run : List Byte → Fin 2 → State → State} (h : ∀ b i, Beside s (run b i s))
    (e : onHanded c (fun b => onContext b (run b)) s = .next t) : HeldBefore s t :=
  heldBefore_onHanded (fun b => beside_onContext (h b) (beside_refl s)) e

/-- The end of an engine job or of a write, with the command it may leave waiting in FAULTED. -/
theorem heldBefore_settled (h : HeldBefore s u) (e : settled u = .next t) : HeldBefore s t :=
  heldBefore_next e (h.trans (beside_portSettle (beside_refl u)).heldBefore)

/-- No command but HOLD_DRAINED brings a device to a command hold. -/
theorem heldBefore_exec {c : Instr} (other : c ≠ .holdDrained) (e : exec c s = .next t) : HeldBefore s t := by
  have free : Beside s (engineFree s) := beside_engineFree (beside_refl s)
  cases c with
  | holdDrained => exact absurd rfl other
  | powerOnReset =>
    refine heldBefore_next e ?_
    split
    · exact heldBefore_loading rfl
    · exact heldBefore_runLoader { s with pins := { s.pins with supply := true } }
  | nrstReset => exact heldBefore_next e (heldBefore_loading rfl)
  | powerLoss => exact heldBefore_next e (heldBefore_loading rfl)
  | nrstRelease =>
    refine heldBefore_ite ?_ e
    split
    · exact heldBefore_runLoader { s with pins := { s.pins with nrst := false } }
    · exact id
  | leaveLoading =>
    refine heldBefore_next e ?_
    split
    · exact heldBefore_leaveLoading s
    · exact id
  | writeTransfer bytes =>
    exact heldBefore_ite ((beside_withTransfer (beside_refl s)).heldBefore.trans (heldBefore_endWrite bytes _)) e
  | readTransfer => exact heldBefore_ite (beside_endRead (beside_withTransfer (beside_refl s))).heldBefore e
  | invalidDirectionTransfer => exact heldBefore_ite (beside_endInvalid (beside_withTransfer (beside_refl s))).heldBefore e
  | directionByteReceived => exact heldBefore_ite (beside_beginTransfer (beside_refl s)).heldBefore e
  | identify => exact heldBefore_onHanded (fun _ => beside_respond (beside_refl s)) e
  | readNotices =>
    simp only [exec, execReadNotices, onHanded] at e
    split at e <;> exact heldBefore_next e id
  | hold =>
    exact heldBefore_onHanded (run := fun _ s => portSettle (runHold s))
      (fun _ => beside_portSettle (beside_runHold (beside_refl s))) e
  | protect =>
    exact heldBefore_onHanded (run := fun b s => portSettle (protectBodyRun b s))
      (fun _ => beside_portSettle (beside_protectBodyRun (beside_refl s))) e
  | unprotect =>
    exact heldBefore_onHanded (run := fun b s => portSettle (unprotectBodyRun b s))
      (fun _ => beside_portSettle (beside_unprotectBodyRun (beside_refl s))) e
  | activateCommand =>
    exact heldBefore_onHanded (run := fun b s => portSettle (activateBodyRun b s))
      (fun _ => beside_portSettle (beside_activateBodyRun (beside_refl s))) e
  | slotQuery => exact heldBefore_onHanded (fun _ => beside_slotQuery (beside_refl s)) e
  | directoryFirst => exact heldBefore_onHanded (fun _ => beside_directoryFirst (beside_refl s)) e
  | directoryNext => exact heldBefore_onHanded (fun _ => beside_directoryNext (beside_refl s)) e
  | associationQuery => exact heldBefore_onHanded (fun _ => beside_associationQuery (beside_refl s)) e
  | renewOpen => exact heldBefore_onHandedContext (fun _ _ => beside_renewOpen (beside_refl s)) e
  | renewPart => exact heldBefore_onHandedContext (fun _ _ => beside_renewPart (beside_refl s)) e
  | renewClose => exact heldBefore_onHandedContext (fun _ _ => beside_renewClose (beside_refl s)) e
  | renewResult => exact heldBefore_onHandedContext (fun _ _ => beside_renewResult (beside_refl s)) e
  | renewDrop => exact heldBefore_onHandedContext (fun _ _ => beside_renewDrop (beside_refl s)) e
  | intakeTimerExpiry => exact heldBefore_ite (beside_ctxFail (beside_refl s)).heldBefore e
  | stickEdge =>
    simp only [exec, execStickEdge] at e
    split at e
    · split at e
      · exact heldBefore_next e id
      · exact heldBefore_next e (heldBefore_hourEdge s)
    · exact heldBefore_next e id
  | hourBoundary => exact heldBefore_ite (beside_hourBoundary (beside_refl s)).heldBefore e
  | tamperInputLevelChange =>
    simp only [exec, execTamperInputLevelChange] at e
    split at e <;> exact heldBefore_next e id
  | debounceHoldExpiry set =>
    exact heldBefore_ite (heldBefore_compareLive (settleInputs (endingHolds s set) s)) e
  | firstComparison =>
    exact heldBefore_ite (heldBefore_compareNow .load { s with monitor := { s.monitor with compared := true } }) e
  | pfailAssert =>
    simp only [exec, execPfailAssert] at e
    split at e
    · exact heldBefore_next e id
    · split at e
      case h_1 | h_2 =>
        refine heldBefore_next e ?_
        split
        · exact id
        · exact heldBefore_warningTaken
            { s with pins := { s.pins with pfail := true }, warning := ⟨true, false⟩ }
      all_goals exact heldBefore_next e id
  | pfailDeasserted => exact heldBefore_next e id
  | pfailWithdraw =>
    refine heldBefore_ite ?_ e
    split
    · exact heldBefore_resumeServing { s with warning := ⟨false, false⟩ }
    · exact id
  | jobTake =>
    simp only [exec, execJobTake] at e
    split at e
    · exact heldBefore_settled (heldBefore_takeNext s) e
    · exact heldBefore_next e id
  | roomGiven =>
    refine heldBefore_ite ?_ e
    cases given : giveOne s with
    | none => exact id
    | some u => exact (beside_giveOne given (beside_refl s)).heldBefore
  | storeWriteReadBack b =>
    simp only [exec, execStoreWriteReadBack] at e
    split at e
    · exact heldBefore_next e id
    · split at e
      · exact heldBefore_next e id
      · split at e
        · exact heldBefore_settled (heldBefore_writeEnd _ _ _ b s) e
        · exact heldBefore_next e id
  | engineGrant =>
    refine heldBefore_next e ?_
    split
    · exact (beside_grantNext (beside_refl s)).heldBefore
    · exact id
  | fillUnwrapEnd =>
    simp only [exec, execFillUnwrapEnd] at e
    split at e
    · exact heldBefore_settled (beside_endFill (beside_refl s)).heldBefore e
    · exact heldBefore_next e id
  | frameProtectEnd =>
    simp only [exec, execFrameProtectEnd] at e
    split at e
    · exact heldBefore_settled (beside_endFrameProtect free).heldBefore e
    · exact heldBefore_next e id
  | frameUnprotectEnd =>
    simp only [exec, execFrameUnprotectEnd] at e
    split at e
    · exact heldBefore_settled (beside_endFrameUnprotect free).heldBefore e
    · exact heldBefore_next e id
  | tokenCheckEnd =>
    simp only [exec, execTokenCheckEnd] at e
    split at e
    · exact heldBefore_settled (beside_endToken free).heldBefore e
    · exact heldBefore_next e id
  | keyUnwrapEnd =>
    simp only [exec, execKeyUnwrapEnd] at e
    split at e
    · exact heldBefore_settled (beside_renewalJobEnd (fun _ => beside_unwrapEnd free) free).heldBefore e
    · exact heldBefore_next e id
  | bundleTagCheckEnd =>
    simp only [exec, execBundleTagCheckEnd] at e
    split at e
    · exact heldBefore_settled (beside_renewalJobEnd (fun _ => beside_tagEnd free) free).heldBefore e
    · exact heldBefore_next e id
  | receiptEnd =>
    simp only [exec, execReceiptEnd] at e
    split at e
    · exact heldBefore_settled (beside_renewalJobEnd (fun _ => beside_becomeStoring free) free).heldBefore e
    · exact heldBefore_next e id
  | contextTaken =>
    simp only [exec, execContextTaken] at e
    split at e
    · exact heldBefore_next e id
    · exact heldBefore_ite (beside_beginVerification (beside_refl s)).heldBefore e

end Sys2Proof.Machine
end

section
/-! PROOFS. The drain of a HOLD: what it waits for, and the hold in which it stays met (R178, R205). -/

namespace Sys2Proof.Machine

variable {s t : State} {failed : Bool}

/-! ### Nobody to give room to (R178) -/

theorem giveOne_none_iff (s : State) : giveOne s = none ↔ ∀ way ∈ roomWays, way s = none := by
  rw [giveOne_eq, List.findSome?_eq_none_iff]

theorem portRoom_hold (hold : s.port.exec = .hold failed) : portRoom s = none := by simp only [portRoom, hold]

theorem serveWaits_none (h : s.cache.waits = []) (p : WaitFill → Bool) : serveWaits p s = none := by
  simp only [serveWaits, h, List.find?_nil]

theorem serveFlush_none (h : ∀ e ∈ s.cache.entries, e.flushReq = false) : serveFlush s = none :=
  List.findSome?_eq_none_iff.2 fun e he => by simp [flushOne, h e he]

section room

variable (room : hasRoom s = true)

include room

theorem serveMarks_none_iff : serveMarks s = none ↔ ∀ i job img, ¬MarkCalls s i job img := by
  rw [serveMarks, if_pos room, List.findSome?_eq_none_iff]
  simp only [Option.map_eq_none_iff, markedJob_none_iff, allSlots, List.mem_finRange, forall_const]

theorem queueStoring_none_iff :
    queueStoring s = none ↔ ∀ i ∈ s.renewal.storing, ∀ x ∈ (ctxOf s i).jobs, x.2 = .queued := by
  simp only [← firstUnqueued_none_iff]
  unfold queueStoring
  cases first : s.renewal.storing.find? fun i => (firstUnqueued (ctxOf s i)).isSome with
  | none => simpa using first
  | some i =>
    have waiting := List.find?_some first
    obtain ⟨job, unqueued⟩ := Option.isSome_iff_exists.1 waiting
    simp only [unqueued, room, if_true, reduceCtorEq, false_iff]
    exact fun queued => by simp [queued i (List.mem_of_find?_eq_some first)] at unqueued

theorem serveHour_none_iff : serveHour s = none ↔ s.writer.stripPending = false := by
  unfold serveHour
  cases s.writer.stripPending with
  | false => simp
  | true =>
    simp only [room, if_true]
    split <;> simp

end room

/-! ### The drain (R205) -/

theorem drained_eq_true_iff : drained s = true ↔ s.writer.job = none ∧ s.writer.queue = [] ∧ s.writer.tamper = none ∧
    s.cache.waits = [] ∧ giveOne s = none ∧ ∀ e ∈ s.cache.entries, e.dirty = false ∧ e.flushReq = false := by
  simp [drained, unclean, and_assoc]

/-- While a HOLD waits in SERVING, what the model checks is what R205 lists. -/
theorem drained_iff (hd : s.device = .serving) (hold : s.port.exec = .hold failed) : drained s = true ↔ DrainMet s := by
  rw [drained_eq_true_iff, giveOne_none_iff]
  constructor
  · rintro ⟨job, queue, tamper, waits, nobody, entries⟩
    have room : hasRoom s = true := (hasRoom_serving hd).2 (by simp [queue])
    have marks := nobody serveMarks (by simp [roomWays])
    have contexts := nobody queueStoring (by simp [roomWays])
    have strip := nobody serveHour (by simp [roomWays])
    exact ⟨job, queue, tamper, ⟨waits, (serveMarks_none_iff room).1 marks, (queueStoring_none_iff room).1 contexts,
      (serveHour_none_iff room).1 strip⟩, entries⟩
  · rintro ⟨job, queue, tamper, ⟨fills, marks, contexts, strip⟩, entries⟩
    have room : hasRoom s = true := (hasRoom_serving hd).2 (by simp [queue])
    refine ⟨job, queue, tamper, fills, fun way hway => ?_, entries⟩
    simp only [roomWays, List.mem_cons, List.not_mem_nil, or_false] at hway
    obtain rfl | rfl | rfl | rfl | rfl | rfl | rfl := hway
    · exact portRoom_hold hold
    · exact serveWaits_none fills _
    · exact serveWaits_none fills _
    · exact serveFlush_none fun e he => (entries e he).2
    · exact (serveMarks_none_iff room).2 marks
    · exact (queueStoring_none_iff room).2 contexts
    · exact (serveHour_none_iff room).2 strip

/-! ### What the answer of a HOLD leaves (R83, R194) -/

theorem not_onItsWay (queue : s.writer.queue = []) (job : s.writer.job = none) (p : StoreJob → Prop) : ¬OnItsWay s p := by
  simp [OnItsWay, queue, job]

theorem markCalls_congr {i : Fin 32} (slots : slotOf t i = slotOf s i) (way : ∀ p, OnItsWay t p ↔ OnItsWay s p)
    (job : StoreJob) (img : SlotImg) : MarkCalls t i job img ↔ MarkCalls s i job img := by
  simp only [MarkCalls, slots, way]

/-- A release of pins makes no entry dirty and asks for no flush. -/
theorem releaseEntry_clean {q : Requester} {e x : Entry} (h : releaseEntry q e = some x) :
    x.dirty = e.dirty ∧ x.flushReq = e.flushReq := by
  have keeps : (unpinned q e).dirty = e.dirty ∧ (unpinned q e).flushReq = e.flushReq := by
    cases q
    · dsimp only [unpinned]
      split <;> exact ⟨rfl, rfl⟩
    · exact ⟨rfl, rfl⟩
  obtain rfl | ⟨rfl, -⟩ | ⟨rfl, -⟩ := releaseEntry_cases h
  · exact ⟨rfl, rfl⟩
  · exact keeps
  · exact keeps

/-- The drain stays met as the HOLD is answered. -/
theorem drainMet_finish (h : DrainMet s) (c : Code) (b : List Byte) : DrainMet (finish c b s) := by
  have job : (finish c b s).writer.job = none := Option.map_eq_none_iff.2 h.job
  have queue : (finish c b s).writer.queue = [] := List.map_eq_nil_iff.2 h.queue
  have idle (p : StoreJob → Prop) : OnItsWay (finish c b s) p ↔ OnItsWay s p :=
    iff_of_false (not_onItsWay queue job p) (not_onItsWay h.queue h.job p)
  refine ⟨job, queue, h.tamper, ⟨?_, fun i job img => ?_, h.waiters.contexts, h.waiters.strip⟩, fun x hx => ?_⟩
  · have waits : (finish c b s).cache.waits = (s.cache.waits.filter (·.renewal)).map fun w =>
        { w with port := false, line := .renewal } := rfl
    rw [waits, h.waiters.fills]
    rfl
  · rw [markCalls_congr (s := s) (t := finish c b s) rfl idle]
    exact h.waiters.marks i job img
  · obtain ⟨e, he, left⟩ := List.mem_filterMap.1 (show x ∈ s.cache.entries.filterMap (releaseEntry .port) from hx)
    obtain ⟨dirty, asked⟩ := releaseEntry_clean left
    obtain ⟨clean, unasked⟩ := h.entries e he
    exact ⟨dirty.trans clean, asked.trans unasked⟩

/-- The drain does not speak of the device state. -/
theorem drainMet_device (h : DrainMet s) (d : DevState) : DrainMet { s with device := d } :=
  ⟨h.job, h.queue, h.tamper, ⟨h.waiters.fills, h.waiters.marks, h.waiters.contexts, h.waiters.strip⟩, h.entries⟩

/-! ### HOLD_DRAINED -/

theorem exec_holdDrained (hrun : running s = true) (hd : s.device = .serving) (hold : s.port.exec = .hold failed)
    (met : DrainMet s) : exec .holdDrained s = .next (holdDrained failed s) := by
  simp only [exec, execHoldDrained, hold, hrun, hd, (drained_iff hd hold).2 met, beq_self_eq_true, Bool.and_self, if_true]

/-- Without a HOLD that waits, and before its drain is met, nothing happens. -/
theorem exec_holdDrained_unmet (hd : s.device = .serving) (unmet : ∀ failed, s.port.exec = .hold failed → ¬DrainMet s) :
    exec .holdDrained s = .next s := by
  cases waits : s.port.exec with
  | hold failed =>
    simp only [exec, execHoldDrained, waits]
    refine if_neg fun ready => unmet failed waits ((drained_iff hd waits).1 ?_)
    simp only [Bool.and_eq_true] at ready
    exact ready.2
  | _ => simp only [exec, execHoldDrained, waits]

/-- A serving device comes to a command hold by HOLD_DRAINED, its drain met and kept, and nobody waits for room. -/
theorem drainMet_of_hold {c : Instr} (hrun : running s = true) (hd : s.device = .serving) (e : exec c s = .next t)
    (held : t.device = .holding .command) : DrainMet t ∧ exec .roomGiven s = .next s := by
  have own : c = .holdDrained := by
    by_contra other
    have before := heldBefore_exec other e held
    simp [hd] at before
  subst own
  by_cases ready : ∃ failed, s.port.exec = .hold failed ∧ DrainMet s
  · obtain ⟨failed, waits, met⟩ := ready
    rw [exec_holdDrained hrun hd waits met] at e
    cases e
    cases failed with
    | true => exact absurd (hd.symm.trans held) nofun
    | false =>
      obtain ⟨-, -, -, -, nobody, -⟩ := drained_eq_true_iff.1 ((drained_iff hd waits).2 met)
      refine ⟨drainMet_finish (drainMet_device met _) .ok [], ?_⟩
      rw [exec_roomGiven hrun hd, nobody]
      rfl
  · rw [exec_holdDrained_unmet hd fun failed waits met => ready ⟨failed, waits, met⟩] at e
    cases e
    simp [hd] at held

end Sys2Proof.Machine
end

section
/-! PROOFS. HOLD: its refusal during a renewal, its flush, and the whole of it (R88, R89, R205). -/

namespace Sys2Proof.Machine

variable {r s t : State} {body : List Byte}

/-! ### A renewal in progress -/

/-- The context states that R205 calls a renewal in progress. -/
def renewing : CtxState → Bool
  | .closed | .verifying | .storing => true
  | .idle | .gathering | .done | .failed => false

theorem renewing_iff {x : CtxState} : renewing x = true ↔ x = .closed ∨ x = .verifying ∨ x = .storing := by
  cases x <;> simp [renewing]

theorem renewalActive_eq (s : State) : renewalActive s = (renewing (ctxOf s 0).state || renewing (ctxOf s 1).state) := rfl

theorem renewalActive_iff : renewalActive s = true ↔
    ∃ i, (ctxOf s i).state = .closed ∨ (ctxOf s i).state = .verifying ∨ (ctxOf s i).state = .storing := by
  rw [renewalActive_eq, Bool.or_eq_true, renewing_iff, renewing_iff, Fin.exists_fin_two]

theorem exec_hold (handed : Handed .hold body s) (hd : s.device = .serving) : exec .hold s = .next (runHold s) := by
  have device : (runHold s).device = .serving := (beside_runHold (beside_refl s)).device.trans hd
  have run : exec .hold s = .next (portSettle (runHold s)) :=
    onHanded_of_handed (run := fun _ s => portSettle (runHold s)) handed
  rw [run, portSettle_of_not_faulted (by simp [device])]

theorem runHold_refused (hd : s.device = .serving) (active : renewalActive s = true) :
    runHold s = respond .renewalActive [] s := by simp [runHold, hd, active]

/-- The state as a HOLD begins to wait, the dirty entries marked (R205). -/
def holdMarked (s : State) : State := markFlush (fun _ => true) (setExec (.hold false) s)

theorem runHold_waits (hd : s.device = .serving) (idle : ¬renewalActive s = true) :
    runHold s = flushRequests (holdMarked s) := by simp [runHold, hd, idle, holdMarked]

/-! ### What flush requests change (R88) -/

/-- A state that differs in its queue and in its entries' flags alone. -/
def FlushLeft (r s : State) : Prop := ∃ queue entries, entries.map entryKey = r.cache.entries.map entryKey ∧
  s = { r with writer := { r.writer with queue := queue }, cache := { r.cache with entries := entries } }

theorem flushLeft_refl (s : State) : FlushLeft s s := ⟨_, _, rfl, rfl⟩

theorem FlushLeft.trans (h : FlushLeft r s) (k : FlushLeft s t) : FlushLeft r t := by
  obtain ⟨_, _, keys, rfl⟩ := h
  obtain ⟨queue, entries, same, rfl⟩ := k
  exact ⟨queue, entries, same.trans keys, rfl⟩

theorem FlushLeft.device (h : FlushLeft r s) : s.device = r.device := by
  obtain ⟨_, _, -, rfl⟩ := h
  rfl

theorem FlushLeft.keys (h : FlushLeft r s) : s.cache.entries.map entryKey = r.cache.entries.map entryKey := by
  obtain ⟨_, _, keys, rfl⟩ := h
  exact keys

theorem map_entryKey {f : Entry → Entry} (hf : ∀ e, entryKey (f e) = entryKey e) (es : List Entry) :
    (es.map f).map entryKey = es.map entryKey := by
  rw [List.map_map]
  exact List.map_congr_left fun e _ => hf e

theorem flushLeft_markFlush (p : Entry → Bool) (s : State) : FlushLeft s (markFlush p s) :=
  ⟨s.writer.queue, _, map_entryKey (fun e => by split <;> rfl) _, rfl⟩

/-- One flush request: none is made, or a HIGHWATER is asked for and the entry's flags clear. -/
theorem flushStep_cases (hd : s.device = .serving) (x : Entry) : flushOne s x = none ∧ flushStep s x = s ∨
    ∃ queue, Asked s.writer.queue (flushJob s x) queue ∧ flushStep s x = { s with
      writer := { s.writer with queue := queue }
      cache := { s.cache with
        entries := changed s.cache.entries x.slot x.gen fun e => { e with flushReq := false, dirty := false } } } := by
  unfold flushStep
  cases made : flushOne s x with
  | none => exact .inl ⟨rfl, rfl⟩
  | some u =>
    obtain ⟨-, -, queue, asked, rfl⟩ := (flushOne_iff hd).1 made
    exact .inr ⟨queue, asked, rfl⟩

theorem flushLeft_flushStep (hd : s.device = .serving) (x : Entry) : FlushLeft s (flushStep s x) := by
  obtain ⟨-, same⟩ | ⟨queue, -, made⟩ := flushStep_cases hd x
  · rw [same]
    exact flushLeft_refl s
  · rw [made]
    exact ⟨queue, _, map_entryKey (fun e => by split <;> rfl) _, rfl⟩

theorem flushLeft_foldl (l : List Entry) (hd : s.device = .serving) : FlushLeft s (l.foldl flushStep s) := by
  induction l generalizing s with
  | nil => exact flushLeft_refl s
  | cons x l ih =>
    have step := flushLeft_flushStep hd x
    exact step.trans (ih (step.device.trans hd))

theorem flushLeft_flushRequests (hd : s.device = .serving) : FlushLeft s (flushRequests s) := by
  rw [flushRequests_eq, if_pos hd]
  exact flushLeft_foldl _ hd

/-! ### Which requests wait for room (R88, R178) -/

/-- A flush request that can be made. -/
def WantsFlush (e : Entry) : Prop := e.flushReq = true ∧ e.withhold = none

theorem asked_length {queue after : List QJob} {q : QJob} (asked : Asked queue q after) : queue.length ≤ after.length := by
  obtain ⟨-, rfl⟩ | ⟨-, -, rfl⟩ := asked <;> simp

/-- A queue with a free place takes every counter job (R177). -/
theorem full_of_not_asked {queue : List QJob} {q : QJob} (refused : ∀ after, ¬Asked queue q after) : 8 ≤ queue.length := by
  by_contra free
  by_cases own : ∃ x ∈ queue, counterKeyOf x.job = counterKeyOf q.job
  · exact refused _ (.inl ⟨own, rfl⟩)
  · exact refused _ (.inr ⟨fun x hx same => own ⟨x, hx, same⟩, Nat.not_le.1 free, rfl⟩)

/-- An entry that wants its flush is still to come, or the queue is full. -/
def FlushesPending (l : List Entry) (s : State) : Prop :=
  ∀ e ∈ s.cache.entries, WantsFlush e → e ∈ l ∨ 8 ≤ s.writer.queue.length

theorem flushesPending_flushStep {x : Entry} {l : List Entry} (hd : s.device = .serving) (h : FlushesPending (x :: l) s) :
    FlushesPending l (flushStep s x) := by
  obtain ⟨none, same⟩ | ⟨queue, asked, made⟩ := flushStep_cases hd x
  · rw [same]
    intro e he wants
    obtain own | full := h e he wants
    · obtain rfl | later := List.mem_cons.1 own
      · exact .inr (full_of_not_asked ((flushOne_none_iff hd).1 none wants.1 wants.2))
      · exact .inl later
    · exact .inr full
  · rw [made]
    intro e he wants
    obtain ⟨y, hy, eq⟩ := List.mem_map.1 he
    split at eq
    · subst eq
      cases wants.1
    · rename_i other
      subst eq
      obtain own | full := h y hy wants
      · exact .inl ((List.mem_cons.1 own).resolve_left fun first => other (by simp [first]))
      · exact .inr (full.trans (asked_length asked))

theorem flushesPending_foldl {l : List Entry} (hd : s.device = .serving) (h : FlushesPending l s) :
    FlushesPending [] (l.foldl flushStep s) := by
  induction l generalizing s with
  | nil => exact h
  | cons x l ih => exact ih ((flushLeft_flushStep hd x).device.trans hd) (flushesPending_flushStep hd h)

/-- A flush request without a cause stays only where the queue is full. -/
theorem flushRequests_full (hd : s.device = .serving) {e : Entry} (he : e ∈ (flushRequests s).cache.entries)
    (asks : e.flushReq = true) (uncaused : e.withhold = none) : 8 ≤ (flushRequests s).writer.queue.length := by
  rw [flushRequests_eq, if_pos hd] at he ⊢
  have pending : FlushesPending s.cache.entries s := fun e he _ => .inl he
  exact (flushesPending_foldl hd pending e he ⟨asks, uncaused⟩).resolve_left List.not_mem_nil

/-! ### HOLD -/

/-- A dirty entry is flush-requested, or its h is on its way, as the HOLD begins to wait (R88). -/
theorem dirty_holdFlush {e : Entry} (one : OneEntryEach s) (he : e ∈ s.cache.entries) (dirty : e.dirty = true) :
    Flushing (flushRequests (holdMarked s)) e :=
  flushRequests_markFlush (p := fun _ => true) (s := setExec (.hold false) s) one he dirty rfl

/-- An entry that is not dirty and not flush-requested stays as the HOLD begins to wait. -/
theorem clean_holdFlush {e : Entry} (one : OneEntryEach s) (he : e ∈ s.cache.entries) (clean : e.dirty = false)
    (unasked : e.flushReq = false) : e ∈ (flushRequests (holdMarked s)).cache.entries := by
  have keys : ((holdMarked s).cache.entries.map entryKey).Nodup :=
    (flushLeft_markFlush (fun _ => true) (setExec (.hold false) s)).keys ▸ one
  have marked : e ∈ (holdMarked s).cache.entries := List.mem_map.2 ⟨e, he, if_neg (by simp [clean])⟩
  have same : flushed e = e := by
    cases e
    simp_all [flushed]
  obtain kept | ⟨gone, -⟩ := flushRequests_entry keys marked
  · exact kept
  · rwa [same] at gone

/-- Settles O34: HOLD by the flush it starts, HOLD_DRAINED by the drain, and the command hold by the one command that enters it. -/
theorem holdWaitsForItsDrain : Obligations.HoldWaitsForItsDrain := by
  intro s hrun hd
  refine ⟨fun body hold => ⟨fun active => ?_, fun idle => ?_⟩, fun failed hold met => ?_, fun unmet => ?_,
    fun c t e held => drainMet_of_hold hrun hd e held⟩
  · rw [exec_hold ⟨hrun, hold⟩ hd, runHold_refused hd (renewalActive_iff.2 active)]
  · have inactive : ¬renewalActive s = true := by simpa [renewalActive_iff] using idle
    have serving : (holdMarked s).device = .serving := hd
    have left : FlushLeft (setExec (.hold false) s) (flushRequests (holdMarked s)) :=
      (flushLeft_markFlush _ _).trans (flushLeft_flushRequests serving)
    have keys := left.keys
    have dirty (one : OneEntryEach s) (e : Entry) := dirty_holdFlush (e := e) one
    have clean (one : OneEntryEach s) (e : Entry) := clean_holdFlush (e := e) one
    have full (e : Entry) := flushRequests_full (e := e) serving
    refine ⟨_, (exec_hold ⟨hrun, hold⟩ hd).trans (congrArg _ (runHold_waits hd inactive)), ?_⟩
    generalize flushRequests (holdMarked s) = t at left keys dirty clean full
    obtain ⟨queue, entries, -, rfl⟩ := left
    exact ⟨rfl, hd, rfl, rfl, rfl, rfl, keys, fun one => ⟨dirty one, clean one, full⟩⟩
  · refine ⟨_, exec_holdDrained hrun hd hold met, ?_⟩
    cases failed with
    | false => exact ⟨rfl, fun _ => ⟨rfl, rfl⟩, nofun, rfl, rfl, rfl, rfl⟩
    | true => exact ⟨rfl, nofun, fun _ => ⟨hd, rfl⟩, rfl, rfl, rfl, rfl⟩
  · exact exec_holdDrained_unmet hd fun _ _ => unmet

end Sys2Proof.Machine
end

section
/-! PROOFS. A step on a queue that is not empty, beside `step_idle` for the empty one (95_what_each_step_holds.md). -/

namespace Sys2Proof.Machine

theorem step_front {s : State} {c : Instr} {rest : List Instr} (front : s.pending = c :: rest) :
    step s = exec c { s with pending := rest } := by
  simp only [step, front]

/-- Settles O1: the branch of the step for a queue with a front command. -/
theorem stepRunsTheFrontCommand : Obligations.StepRunsTheFrontCommand := by
  intro c rest s front
  exact step_front front

end Sys2Proof.Machine
end
